-- ==== Sys2Proof/Word.lean ====
section
/-! DEFINITION. The word types of the AVT-4140 and nothing else: 64-bit scalars (R32), vector registers of
2,048 bits (R2, R58), predicates of one bit per byte lane (R58), instruction words of 96 bits (R56). -/

namespace Sys2Proof

/-- A scalar register value or a virtual address (R22, R58). -/
abbrev Word := BitVec 64
/-- One byte of memory. -/
abbrev Byte := BitVec 8
/-- The contents of a vector register, `%vlen` = 2,048 bits (R2). -/
abbrev VReg := BitVec 2048
/-- The contents of a predicate register, `%vlen`/8 bits (R58). -/
abbrev PReg := BitVec 256

end Sys2Proof
end

