-- ==== Sys2Proof/Config.lean ====
section
/-! DEFINITION. What the spec leaves open: values that no rule states. Each is an opaque constant, so no proof can
learn its value and a statement about it holds whatever the hardware does. Log entries 7, 8 and 9. -/

namespace Sys2Proof.Config

/-- DESIGN CHOICE (log 9): a value that no rule states, numbered by the plain counter of `State`. -/
opaque freeValue : Nat → BitVec 64
/-- DESIGN CHOICE (log 8): which of the results that R126 permits a special function returns; `fn` is the
instruction's OP, `ty` the element type's code, `x` the argument after flush. -/
opaque sfPick (fn ty : Nat) (x : BitVec 32) : Nat
/-- The keyed check code of a ticket (R195): partition, key generation and ticket bits [47:5]. -/
opaque ticketCheck (part keyGen : Nat) (bits : BitVec 43) : BitVec 16
/-- The keyed content hash of a 64-byte line (R316); `salt` is the context number plus one under scope 1. -/
opaque pasteHash (part keyGen salt : Nat) (data : BitVec 512) : BitVec 32
/-- ECDSA P-256 verification of a digest under a key (R100, R389); the digests are computed in the model. -/
opaque verify (keyId : BitVec 256) (digest : BitVec 256) (sig : List Byte) : Bool
/-- Signing with the device's identity key (R382), whose value is never readable. -/
opaque sign (alg : Nat) (msg : List Byte) : List Byte
/-- Certificate bytes of a slot (R382). -/
opaque certificate (slot : Nat) : List Byte
/-- Session secrets of SPDM (R382, R383): never readable, so never fixed. -/
opaque sessionSecret (n : Nat) : BitVec 256
/-- The key trusted for firmware (R389). -/
opaque vendorKey : BitVec 256
/-- Keys of a partition record (R381); no rule says how PARTCREATE receives them. -/
opaque partKeys (part : Nat) : List (BitVec 256)
/-- Entry points of the supervisor image placed at stage 7 (R393), not given by the spec (log 7). -/
opaque superEntry (die : Nat) (x : Bool) : BitVec 64
/-- `%svec` set from the supervisor image at stage 7 (R393) (log 7). -/
opaque superVec (cluster : Nat) : BitVec 64
/-- Stepping of the part (R379). -/
opaque stepping : BitVec 16
/-- Readings of the sensors (R379, R396): power, compute-die and HBM temperature, at a cycle. -/
opaque powerReading (cycle : Nat) : BitVec 12
opaque dieTemp (cycle : Nat) : BitVec 8
opaque hbmTemp (cycle : Nat) : BitVec 8
/-- The wire form of an SPDM 1.3 response, which the spec does not lay out: request code and what it carries (R382). -/
opaque spdmWire : Nat → List Nat → List Byte
/-- The FINISH code that proves a session's keys (R382). -/
opaque finishMac : Nat → BitVec 256
/-- Digests of the boot ROM and of the supervisor image (R382). -/
opaque bootDigest : BitVec 256
opaque superDigest : BitVec 256
/-- Digest of the images running in a block (R390). -/
opaque blockDigest (block version : Nat) : BitVec 256
/-- Version and rollback counter of the firmware that the part leaves the factory with (R389). -/
opaque fwVersion (block : Nat) : Nat
/-- The version field of a firmware image, whose layout is the vendor's own (R389). -/
opaque imageVersion : List Byte → Nat
/-- The check of a packet's routing fields (R367), whose function the spec does not give. -/
opaque routeCheck (fields : BitVec 48) : BitVec 16
/-- The link CRC of a flit of a packet, the packet CRC, and the authentication tag under a key (R367): of the bytes that they
cover the spec lays out the routing fields alone. -/
opaque linkCrc (routing : BitVec 64) (flit : Nat) : BitVec 16
opaque packetCrc (routing : BitVec 64) (gen : BitVec 8) (seq : Nat) : BitVec 32
opaque packetTag (key : Nat) (routing : BitVec 64) (seq : Nat) : Nat
/-- Intermediate device of a non-minimal path (R366), chosen at random by the source. -/
opaque midDevice (n : Nat) : Nat

end Sys2Proof.Config
end

