-- ==== Sys2Proof/Syntax.lean ====
section
/-! DEFINITION. The instructions and steps of the opcode table, one constructor a row. The 202 instruction rows
carry the fields of the one 96-bit layout (R57); where several rows share an OP, the function field selects the row
(R76). The 105 rows of device steps and outside inputs carry the names of what they act on. -/

namespace Sys2Proof

/-- The two strands of a thread (R31). -/
inductive Side | strandA | strandX
  deriving DecidableEq, Repr

/-- Element types (R65), the two codes that are no type included. -/
inductive Ty
  | none | s8 | u8 | s16 | u16 | s32 | u32 | s64 | u64 | bf16 | fp16 | fp32 | notTypeC | pl | b | notTypeF
  deriving DecidableEq, Repr

/-- Operand classes (R58). -/
inductive OpClass
  | scalar | vector | predicate | queue | tile | special | immediate | absent
  deriving DecidableEq, Repr

/-- An operand field: class and index (R58). -/
structure Operand where
  cls : OpClass
  idx : BitVec 7
  deriving DecidableEq, Repr

/-- Rounding modes (R66). -/
inductive Rm | rne | rtz | rdn | rup
  deriving DecidableEq, Repr

/-- The fields of an instruction word but OP (R57). -/
structure Enc where
  fn    : BitVec 4
  ty    : Ty
  gneg  : Bool
  gsel  : BitVec 3
  la    : BitVec 4
  wm    : BitVec 8
  da    : Operand
  sa    : Operand
  sb    : Operand
  sw    : BitVec 3
  gs    : BitVec 3
  ftz   : Bool
  sat   : Bool
  rm    : Rm
  imm   : BitVec 24
  deriving DecidableEq, Repr

/-- One constructor for each row of the opcode table. In an event row `t` is a packed thread name (R10), `c` a
cluster (device × 128 + package cluster), `k` a core (cluster × 8 + core), `d` a device, `die` a die
(device × 4 + die), `a` a memory key, and `n` the number of a queued item. -/
inductive Instr
  | nop (e : Enc)
  | br (e : Enc)
  | brl (e : Enc)
  | jmp (e : Enc)
  | jmpl (e : Enc)
  | dbnz (e : Enc)
  | trap (e : Enc)
  | brk (e : Enc)
  | kget (e : Enc)
  | kset (e : Enc)
  | kswap (e : Enc)
  | sret (e : Enc)
  | uret (e : Enc)
  | add (e : Enc)
  | sub (e : Enc)
  | mul (e : Enc)
  | mulh (e : Enc)
  | mad (e : Enc)
  | div (e : Enc)
  | rem (e : Enc)
  | min (e : Enc)
  | max (e : Enc)
  | abs (e : Enc)
  | sel (e : Enc)
  | ldi (e : Enc)
  | ldp (e : Enc)
  | and (e : Enc)
  | or (e : Enc)
  | xor (e : Enc)
  | andn (e : Enc)
  | shl (e : Enc)
  | shr (e : Enc)
  | sar (e : Enc)
  | rotl (e : Enc)
  | clz (e : Enc)
  | ctz (e : Enc)
  | popc (e : Enc)
  | bfx (e : Enc)
  | bfi (e : Enc)
  | cmp (e : Enc)
  | plog (e : Enc)
  | fadd (e : Enc)
  | fsub (e : Enc)
  | fmul (e : Enc)
  | ffma (e : Enc)
  | fdiv (e : Enc)
  | fsqrt (e : Enc)
  | fmin (e : Enc)
  | fmax (e : Enc)
  | fcmp (e : Enc)
  | fcvt (e : Enc)
  | fsgn (e : Enc)
  | fclass (e : Enc)
  | vadd (e : Enc)
  | vsub (e : Enc)
  | vmul (e : Enc)
  | vmulh (e : Enc)
  | vmad (e : Enc)
  | vmin (e : Enc)
  | vmax (e : Enc)
  | vabs (e : Enc)
  | vand (e : Enc)
  | vor (e : Enc)
  | vxor (e : Enc)
  | vshl (e : Enc)
  | vshr (e : Enc)
  | vsar (e : Enc)
  | vcmp (e : Enc)
  | vsel (e : Enc)
  | vfadd (e : Enc)
  | vfsub (e : Enc)
  | vfmul (e : Enc)
  | vffma (e : Enc)
  | vfdiv (e : Enc)
  | vfsqrt (e : Enc)
  | vfmin (e : Enc)
  | vfmax (e : Enc)
  | vfcmp (e : Enc)
  | vfcvt (e : Enc)
  | vfsgn (e : Enc)
  | vfclass (e : Enc)
  | bmaxe (e : Enc)
  | malign (e : Enc)
  | vbcast (e : Enc)
  | vbcastEl (e : Enc)
  | vperm (e : Enc)
  | vshuf (e : Enc)
  | vext (e : Enc)
  | vextEl (e : Enc)
  | vins (e : Enc)
  | vred (e : Enc)
  | vredQueue (e : Enc)
  | vscan (e : Enc)
  | vcomp (e : Enc)
  | lbc (e : Enc)
  | vlq (e : Enc)
  | pcnt (e : Enc)
  | pfirst (e : Enc)
  | pset (e : Enc)
  | vexp2 (e : Enc)
  | vlog2 (e : Enc)
  | vrcp (e : Enc)
  | vrsq (e : Enc)
  | vsin (e : Enc)
  | vcos (e : Enc)
  | vtanh (e : Enc)
  | welf (e : Enc)
  | wmerge (e : Enc)
  | wred (e : Enc)
  | wfin (e : Enc)
  | ld (e : Enc)
  | st (e : Enc)
  | vld (e : Enc)
  | vst (e : Enc)
  | vlds (e : Enc)
  | vsts (e : Enc)
  | vldx (e : Enc)
  | vstx (e : Enc)
  | tld (e : Enc)
  | vtld (e : Enc)
  | rdm (e : Enc)
  | rdmm (e : Enc)
  | tstat (e : Enc)
  | tdrop (e : Enc)
  | pull (e : Enc)
  | pullr (e : Enc)
  | fence (e : Enc)
  | clean (e : Enc)
  | inval (e : Enc)
  | invalI (e : Enc)
  | discard (e : Enc)
  | pref (e : Enc)
  | lease (e : Enc)
  | unlease (e : Enc)
  | ldsync (e : Enc)
  | ldsyncTake (e : Enc)
  | stsync (e : Enc)
  | feset (e : Enc)
  | festat (e : Enc)
  | cinc (e : Enc)
  | csetCount (e : Enc)
  | csetPend (e : Enc)
  | cwait (e : Enc)
  | cwaitPh (e : Enc)
  | cphase (e : Enc)
  | bar (e : Enc)
  | advseq (e : Enc)
  | watch (e : Enc)
  | unwatch (e : Enc)
  | arm (e : Enc)
  | disarm (e : Enc)
  | aadd (e : Enc)
  | aand (e : Enc)
  | aor (e : Enc)
  | axor (e : Enc)
  | amin (e : Enc)
  | amax (e : Enc)
  | aswp (e : Enc)
  | acas (e : Enc)
  | rsst (e : Enc)
  | rsld (e : Enc)
  | rsclr (e : Enc)
  | msadd (e : Enc)
  | msmul (e : Enc)
  | msfma (e : Enc)
  | msscale (e : Enc)
  | mscopy (e : Enc)
  | msfill (e : Enc)
  | msrow (e : Enc)
  | mszero (e : Enc)
  | mma (e : Enc)
  | mring (e : Enc)
  | scacc (e : Enc)
  | cld (e : Enc)
  | cst (e : Enc)
  | czero (e : Enc)
  | cstat (e : Enc)
  | cstatClr (e : Enc)
  | mprio (e : Enc)
  | rgset (e : Enc)
  | rgclr (e : Enc)
  | rgstat (e : Enc)
  | cpy (e : Enc)
  | cpyL2 (e : Enc)
  | cpys (e : Enc)
  | send (e : Enc)
  | sendeos (e : Enc)
  | qstat (e : Enc)
  | park (e : Enc)
  | spawn (e : Enc)
  | reap (e : Enc)
  | preempt (e : Enc)
  | resumeJob (e : Enc)
  | resumeRun (e : Enc)
  | ctxsave (e : Enc)
  | ctxsaveDrop (e : Enc)
  | ctxload (e : Enc)
  | ctxloadDrop (e : Enc)
  | tlbinvCtx (e : Enc)
  | tlbinvOwn (e : Enc)
  | tprobeCtx (e : Enc)
  | tprobeOwn (e : Enc)
  | illegalOpcode (w : BitVec 96)
  | longOpComplete (t : Nat) (x : Side) (id : Nat)
  | atomicExecute (t : Nat) (x : Side) (id : Nat)
  | leaseExpiry (die ctx lid : Nat)
  | establish (die n : Nat)
  | cxcDrain (die n : Nat)
  | cxcRelease (die n : Nat)
  | circuitTuningDone (die n : Nat) (ok : Bool)
  | circuitDrainDone (die n : Nat)
  | tfence (d : Nat) (g : BitVec 8)
  | packetForward (n chk : Nat)
  | packetDelivery (n : Nat) (ok : Bool)
  | laneFailure (d port : Nat)
  | hostMemWrite (d pa : Nat) (data : List Byte)
  | hostMemRead (d pa len : Nat)
  | hostMemoryWrite (d pa : Nat) (data : List Byte)
  | registerWrite (d ofs : Nat) (v : Word)
  | retrainWindowEnd (die ch : Nat)
  | firmwareActivate (d blk : Nat)
  | negotiateAlgorithms (d alg : Nat)
  | getCertificate (d slot ofs len : Nat)
  | challenge (d slot : Nat) (nonce : BitVec 256)
  | getMeasurements (d idx : Nat) (nonce : BitVec 256)
  | keyExchange (d link : Nat) (pub : BitVec 512)
  | finish (d link : Nat) (mac : BitVec 256)
  | keyUpdate (d link : Nat)
  | tdispStop (d part : Nat) (err : Bool)
  | correctedError (d blk : Nat)
  | powerClockStep (d watts : Nat)
  | thermalThrottle (d dieC hbmC : Nat)
  | thermalShutdown (d dieC : Nat)
  | pldmFwUpdate (d blk : Nat) (image : List Byte) (sig : List Byte)
  | tdispLock (d part : Nat)
  | tdispStart (d part : Nat)
  | podMembershipSet (d num q : Nat) (members : List Nat) (time : Nat)
  | retrainWindowStart (die ch : Nat)
  | portTrainingComplete (d port mode : Nat)
  | userTrapEntry
  | supervisorTrapEntry
  | messageArrival
  | refusalReceived
  | requestRepresent
  | sendRepresent
  | spawnRecordAdmit
  | spawnPlacement
  | spawnPriorityAge
  | clusterScrub
  | ticketAllocate
  | ticketLineFill
  | ticketLeaseExpiry
  | ticketPresent
  | copyBlockComplete
  | copyJobFault
  | fenceComplete
  | feWordEvent
  | remoteLdsyncRequest
  | acquireAtReleaser
  | pageCountPeriod
  | counterArrival
  | armActionRun
  | watchPlaceRequest
  | watchAnswerDelivery
  | watchAnswerReoffer
  | unwatchRequest
  | msLineComplete
  | matrixOpStart
  | matrixPriorityAge
  | matrixOperandFetch
  | matrixKstep
  | ringGroupForm
  | ringLatchArrival
  | ringWatchdogExpiry
  | regionCopyRow
  | regionCopyFault
  | l2LineInstall
  | pasteEccError
  | l2statSnapshot
  | tableFenceComplete
  | requestBounce
  | linkAdmission
  | permitGrantTimeout
  | linkReplay
  | packetAck
  | dropNotice
  | packetRetransmitTimeout
  | requestAnswerTimeout
  | partcreate
  | partdestroy
  | rekey
  | loadImage
  | drain
  | online
  | resetCluster
  | chretire
  | retrain
  | fwupdate
  | getVersion
  | getCapabilities
  | getDigests
  | endSession
  | uncorrectableError
  | clusterFence
  | deviceReset
  | bringupStageTimeout
  | pldmMonitor
  deriving DecidableEq, Repr

end Sys2Proof
end

