-- ==== Sys2Proof/Machine/State.lean ====
section
/-! DEFINITION. The state of the machine as plain data: every piece of state that the spec names, a whole pod of
devices in one sparse record, and the machine right after reset.

Names are numbers: a thread is its packed name (R10), a core is `name / 8`, a cluster is `name / 64` (device × 128 +
package cluster, R9), a die is `cluster / 32`, a device is `die / 4`. Tables are lists of pairs of a number and what
it holds; a number that a table does not list holds the table's reset value. -/

namespace Sys2Proof.Machine

/-- Trap causes (R323); each names the routing of the table there. -/
inductive Cause
  | illegal | reservedField | privileged | operandClass | strand
  | align | windowSpan | unmapped | notOwner | pageKind | atomicType | permission | poison | homeFenced
  | translation | ownView | ticketCheck | watchRetry | syncRetry | barrierOverrun | ringTimeout | copyFault
  | software | breakpoint
  deriving DecidableEq, Repr

/-- A fault record of a token or a counter (R250, R290). -/
structure FaultRec where
  cause : Cause
  addr  : Word
  src   : Bool
  /-- The job, none for a watch, and the token that tracks it (R324). -/
  job   : Option Nat
  tok   : Option (BitVec 3)
  /-- The FAULTED region entry whose cause it carries, by cluster and number (R305). -/
  region : Option (Nat × Nat)
  deriving DecidableEq, Repr

/-- The record from which a COPY_FAULT or a fault of `cwait` is delivered (R256, R290). -/
inductive Origin
  /-- A token's record, which leaves FAULTED at delivery. -/
  | token (n : Nat)
  /-- OVR of a counter, which the evaluation has cleared. -/
  | overrun (k : Nat)
  /-- FLT of a counter, which the evaluation has cleared. -/
  | posted (k : Nat) (f : FaultRec)
  /-- The cause of FAULTED region entry n of cluster c, which is ABSENT after its first delivery (R305). -/
  | region (c n : Nat)
  deriving DecidableEq, Repr

/-- What a trap carries into the cause word (R324). -/
structure TrapInfo where
  cause : Cause
  /-- The faulting access address, where one applies (AV, PAGE). -/
  addr  : Option Word
  /-- SUB: the recorded cause of a COPY_FAULT or the counter of a `cwait` delivery. -/
  sub   : BitVec 8
  /-- SRC: the fault lay in the source range. -/
  src   : Bool
  /-- TV and TOK. -/
  tok   : Option (BitVec 3)
  /-- The record that the trap delivers, where it delivers one. -/
  origin : Option Origin
  deriving DecidableEq, Repr

/-- A trap that waits for the strand's long operations to settle (R41). -/
structure PendTrap where
  /-- Place in execution order of the instruction that traps. -/
  order : Nat
  /-- Address of the faulting instruction, which is also the first not completed. -/
  pc    : Word
  info  : TrapInfo
  deriving DecidableEq, Repr

/-- Scopes of release and acquire events are the codes of R8. -/
abbrev Scope := Nat

/-- The release recorded with a synchronisation variable (R232, R233). -/
structure Release where
  /-- Releasing thread. -/
  tid   : Nat
  /-- Scope of the release. -/
  scope : Scope
  /-- Release position of the thread's cluster. -/
  pos   : BitVec 32
  /-- Clusters acquired from before the release, the releasing cluster included. -/
  homes : List Nat
  deriving DecidableEq, Repr

/-- The word that a watch answer read, as its acquirer needs it (R224, R226, R233): home cluster of the word, and the watch's
own scope. -/
structure Watched where
  home  : Nat
  scope : Scope
  deriving DecidableEq, Repr

/-- An entry of a queue (R43, R46): its bytes from the lowest upward, how many 8-byte words it holds, how many of
them were taken, and whether it is an end-of-stream token. -/
structure QEntry where
  eos   : Bool
  words : Nat
  taken : Nat
  data  : VReg
  /-- The release that sent it, or those recorded with the word that it read when it is a watch answer (R224). -/
  rel   : List Release
  watch : Option Watched
  deriving DecidableEq, Repr

/-- A register write of a long operation (R37, R40). -/
inductive RegWrite
  | s (n : Nat) (v : Word)
  | v (n : Nat) (mask v : VReg)
  | p (n : Nat) (mask v : PReg)
  | push (q : Nat) (e : QEntry)
  | eos (q : Nat)
  | fps (flags : BitVec 5)
  | prog (v : Word)
  deriving DecidableEq, Repr

/-- Atomic operations (R271). -/
inductive AtomicOp | add | and | or | xor | min | max | swp | cas
  deriving DecidableEq, Repr

/-- An admitted atomic (R271 to R275): operation, type, memory key and address, home and page kind of its place, operand,
expected value, destination, qualifier, the release that it makes, and the partition, dedup scope and context with which
its line is installed. -/
structure AtomicReq where
  op   : AtomicOp
  ty   : Ty
  key  : Nat
  va   : Word
  home : Nat
  kind : Nat
  b    : Word
  d    : Word
  dst  : Nat
  acq  : Bool
  rel  : List Release
  part : Nat
  dom  : Nat
  ctx  : Nat
  deriving DecidableEq, Repr

/-- What a long operation waits for. -/
inductive OpKind
  /-- Nothing: its results are known. -/
  | plain
  /-- ATOMIC_EXECUTE at the execution point (R273). -/
  | atomic (r : AtomicReq)
  /-- Placement of an admitted spawn record (R157). -/
  | spawn (da sb : Nat)
  /-- Completion of a matrix-unit operation (R294). -/
  | matrix (id : Nat)
  deriving DecidableEq, Repr

/-- A request that has left its die (R356, R360, R370): number of its packet, destination die, class, generation, the cycle of
its first presentation, the largest bound that has applied to it, bounces. -/
structure Far where
  packet  : Nat
  die     : Nat
  cls     : Nat
  gen     : BitVec 8
  since   : Nat
  bound   : Nat
  bounces : Nat
  deriving DecidableEq, Repr

/-- An accepted long operation (R39 to R41). -/
structure LongOp where
  id     : Nat
  pc     : Word
  /-- Instructions that may still issue before the boundary (R40). -/
  left   : Nat
  kind   : OpKind
  ready  : Bool
  writes : List RegWrite
  fault  : Option TrapInfo
  /-- The request of an atomic or a `spawn` at another die, whose results come back in a packet (R354, R370). -/
  far    : Option Far
  deriving DecidableEq, Repr

/-- What a blocked strand waits for (R35). -/
inductive Cond
  /-- Reads that a queue must hold, whole entries or words (R44, R45). -/
  | entry (q n : Nat) (whole : Bool)
  /-- Room for entries in a coupling queue that the strand pushes; a short push also waits for its earlier long ones
  (R40, R45). -/
  | space (q n : Nat) (long : Bool)
  /-- Tokens of a wait mask (R63). -/
  | tokens (wm : BitVec 8)
  /-- `ldsync` or `stsync` waiting in line for a word (R246). -/
  | word (key : Nat)
  /-- A touch of an absent window (R303). -/
  | touch (key : Nat)
  /-- `cwait` on a counter of the cluster: the phase form, its operand, scope and destination (R255). -/
  | counter (n : Nat) (ph : Bool) (a : Word) (scope pd : Nat)
  /-- `bar`: key of the barrier and the generation arrived in (R258, R259). -/
  | barrier (key gen : Nat)
  /-- `reap`: the child that must drain (R158). -/
  | drained (child : Nat)
  /-- The copy unit's queue (R208) or the memory-side queue (R285) is full for a job of a token. -/
  | jobSpace (ms : Bool) (tok : Option Nat)
  /-- The matrix queue is full (R294). -/
  | matrixSpace
  /-- An `mma` or `mring` that has not completed (R38). -/
  | matrix (id : Nat)
  /-- A fence in progress: form, scope, engine mask (R212). -/
  | fence (form scope : Nat) (mask : BitVec 5)
  /-- A request on its way, presented or refused (R152, R194). -/
  | answer
  /-- A blocking redeem of a ticket that is FILLING (R198). -/
  | ticket
  /-- `rgclr` of a FILLING region entry, and the register of its result (R306). -/
  | region (entry da : Nat)
  /-- `ctxsave` of a cluster whose operations have not settled (R343). -/
  | saving (c : Nat)
  /-- `tlbinv` of a range in a scope while a request, a job or a region copy there still uses a translation of it (R334):
  own view, scope, address, length. -/
  | translated (own : Bool) (scope : Nat) (a len : Word)
  /-- An access of an SO page while an earlier pull of the strand has SO source words to read (R228). -/
  | ordered
  /-- An interruptible instruction has units left; `%prog` says from where (R216, R248, R281). -/
  | more
  deriving DecidableEq, Repr

/-- Where a strand stands (R35, R52, R326). -/
inductive Status
  | ready
  | parked (mask : BitVec 16)
  | waiting (c : Cond)
  | dead
  deriving DecidableEq, Repr

/-- A message on its way to a queue (R151). -/
structure Msg where
  dst   : Nat
  queue : Nat
  entry : QEntry
  deriving DecidableEq, Repr

/-- A spawn record (R48). -/
structure SpawnRec where
  aPc  : Word
  xPc  : Word
  a1   : Word
  a2   : Word
  chb  : BitVec 8
  cdir : BitVec 7
  ntl  : Nat
  pri  : Nat
  scp  : Nat
  pcl  : Nat
  cor  : Nat
  slt  : Nat
  qd   : Nat
  bind : List Nat
  deriving DecidableEq, Repr

/-- A record in a spawn queue (R50). -/
structure QueuedSpawn where
  id     : Nat
  form   : SpawnRec
  /-- The thread that spawns, its strand, and the long operation that waits; a loader's child has none. -/
  parent : Nat
  strand : Option (Side × Nat)
  ctx    : Nat
  part   : Nat
  /-- Cycle of admission and priority steps gained (R50). -/
  since  : Nat
  aged   : Nat
  /-- Result buffer address of the loader (R392). -/
  result : Option Nat
  deriving DecidableEq, Repr

/-- One line of a ticket (R200): its number, the memory keys of its eight words after swizzle, home and page kind, and
whether its reads touch the cluster's windows (R303); the words still to be read, those read so far, and the cause
recorded in place of them (R198, R238). -/
structure TLine where
  j     : Nat
  keys  : List Nat
  home  : Nat
  kind  : Nat
  touch : Bool
  todo  : List Nat
  data  : BitVec 512
  fault : Option TrapInfo
  deriving DecidableEq, Repr

/-- How a ticket is presented by a strand that waits for the answer (R198). -/
inductive Present
  | redeem (da : Operand) (imm : BitVec 24) (sb : Nat) (blocking : Bool)
  | redeemMem (va : Word) (sw : BitVec 3) (sb : Nat) (blocking : Bool)
  | stat (dst : Nat)
  deriving DecidableEq, Repr

/-- A request that goes to a unit outside the core and is answered there. -/
inductive Req
  | send (m : Msg)
  | spawn (form : SpawnRec) (da sb : Nat) (la : BitVec 4)
  /-- Chunks of a `tld` or `vtld` that still need entries, each with its holding slice; lease class, destination, and
  the first entries and tickets so far. -/
  | ticket (chunks : List (Nat × List TLine)) (lease : Nat) (dst : Operand) (got : List (Nat × Word))
  | present (slice : Nat) (w : Word) (how : Present)
  | ldsync (key : Nat) (va : Word) (ty : Ty) (da : Nat) (scope : Nat)
  | watch (key : Nat) (width : Nat) (thr : Word) (tag : Word) (counter : Option Nat) (slice : Nat) (da : Nat)
      (scope : Nat)
  | unwatch (w : Word) (da : Nat)
  /-- `cinc` to another cluster: the cluster, counter, amount, and the releases that it makes (R253). -/
  | cinc (c k amt : Nat) (rel : List Release)
  /-- A `tdrop` at its first link: partition and ticket (R205). -/
  | drop (part : Nat) (w : Word)
  /-- The data of a redeem into memory, at the core that stores it (R203). -/
  | redeemed (va : Word) (sw : BitVec 3) (sb span : Nat) (data : VReg)
  deriving DecidableEq, Repr

/-- The answer to a strand's request (R354). -/
inductive Reply
  /-- The data of an access that the strand itself completes. -/
  | access
  /-- The instruction completes with the writes. -/
  | done (ws : List RegWrite)
  | refused
  | bounced
  | trap (i : TrapInfo)
  /-- The instruction goes on with another request. -/
  | next (die : Nat) (req : Req)
  deriving DecidableEq, Repr

/-- Where a request stands on its way (R4, R152, R194, R356). -/
inductive Phase
  /-- At its first link direction since the time, in units of its device's `elapsed` (R5). -/
  | atLink (since : Nat)
  /-- Admitted; its packet. -/
  | travelling (packet : Nat)
  /-- At its destination, or granted for an access that the strand itself completes. -/
  | arrived
  /-- Its answer is on its way back, in the packet. -/
  | answering (packet : Nat)
  /-- A refusal has come back. -/
  | refused
  /-- A bounce has come back (R360). -/
  | bounced
  /-- Presented again at the cycle. -/
  | backoff (until_ : Nat)
  deriving DecidableEq, Repr

/-- An atomic whose request is on its way (R275): the operation, its releases still to be made; whether it is a release; its
LA field. -/
structure AtomicWait where
  r   : AtomicReq
  rel : Bool
  la  : BitVec 4
  deriving DecidableEq, Repr

/-- A request of a strand (R194). -/
structure Flight where
  phase    : Phase
  refusals : Nat
  /-- `%syncretry` read at issue. -/
  limit    : Nat
  req      : Option Req
  /-- Destination die and message class (R354), for links and permits; the request is that of the instruction's fetch. -/
  die      : Nat
  cls      : Nat
  fetch    : Bool
  /-- Requests of the instruction that have been admitted and answered: of the fetch or not, and die (R39). -/
  granted  : List (Bool × Nat)
  /-- Cycle of the first presentation (R370) and bounces taken (R360). -/
  since    : Nat
  bounces  : Nat
  /-- Generation of the tables under which it was steered (R360). -/
  gen      : BitVec 8
  /-- The largest bound that has applied to it, in cycles (R370). -/
  bound    : Nat
  /-- The request is an atomic's, which is performed once it has been admitted (R275, R276). -/
  atomic   : Option AtomicWait
  deriving DecidableEq, Repr

/-- One strand of a thread (R32). -/
structure Strand where
  pc     : Word
  s      : Vector Word 64
  p      : Vector PReg 16
  fps    : Word
  prog   : Word
  uepc   : Word
  ucause : Word
  uinfo  : Word
  sepc   : Word
  scause : Word
  sinfo  : Word
  /-- Supervisor level (R322). -/
  sup    : Bool
  /-- Handler bit UH (R322). -/
  uh     : Bool
  status : Status
  pend   : List LongOp
  /-- Number of the next instruction in execution order (R40, R41). -/
  order  : Nat
  trap   : Option PendTrap
  flight : Option Flight
  /-- The cycle before which it may not issue again (R34). -/
  nextIssue : Nat
  /-- Releases of the last release fences of each scope, carried by later stores and pushes (R226). -/
  fenceRel : List Release
  /-- Releases observed by reads and pops since the last acquire (R226, R233), and homes observed. -/
  obs      : List Release
  homes    : List Nat
  /-- Acquires whose releaser has not yet written back: the releases and the scope (R232). -/
  acquire  : List (Release × Scope)
  deriving DecidableEq, Repr

/-- A scoreboard token (R290). -/
structure Token where
  count : Nat
  fault : Option FaultRec
  deriving DecidableEq, Repr

/-- A thread (R32, R54, R336). -/
structure Thread where
  a    : Strand
  x    : Strand
  v    : Vector VReg 32
  q    : Vector (List QEntry) 16
  eos  : BitVec 16
  tok  : Vector Token 8
  prio : Nat
  /-- `%prio` before a `kset` of it and the cycle of that `kset`, in which placements and queue ordering still take the value
  before (R137). -/
  prioWas : Option (Nat × Nat)
  uvec : Word
  syncretry : BitVec 16
  /-- Mask of tiles held, `%acc` (R32). -/
  acc  : BitVec 8
  /-- Direction of q1 to q7 (R48) and bindings of q8 to q15. -/
  cdir : BitVec 7
  bind : List (Nat × Nat)
  parent : Nat
  ctx    : Nat
  /-- A supervisor thread of a die (R322). -/
  isSup  : Bool
  /-- It was drained when an entry reached it after that, so that it never issues again (R53). -/
  ended  : Bool
  /-- A multiply that was stopped after its operands-consumed arrival: its PC and place in execution order, and the lines
  that it had fetched (R296). -/
  fetched : Option (Word × Nat × List (Nat × BitVec 1024))
  deriving DecidableEq, Repr

/-- An accumulator tile (R32, R301): 64 × 64 elements, row-major. -/
structure Tile where
  data  : List (BitVec 32)
  ovf   : Bool
  kdone : Nat
  deriving DecidableEq, Repr

/-- A multiply of a matrix unit (R289, R291): readings, type, modes, tile, operands, swizzle, K/32 − 1, planes,
operands-consumed counter. -/
structure Multiply where
  fn  : Nat
  ty  : Ty
  rm  : Rm
  ftz : Bool
  d   : Nat
  a   : Word
  b   : Word
  sw  : BitVec 3
  ks  : Nat
  pa  : Nat
  pb  : Nat
  ctr : Option Nat
  deriving DecidableEq, Repr

/-- The operations of a matrix unit (R289). -/
inductive MatOp
  | mma (m : Multiply)
  /-- `key` is the ring group within the cluster: 0 to 15 for the quads, 16 to 23 for the cluster ring. -/
  | mring (key : Nat) (m : Multiply)
  | scacc (rm : Rm) (sat ftz : Bool) (d i : Nat) (er ec : VReg)
  | cld (d : Nat) (a st : Word) (sw : BitVec 3)
  | cst (d : Nat) (a st : Word) (sw : BitVec 3)
  | czero (d : Nat)
  deriving DecidableEq, Repr

/-- States of a queued matrix operation (R301). -/
inductive MatState | waiting | running | overtaken | stalled
  deriving DecidableEq, Repr

/-- An operation in a matrix queue (R294). -/
structure QueuedMat where
  id      : Nat
  t       : Nat
  /-- The long operation of the X-strand that waits for it. -/
  longId  : Nat
  op      : MatOp
  state   : MatState
  /-- Base priority, the cycle at which it last began waiting, and steps gained. -/
  base    : Nat
  since   : Nat
  aged    : Nat
  /-- Lines of this operation fetched so far: line address (va / 128) and the 128 bytes in address order. -/
  fetched : List (Nat × BitVec 1024)
  /-- Flags of the k-steps committed since the operation last started (R122). -/
  flags   : BitVec 5
  /-- The operands-consumed arrival has been made (R296). -/
  consumed : Bool
  deriving DecidableEq, Repr

/-- A participant of a ring group: position, core, thread, queued operation, whether it is there (not between a fault
and its re-execution, R298), and ring steps completed. -/
structure RingPart where
  pos   : Nat
  core  : Nat
  t     : Nat
  id    : Nat
  here  : Bool
  steps : Nat
  deriving DecidableEq, Repr

/-- A latch of a ring position: the B operand for a ring step, by line from its first, and whether it has arrived. -/
structure Latch where
  pos     : Nat
  step    : Nat
  arrived : Bool
  lines   : List (Nat × BitVec 1024)
  deriving DecidableEq, Repr

/-- A ring group (R297, R298). -/
structure Ring where
  key    : Nat
  parts  : List RingPart
  formed : Bool
  limit  : Nat
  /-- Cycles counted by the watchdog and the cycle from which it counts; none while paused. -/
  counted : Nat
  since   : Option Nat
  latches : List Latch
  deriving DecidableEq, Repr

/-- A core (R32, R34, R294). -/
structure Core where
  /-- Slot that issued most recently in the A-barrel and in the X-barrel, and the cycle of that issue. -/
  lastA  : Nat
  lastX  : Nat
  usedA  : Nat
  usedX  : Nat
  tiles  : List (Nat × Tile)
  queue  : List QueuedMat
  /-- Operands-consumed arrivals still to be made for multiplies that have completed: counter, context, and the 128-byte
  lines that they read (R296). -/
  owed   : List (Nat × Nat × List Nat)
  deriving DecidableEq, Repr

/-- A counter of a synchronisation unit (R250). -/
structure Counter where
  val  : BitVec 32
  ph   : BitVec 16
  pending : Bool
  rld  : BitVec 32
  ovr  : Bool
  flt  : Option FaultRec
  /-- Releases that added to it (R237), and the words that watch answers read with the releases recorded there, which acquire
  at the watch's own scope (R224). -/
  rel  : List Release
  seen : List (Watched × List Release)
  deriving DecidableEq, Repr

/-- An arrival on its way to a counter (R251), or a fault posted to it (R256). -/
structure Arrival where
  ctr  : Nat
  amt  : Nat
  fault : Option FaultRec
  rel  : List Release
  /-- The word that it read when it is the answer of a watch. -/
  watch : Option Watched
  /-- Context for which it is (R349), and the issuing strand of a `cinc` that waits for admission. -/
  ctx  : Nat
  sender : Option (Nat × Side)
  deriving DecidableEq, Repr

/-- An arm-table record (R265). -/
structure ArmRec where
  thr  : BitVec 32
  phase : Bool
  act  : Nat
  ctr  : Nat
  rm   : Rm
  typ  : Nat
  w2   : Word
  w3   : Word
  w4   : Word
  deriving DecidableEq, Repr

/-- State of an arm-table entry (R266 to R268): `fired` from its firing until its action has ended, when it is free
(log 19). -/
inductive ArmState | free | armed | fired | failed
  deriving DecidableEq, Repr

/-- An arm-table entry (R266). -/
structure ArmEntry where
  gen   : BitVec 9
  state : ArmState
  form  : ArmRec
  t     : Nat
  x     : Side
  ctx   : Nat
  limit : Nat
  /-- Order of arming (R267). -/
  seq   : Nat
  deriving DecidableEq, Repr

/-- What an engine's request is told (R354, R356, R360, R372). -/
inductive Told | granted | refused | bounced | denied
  deriving DecidableEq, Repr

/-- Where a request of an engine, or a watch answer, stands that goes to another die (R4, R356). -/
inductive Net
  | idle
  /-- At its first link direction since the time, in units of its device's `elapsed`, steered under the generation; bounces, the
  cycle of its first presentation, the largest bound that it has had. -/
  | atLink (since : Nat) (gen : BitVec 8) (bounces first bound : Nat)
  /-- Admitted; its packet or its answer is on its way. -/
  | sent (f : Far)
  /-- Its answer has come; bounces, first presentation, largest bound. -/
  | told (a : Told) (bounces first bound : Nat)
  deriving DecidableEq, Repr

/-- A fired action that the arm engine runs (R268). -/
structure Action where
  entry : Nat
  form  : ArmRec
  t     : Nat
  ctx   : Nat
  limit : Nat
  refusals : Nat
  /-- The cycle at which it is presented again, and where its request to another die stands (R356). -/
  after : Nat
  net   : Net
  rel   : List Release
  /-- Its own releases, from its first presentation on (R224). -/
  out   : Option (List Release)
  deriving DecidableEq, Repr

/-- States of a region entry (R302). -/
inductive RegionState | free | absent | filling | present | faulted
  deriving DecidableEq, Repr

/-- A 64 KiB page that a job or a region copy has entered, whose checks have been made (R210, R305): of its source or of its
destination, its number, and the memory key of its first byte, the leaf and the home with which its words are reached. -/
structure PageIn where
  src  : Bool
  page : Nat
  key  : Nat
  leaf : Option Word
  home : Nat
  deriving DecidableEq, Repr

/-- A region entry (R302). -/
structure Region where
  gen   : BitVec 9
  state : RegionState
  /-- Memory key of the first byte of the window, its length, bytes per row. -/
  win   : Nat
  len   : Nat
  rowb  : Nat
  src   : Word
  sstr  : Word
  ctr   : Option Nat
  rows  : Nat
  fault : Option FaultRec
  /-- Core of the `rgset`, its thread and context; the threads whose touch started the copy (R211). -/
  core  : Nat
  t     : Nat
  ctx   : Nat
  touched : List Nat
  refusals : Nat
  after : Nat
  /-- Source pages that it has entered since the copy last started, and where its request to another die stands (R356). -/
  pages : List PageIn
  net   : Net
  deriving DecidableEq, Repr

/-- What a job of the copy unit or the memory-side engine does. -/
inductive JobKind
  | pull
  | reduce (ty : Ty) (rm : Rm) (ftz : Bool)
  | pin (lid : Nat)
  | rows (rowb nrow : Nat) (sstr dstr : Word)
  | ms (op : Nat) (ty : Ty) (rm : Rm) (sat ftz : Bool) (b c : Word) (scalar : BitVec 32)
  deriving DecidableEq, Repr

/-- A job of the copy unit (R207 to R210, R307, R308) or a memory-side command (R283). -/
structure Job where
  id    : Nat
  kind  : JobKind
  t     : Nat
  x     : Side
  ctx   : Nat
  dst   : Word
  sw    : BitVec 3
  src   : Word
  len   : Nat
  /-- Bytes done, rows for a strided copy. -/
  ofs   : Nat
  ctr   : Option Nat
  tok   : Option Nat
  /-- Lease named by LSE (R307). -/
  lease : Option Nat
  limit : Nat
  refusals : Nat
  after : Nat
  /-- Pages that it has entered (R210), and where its request to another die stands (R356). -/
  pages : List PageIn
  net   : Net
  /-- The fault that ended it, and whether it is held (R352). -/
  fault : Option FaultRec
  held  : Bool
  /-- Started by the arm engine (R211 class ARM). -/
  armed : Bool
  /-- The table roots and `%ctx` of its context when it was accepted, for the time its context is not on the cluster. -/
  ptroot  : Word
  ownroot : Word
  ctxReg  : Word
  deriving DecidableEq, Repr

/-- Kinds of an arrival in a whey log (R350). -/
structure WheyRec where
  kind : Nat
  tgt  : Nat
  slot : Nat
  flg  : BitVec 8
  amt  : Nat
  info : Word
  cause : Nat
  data : BitVec 512
  deriving DecidableEq, Repr

/-- A ticket entry (R197). Only the first entry of a ticket holds its state. -/
inductive TicketState | free | filling | ready
  deriving DecidableEq, Repr

/-- How the last ticket of an entry ended (R197). -/
inductive TicketEnd | redeemed | expired | dropped
  deriving DecidableEq, Repr

structure Ticket where
  gen   : BitVec 10
  state : TicketState
  last  : TicketEnd
  part  : Option Nat
  ctx   : Nat
  /-- Cycle since which it has been FREE. -/
  freed : Nat
  span  : Nat
  lease : Nat
  /-- Cycle of the end of its lease when READY. -/
  ends  : Nat
  /-- The lines not yet in the entry, and the data of each line that is. -/
  lines : List TLine
  data  : List (Nat × BitVec 512)
  fault : Option TrapInfo
  /-- The strand that issued the `tld` or `vtld`. -/
  t     : Nat
  x     : Side
  /-- Redeems that wait for it to be READY, in their order of arrival (R206). -/
  redeems : List (Nat × Side)
  deriving DecidableEq, Repr

/-- A watch-table entry (R261, R263). -/
structure Watch where
  gen   : BitVec 10
  held  : Bool
  key   : Nat
  width : Nat
  thr   : Word
  tag   : Word
  counter : Option Nat
  t     : Nat
  ctx   : Nat
  part  : Nat
  scope : Nat
  deriving DecidableEq, Repr

/-- A watch answer on its way (R261, R262). -/
structure Answer where
  id    : Nat
  /-- Die of the word's home. -/
  die   : Nat
  t     : Nat
  ctx   : Nat
  counter : Option Nat
  value : Word
  tag   : Word
  handle : Word
  fenced : Bool
  /-- The releases recorded with the word, and its home and the watch's scope. -/
  rel   : List Release
  watch : Watched
  /-- Offered again at the cycle after a refusal (R262), and where it stands on its way to another die (R356). -/
  after : Nat
  refused : Bool
  net   : Net
  deriving DecidableEq, Repr

/-- A waiting `ldsync` or `stsync` (R246, R247). -/
inductive WaitKind
  | load (ty : Ty) (da : Nat) (take : Bool) (scope : Nat)
  | store (ty : Ty) (v : Word) (scope : Nat)
  deriving DecidableEq, Repr

structure Waiter where
  t    : Nat
  x    : Side
  key  : Nat
  va   : Word
  kind : WaitKind
  /-- Waits in the port's table of another cluster (R247). -/
  remote : Bool
  deriving DecidableEq, Repr

/-- A barrier (R258). -/
structure Barrier where
  gen     : Nat
  count   : Nat
  arrived : Nat
  /-- Releases of the fences before each arrival of this generation (R259), and those of completed generations for which a
  saved strand waits. -/
  rel     : List Release
  relDone : List (Nat × List Release)
  deriving DecidableEq, Repr

/-- A save area whose context is absent (R343): the regions of R345 that belong to the implementation. -/
structure Saved where
  cluster : Nat
  area    : Nat
  logn    : Nat
  ctx     : Nat
  logEnd  : Nat
  counters : List (Nat × Counter)
  arms     : List (Nat × ArmEntry)
  regions  : List (Nat × Region)
  jobs     : List Job
  watches  : List (Nat × Watch)
  waiters  : List Waiter
  threads  : List (Nat × Thread)
  cores    : List (Nat × Core)
  rings    : List Ring
  /-- Releases that logged arrivals carry, by offset of their records (R224). -/
  logRel   : List (Nat × List Release × Option Watched)
  /-- The logged counter arrivals and posted faults, by offset of their records (R224, R256). -/
  logArr   : List (Nat × Arrival)
  deriving DecidableEq, Repr

/-- Run state of a cluster (R337). -/
inductive RunState | empty | running | halted
  deriving DecidableEq, Repr

/-- Service state of a cluster (R385). -/
inductive Service | inService | offline | fenced | lent
  deriving DecidableEq, Repr

/-- A cluster. -/
structure Cluster where
  svec    : Word
  ptroot  : Word
  ownroot : Word
  watchdog : Word
  /-- `%ctx`: CTX, SPN, DDS (R336). -/
  ctxReg  : Word
  /-- `%part` (R336). -/
  part    : BitVec 6
  run     : RunState
  service : Service
  claim   : Option Nat
  /-- Context whose thread last ran on it (R344). -/
  sramCtx : Option Nat
  spawnQ  : List QueuedSpawn
  counters : List (Nat × Counter)
  arrivals : List Arrival
  arms    : List (Nat × ArmEntry)
  actions : List Action
  regions : List (Nat × Region)
  copyQ   : List Job
  msQ     : List Job
  rings   : List Ring
  relPos  : BitVec 32
  homes   : List Nat
  /-- Pseudo-channels retired, by index 0 to 5 (R20). -/
  retired : List Nat
  /-- Cores removed from service, bit k core k of the cluster (R11, R17; log 23). -/
  coresOut : BitVec 8
  /-- Corrected errors of its SRAM (R384). -/
  sramErr : BitVec 32
  /-- MODEL'S OWN: bytes at the top of its owned range that the loader has taken (log 27). -/
  taken   : Nat
  deriving DecidableEq, Repr

/-- A line of a core's L1 data cache (R232 to R235): 64 bytes at a memory key (log 10). -/
structure L1Line where
  core  : Nat
  line  : Nat
  data  : BitVec 512
  valid : BitVec 64
  dirty : BitVec 64
  mark  : Option (BitVec 32)
  /-- Cluster that is the line's home (R219); 0x40000 for a host page owned by the host. -/
  home  : Nat
  /-- PART and NODUP of the line's page for its write-back (R315). -/
  part  : Nat
  nodup : Bool
  /-- Its ECC has met an uncorrectable error (R384). -/
  psn   : Bool
  deriving DecidableEq, Repr

/-- A line of a core's L1 instruction cache (R82). -/
structure ILine where
  core : Nat
  line : Nat
  data : BitVec 512
  deriving DecidableEq, Repr

/-- States of a rind entry (R311). -/
inductive RindState | clean | dirty | zero
  deriving DecidableEq, Repr

/-- A rind entry that is not INVALID (R311). `slice` is die × 32 + slice number. -/
structure Rind where
  slice : Nat
  line  : Nat
  st    : RindState
  zd    : Bool
  pptr  : Nat
  /-- Cluster that is the line's home (R219); 0x40000 for a host page owned by the host. -/
  home  : Nat
  part  : Nat
  /-- Its page carries NODUP (R315). -/
  nodup : Bool
  pin   : Bool
  lid   : Nat
  ctx   : Nat
  rel   : Option (BitVec 32)
  lru   : Nat
  deriving DecidableEq, Repr

/-- A paste entry that is not free (R312). -/
structure Paste where
  slice : Nat
  idx   : Nat
  data  : BitVec 512
  ref   : Nat
  hash  : BitVec 32
  /-- Generation of the key of the hash (R316). -/
  gen   : Nat
  part  : Nat
  dom   : Nat
  ctx   : Nat
  psn   : Bool
  deriving DecidableEq, Repr

/-- A fill on its way to a slice (R317). -/
structure Fill where
  id    : Nat
  slice : Nat
  line  : Nat
  /-- Home cluster of the line's page. -/
  home  : Nat
  part  : Nat
  dom   : Nat
  ctx   : Nat
  nodup : Bool
  pin   : Option Nat
  /-- Its data is in a packet from another die that has not come (R354). -/
  onWay : Bool
  deriving DecidableEq, Repr

/-- A lease of a context on a die (R218, R320). -/
structure Lease where
  die  : Nat
  ctx  : Nat
  lid  : Nat
  entries : Nat
  ends : Nat
  deriving DecidableEq, Repr

/-- Read and write counts of a page and its mode (R234). -/
structure PageUse where
  die   : Nat
  page  : Nat
  reads : Nat
  writes : Nat
  replicated : Bool
  sharers : List Nat
  deriving DecidableEq, Repr

/-- A translation held in a TLB (R333): where, tag, page, leaf and its level. -/
structure Tlb where
  /-- 0 the TLB of a core, 1 of a cluster, 2 of a die. -/
  level : Nat
  unit  : Nat
  own   : Bool
  tag   : Nat
  vpage : Nat
  big   : Bool
  leaf  : Word
  deriving DecidableEq, Repr

/-- A store on its way to SRAM (R235): bytes of one aligned 8-byte word, which reach it together (R30, R221). -/
structure Store where
  t   : Nat
  x   : Side
  /-- Memory key of the word, its bytes that are written, and the word that holds them. -/
  key : Nat
  mask : BitVec 8
  val : Word
  rel : List Release
  deriving DecidableEq, Repr

/-- The sum that the RS bank of a location keeps: the type and mode of the `rsld` that made it, the value that it wrote
and its flags (R280). -/
structure KeptSum where
  ty    : Ty
  rm    : Rm
  ftz   : Bool
  sat   : Bool
  val   : Word
  flags : BitVec 5
  deriving DecidableEq, Repr

/-- States of a Rhoty connection entry (R357). -/
inductive CircuitState | free | tuning | live | draining | fault
  deriving DecidableEq, Repr

/-- An entry of a Rhoty connection table (R357). -/
structure Circuit where
  state : CircuitState
  cause : BitVec 8
  tcls  : BitVec 6
  dst   : BitVec 2
  src   : BitVec 2
  cxw   : Word
  deriving DecidableEq, Repr

/-- Where the copy of a packet last sent is (R369, R370): on its way, accepted at its destination, discarded, or
discarded with a drop notice on its way to the source. -/
inductive PacketCopy | moving | accepted | lost | noticed
  deriving DecidableEq, Repr

/-- Who waits for the answer of an engine's request: a job or a region copy of a cluster, the action of an arm entry, a watch
answer. -/
inductive Owner
  | job (c id : Nat)
  | region (c n : Nat)
  | action (c entry : Nat)
  | answer (id : Nat)
  deriving DecidableEq, Repr

/-- What a packet carries (R354). -/
inductive Cargo
  /-- The request of strand (t, x). -/
  | request (t : Nat) (x : Side)
  | reply (t : Nat) (x : Side) (r : Reply)
  /-- The results of long operation `id` of strand (t, x): writes, fault. -/
  | result (t : Nat) (x : Side) (id : Nat) (ws : List RegWrite) (fault : Option TrapInfo)
  /-- A request of an engine, and the answer to the request of a packet. -/
  | ask (o : Owner)
  | tell (o : Owner) (packet : Nat) (a : Told)
  /-- A fill's data. -/
  | fill (id : Nat)
  /-- A `tdrop` of strand (t, x): partition, ticket. -/
  | drop (t : Nat) (x : Side) (part : Nat) (w : Word)
  deriving DecidableEq, Repr

/-- A packet that its source keeps (R354, R367 to R370). Link directions: `2·die` out of a die's boundary, `2·die + 1` into it;
from 2^20 up fabric ports, device × 36 + port. -/
structure Packet where
  id    : Nat
  /-- Source and destination die. -/
  src   : Nat
  dst   : Nat
  cls   : Nat
  flits : Nat
  seq   : Nat
  part  : Nat
  gen   : BitVec 8
  /-- Intermediate device, and whether it has been passed (R366). -/
  idev  : Nat
  via   : Bool
  /-- Links taken so far, modulo 4. -/
  hop   : Nat
  /-- Entry of the connection table of the circuit that it is on (R359). -/
  circ  : Option Nat
  /-- Link direction whose permits it holds (R355); none while it waits at its source for the first. -/
  link  : Option Nat
  /-- Generation of the fabric key under which it crosses its link (R383). -/
  key   : Nat
  cargo : Cargo
  /-- Its last flit carries end marker 2 (R369). -/
  bad   : Bool
  copy  : PacketCopy
  /-- Its sequence number has been accepted. -/
  taken : Bool
  /-- Cycle at which it was last sent. -/
  sent  : Nat
  deriving DecidableEq, Repr

/-- A flit in the replay buffer of a link direction, with its sideband (R367, R368): link sequence number, its packet, end
marker, link CRC; and how often it has been sent again. -/
structure LinkFlit where
  num    : BitVec 12
  packet : Nat
  mark   : BitVec 2
  crc    : BitVec 16
  again  : Nat
  deriving DecidableEq, Repr

/-- A link direction's sender (R368): the next link sequence number, and its replay buffer. -/
structure LinkBuf where
  next  : BitVec 12
  flits : List LinkFlit
  deriving DecidableEq, Repr

/-- Shared and reserved permits held, by class (R355). -/
structure Pool where
  held : List (Nat × Nat)
  deriving DecidableEq, Repr

/-- A fabric port (R371). -/
structure Port where
  mode    : Nat
  replays : Nat
  training : Bool
  deriving DecidableEq, Repr

/-- TDISP states (R380). -/
inductive Tdisp | unlocked | locked | run | error
  deriving DecidableEq, Repr

/-- A partition record (R380, R381, R383). -/
structure Partition where
  device : Nat
  dies   : BitVec 4
  policy : Word
  keys   : List (BitVec 256)
  lent   : BitVec 128
  tdisp  : Tdisp
  /-- Generation of its HBM, ticket and dedup keys (R383). -/
  keyGen : Nat
  deriving DecidableEq, Repr

/-- An SPDM connection of a device (R382). -/
structure Spdm where
  version : Bool
  caps    : Bool
  /-- 0 none, 1 P-256 with SHA-256, 2 P-384 with SHA-384. -/
  alg     : Nat
  session : Option Nat
  finished : Bool
  keyGen  : Nat
  /-- The last answer. -/
  answer  : List Byte
  deriving DecidableEq, Repr

/-- A fabric key of a link direction and a partition (R383): number of the session that makes it, established once the
session is finished, generation, the packets for which the receiver still accepts the key before, and the link direction's
packet count when it came into use. -/
structure FabricKey where
  session : Nat
  live    : Bool
  gen     : Nat
  both    : Nat
  start   : Nat
  deriving DecidableEq, Repr

/-- Retraining of an HBM pseudo-channel (R388): a window is open, and the device's `elapsed` at which the last one opened. -/
structure Retrain where
  open_ : Bool
  since : Nat
  deriving DecidableEq, Repr

/-- A load in progress (R98, R101, R392): partition, context, the spawn records still to be placed in order, each with
its bindings (queue − 8, index of the producer), how many there are, the packed names of the children placed, in order,
the record that waits in a cluster's spawn queue, and the physical address of the result buffer. -/
structure Loading where
  part   : Nat
  ctx    : Nat
  recs   : List (SpawnRec × List (Nat × Nat))
  total  : Nat
  names  : List Nat
  wait   : Option (Nat × Nat)
  result : Nat
  deriving DecidableEq, Repr

/-- A firmware slot pair of a block (R389): running version and digest, staged image. -/
structure Firmware where
  version  : Nat
  rollback : Nat
  digest   : BitVec 256
  staged   : Option (Nat × BitVec 256)
  deriving DecidableEq, Repr

/-- A device of the pod. -/
structure Device where
  /-- `%cycle`: arithmetic-clock cycles since the device's reset (R7). -/
  cycle  : Nat
  /-- `%time` in units of 1/c ns, where c is the least common multiple of 8 to 32 (R7, R394), and the units until the
  device's present cycle ends. -/
  timeUnits : Nat
  left   : Nat
  /-- Time since the device's reset, in the same units, which no change of the clock and no pod alters (R5). -/
  elapsed : Nat
  /-- Bring-up stage running, 1 to 8; stage 8 is Ready (R393). -/
  stage  : Nat
  failed : Bool
  failStage : Nat
  /-- The `elapsed` at which the stage began. -/
  since  : Nat
  /-- A device that has halted on temperature (R395) or stopped at stage 5 or earlier. -/
  stopped : Bool
  pwrlim : BitVec 12
  haltCount : BitVec 8
  haltName  : BitVec 40
  /-- Arithmetic clock in steps of 62.5 MHz (R394). -/
  clock  : Nat
  members : List Nat
  /-- Membership bitmap, and pseudo-channel of a cluster, that take effect when the fence completes (R361, R387). -/
  nextMembers : Option (List Nat)
  retiring : Option (Nat × Nat)
  tableGen : BitVec 8
  tableNext : BitVec 8
  fenceBusy : Bool
  fenceDone : Bool
  routing : List (Nat × Word)
  shadow  : List (Nat × Word)
  ports   : List (Nat × Port)
  circuits : List (Nat × Circuit)
  request  : List Word
  response : List Word
  doorbell : Bool
  sliceErr : List (Nat × BitVec 32)
  chanErr  : List (Nat × BitVec 32)
  firmware : List (Nat × Firmware)
  spdm     : Spdm
  /-- Prime of the pod's graph (R362), 0 for a device outside a pod. -/
  podQ     : Nat
  /-- Fabric keys by port × 64 + partition, and packets sent by port × 64 + partition (R383). -/
  fabKeys  : List (Nat × FabricKey)
  fabSent  : List (Nat × Nat)
  /-- Pseudo-channels under retraining, by die × 192 + channel. -/
  retrain  : List (Nat × Retrain)
  /-- Thermal step in force (R395): 0 none, 1 stepped down, 2 held at 500 MHz. -/
  hot      : Nat
  loading  : Option Loading
  /-- Packets discarded for a failed RCHK or CRC (R369). -/
  drops    : Nat
  /-- Requests completed with HOME_FENCED for want of an answer, reported to management (R370). -/
  unanswered : Nat
  /-- `%l2stat` of each die and partition (R321). -/
  l2stat   : List (Nat × Word)
  /-- Value last read by the host (R375) and by management (R396). -/
  hostData : List Byte
  /-- The CXL link is in L1 or in recovery, the quiescent point of its controller (R389). -/
  cxlIdle  : Bool
  deriving DecidableEq, Repr

/-- Who moves next: MODEL'S OWN (log 1). The head of the agenda moves first; with an empty agenda the default mover
of `Step.lean` chooses. -/
inductive Move
  /-- The strand issues its next instruction. -/
  | issue (t : Nat) (x : Side)
  /-- The step happens for a strand's request, wait or trap. -/
  | strand (i : Instr) (t : Nat) (x : Side)
  /-- The step happens in a unit, for an item of it. -/
  | unit (i : Instr) (actor item : Nat)
  /-- The step or input happens, which names its own subject. -/
  | event (i : Instr)
  /-- Cycles pass. -/
  | tick (n : Nat)
  /-- The oldest store of the strand reaches SRAM (R235). -/
  | perform (t : Nat) (x : Side)
  /-- A core's L1 writes back and drops a line (R232). -/
  | evictL1 (core line : Nat)
  /-- A slice evicts a rind entry (R318). -/
  | evictL2 (slice line : Nat)
  /-- The device's bring-up takes its next stage (R393). -/
  | bringup (d : Nat)
  /-- The running stage of the device's bring-up fails: an image that does not verify, or a stage that cannot be done (R393). -/
  | bringupFails (d : Nat)
  /-- A pseudo-channel of the device fails its training at stage 3 (R393). -/
  | channelFails (d ch : Nat)
  /-- The device's CXL link enters or leaves L1 or recovery (R389). -/
  | cxlLink (d : Nat) (idle : Bool)
  deriving DecidableEq, Repr

/-- The machine. -/
structure State where
  threads  : List (Nat × Thread)
  cores    : List (Nat × Core)
  clusters : List (Nat × Cluster)
  devices  : List (Nat × Device)
  partitions : List (Nat × Partition)
  mem      : List Host.Cell
  feEmpty  : List Nat
  poison   : List Nat
  stores   : List Store
  /-- Sums that the RS banks keep, by key of the location's first slot (R280). -/
  sums     : List (Nat × KeptSum)
  /-- Releases recorded with words, by memory key of the word (R232). -/
  rel      : List (Nat × List Release)
  l1       : List L1Line
  il1      : List ILine
  rind     : List Rind
  paste    : List Paste
  fills    : List Fill
  leases   : List Lease
  pages    : List PageUse
  tlb      : List Tlb
  tickets  : List (Nat × Ticket)
  /-- `tdrop`s on their way (R205): strand, ticket, partition. -/
  drops    : List (Nat × Side × Word × Nat)
  watches  : List (Nat × Watch)
  answers  : List Answer
  waiters  : List Waiter
  barriers : List (Nat × Barrier)
  saved    : List Saved
  packets  : List Packet
  pools    : List (Nat × Pool)
  /-- Senders of the link directions (R368). -/
  links    : List (Nat × LinkBuf)
  seqs     : List (Nat × Nat)
  /-- MODEL'S OWN: next number of a queued item. -/
  nextId   : Nat
  /-- MODEL'S OWN: counter of free values (log 9). -/
  free     : Nat
  /-- MODEL'S OWN: the strand for which `exec` issues, or a step of the table happens (log 1). -/
  curT     : Nat
  curX     : Side
  /-- MODEL'S OWN: the unit (cluster, core, die, device, slice, link or numbered thing) for which a step of the table
  happens whose row names no strand, and the item of that unit (log 1). -/
  actor    : Nat
  item     : Nat
  agenda   : List Move
  deriving DecidableEq, Repr

/-- Why the machine stops. -/
inductive Fault
  /-- An instruction row is executed while the strand that `curT` and `curX` name does not exist. Raised by the
  issue of an instruction only; `step` never issues for such a strand. Safe: the machine stops. -/
  | noStrand
  deriving DecidableEq, Repr

/-- Why a step has no meaning. -/
inductive Refusal
  /-- The instruction's meaning is not written yet; raised by `exec`'s arm of that mnemonic. Safe. -/
  | notModelled (mnemonic : String)
  deriving DecidableEq, Repr

/-- A strand with every register zero and nothing outstanding (R51). The trap registers and UH have no reset value
in the spec: DESIGN CHOICE zero (log 5). -/
def Strand.zero : Strand where
  pc := 0; s := Vector.replicate 64 0; p := Vector.replicate 16 0; fps := 0; prog := 0
  uepc := 0; ucause := 0; uinfo := 0; sepc := 0; scause := 0; sinfo := 0
  sup := false; uh := false; status := .ready; pend := []; order := 0; trap := none; flight := none
  nextIssue := 0; fenceRel := []; obs := []; homes := []; acquire := []

/-- A thread as R51 places it, but for what its record gives. -/
def Thread.zero : Thread where
  a := Strand.zero; x := Strand.zero; v := Vector.replicate 32 0; q := Vector.replicate 16 []; eos := 0
  tok := Vector.replicate 8 ⟨0, none⟩; prio := 0; prioWas := none; uvec := 0; syncretry := 64; acc := 0; cdir := 0; bind := []
  parent := 0; ctx := 0; isSup := false; ended := false; fetched := none

/-- A core after reset; the last slot of each barrel is DESIGN CHOICE 7 (log 2). -/
def Core.zero : Core where
  lastA := 7; lastX := 7; usedA := 0; usedX := 0; tiles := []; queue := []; owed := []

/-- A counter after reset (R250). -/
def Counter.zero : Counter where
  val := 0; ph := 0; pending := false; rld := 0; ovr := false; flt := none; rel := []; seen := []

/-- An empty arm record. -/
def ArmRec.zero : ArmRec where
  thr := 0; phase := false; act := 0; ctr := 0; rm := .rne; typ := 0; w2 := 0; w3 := 0; w4 := 0

/-- An arm-table entry after reset (R266). -/
def ArmEntry.zero : ArmEntry where
  gen := 0; state := .free; form := ArmRec.zero; t := 0; x := .strandA; ctx := 0; limit := 0; seq := 0

/-- A region entry after reset (R302). -/
def Region.zero : Region where
  gen := 0; state := .free; win := 0; len := 0; rowb := 8; src := 0; sstr := 0; ctr := none; rows := 0
  fault := none; core := 0; t := 0; ctx := 0; touched := []; refusals := 0; after := 0; pages := []; net := .idle

/-- A ticket entry after reset (R197): FREE for 4,096 cycles or more, which `freed` = 0 with `part` = none says. -/
def Ticket.zero : Ticket where
  gen := 0; state := .free; last := .dropped; part := none; ctx := 0; freed := 0; span := 0; lease := 0; ends := 0
  lines := []; data := []; fault := none; t := 0; x := .strandA; redeems := []

/-- A watch entry after reset (R263). -/
def Watch.zero : Watch where
  gen := 0; held := false; key := 0; width := 0; thr := 0; tag := 0; counter := none; t := 0; ctx := 0; part := 0
  scope := 0

/-- A barrier before its first arrival. -/
def Barrier.zero : Barrier where
  gen := 0; count := 0; arrived := 0; rel := []; relDone := []

/-- A cluster after reset: DDS is 1 (R336), IN_SERVICE and EMPTY (R337, R385). The registers to which the spec gives
no reset value are DESIGN CHOICE zero (log 5). -/
def Cluster.zero : Cluster where
  svec := 0; ptroot := 0; ownroot := 0; watchdog := 0; ctxReg := 0x40000; part := 0; run := .empty
  service := .inService; claim := none; sramCtx := none; spawnQ := []; counters := []; arrivals := []; arms := []
  actions := []; regions := []; copyQ := []; msQ := []; rings := []; relPos := 0; homes := []; retired := []; coresOut := 0
  sramErr := 0; taken := 0

/-- An entry of a Rhoty table that is FREE. -/
def Circuit.zero : Circuit where
  state := .free; cause := 0; tcls := 0; dst := 0; src := 0; cxw := 0

/-- Entries 0 to 2 of die d after reset (R358): LIVE, every class, the other dies in ascending order, wavelengths
0 to 21, 22 to 42 and 43 to 63. -/
def Circuit.initial (d : Nat) : List (Nat × Circuit) :=
  let others := [0, 1, 2, 3].filter (· != d)
  let sets : List Word := [0x00000000003FFFFF, 0x000007FFFFC00000, 0xFFFFF80000000000]
  ((others.zip sets).zipIdx).map fun e =>
    (d * 64 + e.2, ⟨.live, 0, 0x3F, BitVec.ofNat 2 e.1.1, BitVec.ofNat 2 d, e.1.2⟩)

/-- A fabric port before training, DESIGN CHOICE mode P4 (log 5). -/
def Port.zero : Port where
  mode := 0; replays := 0; training := false

/-- An SPDM connection that nothing has opened. -/
def Spdm.zero : Spdm where
  version := false; caps := false; alg := 0; session := none; finished := false; keyGen := 0; answer := []

/-- Units of `%time` in a nanosecond: the least common multiple of the clock steps 8 to 32 (R394). -/
def timeScale : Nat := 144403552893600

/-- A device right after reset (R393): stage 1 runs, the clock is 2.0 GHz (R7), the circuits are those of R358, the
pod is the device alone (R363); the registers without a reset value are DESIGN CHOICE (log 5). -/
def Device.zero : Device where
  cycle := 0; timeUnits := 0; left := timeScale / 2; elapsed := 0; stage := 1; failed := false; failStage := 0; since := 0; stopped := false; pwrlim := 1700; haltCount := 0
  haltName := 0; clock := 32; members := [0]; nextMembers := none; retiring := none; tableGen := 0; tableNext := 0; fenceBusy := false; fenceDone := false
  routing := []; shadow := []; ports := []
  circuits := Circuit.initial 0 ++ Circuit.initial 1 ++ Circuit.initial 2 ++ Circuit.initial 3
  request := List.replicate 8 0; response := List.replicate 8 0; doorbell := false; sliceErr := []; chanErr := []
  firmware := []; spdm := Spdm.zero; podQ := 0; fabKeys := []; fabSent := []
  retrain := []; hot := 0; loading := none; drops := 0; unanswered := 0; l2stat := []; hostData := []; cxlIdle := false

/-- The machine right after reset: one device at the first stage of bring-up (R393), no thread placed, every FE bit
full (R18), every cache and table empty, memory with nothing listed. -/
def State.reset : State where
  threads := []; cores := []; clusters := []; devices := [(0, Device.zero)]
  partitions := []; mem := []; feEmpty := []; poison := []; stores := []; sums := []; rel := []; l1 := []; il1 := []; rind := []
  paste := []; fills := []; leases := []; pages := []; tlb := []; tickets := []; drops := []; watches := []; answers := []
  waiters := []; barriers := []; saved := []; packets := []; pools := []; links := []; seqs := []; nextId := 0; free := 0
  curT := 0; curX := .strandA; actor := 0; item := 0; agenda := []

end Sys2Proof.Machine
end

