-- ==== Sys2Proof/Machine/Ops.lean ====
section
/-! DEFINITION. The named operations over tables, registers, queues and traps: reading and writing each register
class with its hard-wired members (R60), queue entries (R42 to R46), taking an exception (R323 to R326) and returning
from one, retiring an instruction (R37 to R41). -/

namespace Sys2Proof.Machine

/-! ### Tables -/

/-- What a table lists for a number. -/
def tget {α : Type} : List (Nat × α) → Nat → Option α
  | [], _ => none
  | (k, v) :: r, n => if k = n then some v else tget r n

/-- List a value for a number, in rising order of numbers. -/
def tset {α : Type} : List (Nat × α) → Nat → α → List (Nat × α)
  | [], n, v => [(n, v)]
  | (k, w) :: r, n, v => if k = n then (n, v) :: r else if n < k then (n, v) :: (k, w) :: r else (k, w) :: tset r n v

/-- Drop a number from a table. -/
def tdel {α : Type} : List (Nat × α) → Nat → List (Nat × α)
  | [], _ => []
  | (k, w) :: r, n => if k = n then tdel r n else (k, w) :: tdel r n

/-- The numbers that a table lists. -/
def tkeys {α : Type} (l : List (Nat × α)) : List Nat := l.map (·.1)

/-! ### Names (R9, R10) -/

def coreOf (t : Nat) : Nat := t / 8
def clusterOf (t : Nat) : Nat := t / 64
def dieOf (t : Nat) : Nat := t / 2048
def deviceOf (t : Nat) : Nat := t / 8192
def slotOf (t : Nat) : Nat := t % 8
/-- Package-wide core number (R9). -/
def packageCore (t : Nat) : Nat := (t / 8) % 1024

/-! ### Access to the parts of the state -/

def State.thread? (s : State) (t : Nat) : Option Thread := tget s.threads t
def State.thread (s : State) (t : Nat) : Thread := (tget s.threads t).getD Thread.zero
def State.core (s : State) (k : Nat) : Core := (tget s.cores k).getD Core.zero
def State.cluster (s : State) (c : Nat) : Cluster := (tget s.clusters c).getD Cluster.zero
def State.device (s : State) (d : Nat) : Device := (tget s.devices d).getD Device.zero

/-- `%cycle` of a device (R7). -/
def State.cycleOf (s : State) (d : Nat) : Nat := (s.device d).cycle
/-- `%cycle` of the device of a thread (R7). -/
def State.now (s : State) (t : Nat) : Nat := s.cycleOf (deviceOf t)

def State.setThread (s : State) (t : Nat) (th : Thread) : State := { s with threads := tset s.threads t th }
def State.setCore (s : State) (k : Nat) (c : Core) : State := { s with cores := tset s.cores k c }
def State.setCluster (s : State) (c : Nat) (cl : Cluster) : State := { s with clusters := tset s.clusters c cl }
def State.setDevice (s : State) (d : Nat) (dv : Device) : State := { s with devices := tset s.devices d dv }

def Thread.strand (th : Thread) : Side → Strand
  | .strandA => th.a
  | .strandX => th.x

def Thread.setStrand (th : Thread) (x : Side) (st : Strand) : Thread :=
  match x with
  | .strandA => { th with a := st }
  | .strandX => { th with x := st }

def State.strand (s : State) (t : Nat) (x : Side) : Strand := (s.thread t).strand x
def State.setStrand (s : State) (t : Nat) (x : Side) (st : Strand) : State :=
  s.setThread t ((s.thread t).setStrand x st)
def State.updStrand (s : State) (t : Nat) (x : Side) (f : Strand → Strand) : State :=
  s.setStrand t x (f (s.strand t x))
def State.updThread (s : State) (t : Nat) (f : Thread → Thread) : State := s.setThread t (f (s.thread t))
def State.updCore (s : State) (k : Nat) (f : Core → Core) : State := s.setCore k (f (s.core k))
def State.updCluster (s : State) (c : Nat) (f : Cluster → Cluster) : State := s.setCluster c (f (s.cluster c))
def State.updDevice (s : State) (d : Nat) (f : Device → Device) : State := s.setDevice d (f (s.device d))

/-- The issuing strand. -/
def State.my (s : State) : Strand := s.strand s.curT s.curX
/-- The issuing thread. -/
def State.me (s : State) : Thread := s.thread s.curT
def State.setMy (s : State) (st : Strand) : State := s.setStrand s.curT s.curX st
def State.updMy (s : State) (f : Strand → Strand) : State := s.setMy (f s.my)

/-- A fresh number for a queued item. -/
def State.fresh (s : State) : Nat × State := (s.nextId, { s with nextId := s.nextId + 1 })

/-- A value that no rule states (log 9). -/
def State.freeValue (s : State) : Word × State := (Config.freeValue s.free, { s with free := s.free + 1 })

/-! ### Registers of a strand (R58, R60) -/

/-- Scalar register n; s0 reads zero (R60). -/
def Strand.getS (st : Strand) (n : Nat) : Word := if n = 0 then 0 else (st.s[n]?).getD 0
/-- Writes to s0 are discarded (R60). -/
def Strand.setS (st : Strand) (n : Nat) (v : Word) : Strand :=
  if n = 0 then st else { st with s := st.s.setIfInBounds n v }
/-- Predicate register n; p0 reads all ones (R60). -/
def Strand.getP (st : Strand) (n : Nat) : PReg := if n = 0 then BitVec.allOnes 256 else (st.p[n]?).getD 0
/-- Writes to p0 are discarded (R60). -/
def Strand.setP (st : Strand) (n : Nat) (v : PReg) : Strand :=
  if n = 0 then st else { st with p := st.p.setIfInBounds n v }
def Thread.getV (th : Thread) (n : Nat) : VReg := (th.v[n]?).getD 0
def Thread.setV (th : Thread) (n : Nat) (v : VReg) : Thread := { th with v := th.v.setIfInBounds n v }
def Thread.getQ (th : Thread) (n : Nat) : List QEntry := (th.q[n]?).getD []
def Thread.setQ (th : Thread) (n : Nat) (l : List QEntry) : Thread := { th with q := th.q.setIfInBounds n l }
def Thread.getTok (th : Thread) (n : Nat) : Token := (th.tok[n]?).getD ⟨0, none⟩
def Thread.setTok (th : Thread) (n : Nat) (k : Token) : Thread := { th with tok := th.tok.setIfInBounds n k }

/-- Floating-point flags are ORed into `%fps` (R73, R114). -/
def Strand.orFps (st : Strand) (f : BitVec 5) : Strand := { st with fps := st.fps ||| (f.setWidth 64) }

/-! ### Queues (R42 to R46) -/

/-- Capacity of a queue (R42). -/
def queueCapacity (q : Nat) : Nat := if q = 0 then 64 else if q ≤ 7 then 8 else 16

/-- The strand that pushes a coupling queue (R43, R48): direction bit 0 means A pushes. -/
def Thread.pusher (th : Thread) (q : Nat) : Side := if th.cdir.getLsbD (q - 1) then .strandX else .strandA

def otherSide : Side → Side
  | .strandA => .strandX
  | .strandX => .strandA

/-- The strands that may read a queue (R42). -/
def Thread.mayPop (th : Thread) (x : Side) (q : Nat) : Bool :=
  if 1 ≤ q ∧ q ≤ 7 then th.pusher q == otherSide x else true

/-- `%prio` as placements and queue ordering take it: in the cycle of a `kset` the value before it (R137). -/
def Thread.orderPrio (th : Thread) (now : Nat) : Nat :=
  match th.prioWas with
  | some (old, cycle) => if now ≤ cycle then old else th.prio
  | none => th.prio

/-- A `kset` of `%prio` in a cycle (R137). -/
def Thread.setPrio (th : Thread) (now prio : Nat) : Thread := { th with prio := prio, prioWas := some (th.orderPrio now, now) }

/-- An 8-byte entry (R43). -/
def QEntry.word (v : Word) : QEntry := ⟨false, 1, 0, v.setWidth 2048, [], none⟩
/-- An entry of a whole vector (R43). -/
def QEntry.vector (v : VReg) : QEntry := ⟨false, 32, 0, v, [], none⟩
/-- An end-of-stream token (R46). -/
def QEntry.token : QEntry := ⟨true, 1, 0, 0, [], none⟩

/-- The next unread word of an entry (R44). -/
def QEntry.nextWord (e : QEntry) : Word := (e.data >>> (64 * e.taken)).setWidth 64
/-- Every unread word of an entry, from byte 0 upward, zero above (R44). -/
def QEntry.unread (e : QEntry) : VReg := e.data >>> (64 * e.taken)

/-- The queue after one word is taken: the entry leaves once its last word has been taken (R44). -/
def takeWord : List QEntry → List QEntry
  | [] => []
  | e :: r => if e.eos ∨ e.taken + 1 ≥ e.words then r else { e with taken := e.taken + 1 } :: r

/-! ### Trap causes (R323, R324) -/

/-- The code of a cause. -/
def Cause.code : Cause → BitVec 8
  | .illegal => 0x01 | .reservedField => 0x02 | .privileged => 0x03 | .operandClass => 0x04 | .strand => 0x05
  | .align => 0x10 | .windowSpan => 0x11 | .unmapped => 0x12 | .notOwner => 0x13 | .pageKind => 0x14
  | .atomicType => 0x15 | .permission => 0x16 | .poison => 0x17 | .homeFenced => 0x18 | .translation => 0x20
  | .ownView => 0x21 | .ticketCheck => 0x30 | .watchRetry => 0x38 | .syncRetry => 0x39 | .barrierOverrun => 0x3A
  | .ringTimeout => 0x41 | .copyFault => 0x48 | .software => 0x50 | .breakpoint => 0x51

/-- Whether the table of R323 routes a trap to the supervisor. -/
def TrapInfo.toSupervisor (i : TrapInfo) : Bool :=
  match i.cause with
  | .illegal | .reservedField | .privileged | .operandClass | .strand | .translation | .ownView | .breakpoint => true
  | .copyFault => i.sub == 0x20 || i.sub == 0x21
  | _ => false

/-- A cause with nothing beside it. -/
def TrapInfo.plain (c : Cause) : TrapInfo := ⟨c, none, 0, false, none, none⟩
/-- A cause with the address that faulted. -/
def TrapInfo.at (c : Cause) (a : Word) : TrapInfo := ⟨c, some a, 0, false, none, none⟩
/-- COPY_FAULT from the record of a token (R290, R324). -/
def FaultRec.tokenTrap (f : FaultRec) (n : Nat) : TrapInfo :=
  ⟨.copyFault, some f.addr, f.cause.code, f.src, some (BitVec.ofNat 3 n), some (.token n)⟩

/-- PAGE and AV of the cause word (R324). -/
def TrapInfo.page (i : TrapInfo) : BitVec 39 × Bool :=
  match i.addr with
  | some a => if a.toNat < 2 ^ 55 then (a.extractLsb' 16 39, true) else (0, false)
  | none => (0, false)

/-- The cause word (R324); PUH and PL are zero in `%ucause`. -/
def TrapInfo.causeWord (i : TrapInfo) (x : Side) (puh pl : Bool) : Word :=
  let tv := i.tok.isSome
  i.page.1 ++ i.sub ++ BitVec.ofBool i.page.2 ++ BitVec.ofBool i.src ++ (i.tok.getD 0) ++ BitVec.ofBool tv ++
  BitVec.ofBool puh ++ BitVec.ofBool pl ++ BitVec.ofBool (x == .strandX) ++ i.cause.code

/-- Whether the trap goes to the user vector (R323): the cause is routed there, the strand is at user level with UH
clear, and `%uvec` is not zero. -/
def State.trapToUser (s : State) (t : Nat) (x : Side) (i : TrapInfo) : Bool :=
  !i.toSupervisor && !(s.strand t x).sup && !(s.strand t x).uh && (s.thread t).uvec != 0

/-- Entry to the user vector (R325). -/
def State.enterUser (s : State) (t : Nat) (x : Side) (p : PendTrap) : State :=
  let uvec := (s.thread t).uvec
  s.updStrand t x fun st =>
    { st with uepc := p.pc, ucause := p.info.causeWord x false false, uinfo := p.pc, uh := true, pc := uvec
              trap := none, status := .ready, flight := none }

/-- A strand that halts for good is recorded in HALTLOG (R326, R379). -/
def Device.recordHalt (d : Device) (t : Nat) : Device :=
  { d with haltCount := d.haltCount + 1, haltName := BitVec.ofNat 40 t }

/-- Entry to the supervisor vector (R326). While `%svec` is 0 the strand makes the same writes and halts for good, which
the die's management unit records (R326, R379; log 30). -/
def State.enterSupervisor (s : State) (t : Nat) (x : Side) (p : PendTrap) : State :=
  let svec := (s.cluster (clusterOf t)).svec
  let s' := s.updStrand t x fun st =>
    { st with sepc := p.pc, scause := p.info.causeWord x st.uh st.sup, sinfo := p.pc, sup := true, uh := false
              pc := svec, trap := none, status := if svec = 0 then .dead else .ready, flight := none }
  if svec = 0 then s'.updDevice (deviceOf t) fun d => d.recordHalt t else s'

/-- The record that a trap delivers is still held: the other strand of the thread may have had the token's (R290). -/
def Thread.recordHeld (th : Thread) (i : TrapInfo) : Bool :=
  match i.origin with
  | some (.token n) => (th.getTok n).fault.map (·.tokenTrap n) == some i
  | _ => true

/-- Delivery moves a token's record into the trap information and leaves the token not FAULTED (R290). -/
def Thread.moveRecord (th : Thread) (i : TrapInfo) : Thread :=
  match i.origin with
  | some (.token n) => th.setTok n { th.getTok n with fault := none }
  | _ => th

/-- The region entry whose recorded cause a trap delivers, directly or by a token's or a counter's record, with that cause and
its address (R305). -/
def TrapInfo.regionOf (i : TrapInfo) (th : Thread) : Option ((Nat × Nat) × Cause × Option Word) :=
  let of (f : FaultRec) : Option ((Nat × Nat) × Cause × Option Word) := f.region.map fun p => (p, f.cause, some f.addr)
  match i.origin with
  | some (.region c n) => some ((c, n), i.cause, i.addr)
  | some (.token n) => (th.getTok n).fault.bind of
  | some (.posted _ f) => of f
  | _ => none

/-- A FAULTED region entry whose cause is delivered is ABSENT, with its row offset kept (R305). -/
def State.regionDelivered (s : State) : Option ((Nat × Nat) × Cause × Option Word) → State
  | none => s
  | some ((c, n), cause, addr) =>
    let absent (p : Nat × Region) : Nat × Region :=
      if p.1 = n ∧ p.2.state = .faulted ∧ (p.2.fault.any fun f => f.cause == cause && some f.addr == addr) = true then
        (p.1, { p.2 with state := .absent, fault := none }) else p
    s.updCluster c fun cl => { cl with regions := cl.regions.map absent }

/-- TAKING AN EXCEPTION: delivery of a trap to the vector that R323 names. A trap whose record the other strand has had
falls away, and the instruction is executed again. -/
def State.deliver (s : State) (t : Nat) (x : Side) (p : PendTrap) : State :=
  if (s.thread t).recordHeld p.info then
    let s := s.regionDelivered (p.info.regionOf (s.thread t))
    let s := s.updThread t fun th => th.moveRecord p.info
    if s.trapToUser t x p.info then s.enterUser t x p else s.enterSupervisor t x p
  else s.updStrand t x fun st => { st with trap := none }

/-- A trap that is discarded (R41): its instruction has not completed, so OVR or FLT, which the evaluation of a `cwait`
has cleared, is as it was, unless a later fault took its place (R256). -/
def State.discard (s : State) (t : Nat) (i : TrapInfo) : State :=
  let restore (k : Nat) (f : Counter → Counter) : State :=
    s.updCluster (clusterOf t) fun cl => { cl with counters := tset cl.counters k (f ((tget cl.counters k).getD Counter.zero)) }
  match i.origin with
  | some (.overrun k) => restore k fun v => { v with ovr := true }
  | some (.posted k f) => restore k fun v => { v with flt := some (v.flt.getD f) }
  | _ => s

/-- A wait whose instruction is in progress elsewhere, so that no trap of an earlier one is delivered before it ends. -/
def Cond.inProgress : Cond → Bool
  | .matrix _ | .barrier .. | .word _ | .answer | .ticket => true
  | _ => false

/-- Nothing of the strand is outstanding, so that a trap may be delivered (R41). -/
def Strand.settled (st : Strand) : Bool :=
  st.pend.isEmpty && (match st.status with
    | .waiting c => !c.inProgress
    | _ => true)

/-- THREAD_DRAINED (R53): both strands parked and every queue of either mask at its end, now or when an entry arrived
after that. -/
def Thread.drained (th : Thread) : Bool :=
  th.ended || (match th.a.status, th.x.status with
  | .parked m, .parked n =>
    (List.range 16).all fun q =>
      !(m.getLsbD q || n.getLsbD q) ||
      (match th.getQ q with | e :: _ => e.eos | [] => th.eos.getLsbD q)
  | _, _ => false)

/-- A trap of the strand may be delivered: nothing of it is outstanding (R41), and its thread is not drained, since a drained
thread never issues again (R53). -/
def State.trapReady (s : State) (t : Nat) (x : Side) : Bool := (s.strand t x).settled && !(s.thread t).drained

/-- A trap at an instruction: delivered at once when no long operation is outstanding, else once they have settled,
and then the earliest in execution order is delivered (R41). -/
def State.raiseAt (s : State) (t : Nat) (x : Side) (p : PendTrap) : State :=
  let st := s.strand t x
  match st.trap with
  | some q =>
    if q.order ≤ p.order then s.discard t p.info
    else (s.discard t q.info).updStrand t x fun st => { st with trap := some p }
  | none => if s.trapReady t x then s.deliver t x p else s.updStrand t x fun st => { st with trap := some p }

/-- A trap of the instruction at the strand's own PC. -/
def State.raise (s : State) (t : Nat) (x : Side) (i : TrapInfo) : State :=
  (s.updStrand t x fun st => { st with status := .ready, flight := none }).raiseAt t x
    ⟨(s.strand t x).order, (s.strand t x).pc, i⟩

/-- Return from the user handler (R136, R325). -/
def Strand.uret (st : Strand) : Strand := { st with pc := st.uepc, uh := false, status := .ready, flight := none }

/-- Return from the supervisor handler (R136, R326): PL is bit 9 and PUH bit 10 of `%scause`. -/
def Strand.sret (st : Strand) : Strand :=
  { st with pc := st.sepc, sup := st.scause.getLsbD 9, uh := st.scause.getLsbD 10, status := .ready, flight := none }

/-! ### How an instruction ends -/

/-- Why an instruction does not complete. -/
inductive Stop
  /-- It traps; nothing of it has an effect. -/
  | trap (i : TrapInfo)
  /-- It waits, with no effect, and is executed again from its own address. -/
  | wait (c : Cond)
  /-- It traps after an effect that the spec keeps. -/
  | trapIn (i : TrapInfo) (s : State)
  /-- It waits after an effect that the spec keeps: a request sent, an arrival made. -/
  | waitIn (c : Cond) (s : State)

def Stop.cause (c : Cause) : Stop := .trap (TrapInfo.plain c)
def Stop.at (c : Cause) (a : Word) : Stop := .trap (TrapInfo.at c a)

/-- The strand waits (R35). -/
def State.block (s : State) (t : Nat) (x : Side) (c : Cond) : State :=
  s.updStrand t x fun st => { st with status := .waiting c }

/-- The state after an instruction of strand (t, x): its own effect, its trap, or its wait. -/
def State.settle (s : State) (t : Nat) (x : Side) : Except Stop State → State
  | .ok s' => s'
  | .error (.trap i) => s.raise t x i
  | .error (.wait c) => s.block t x c
  | .error (.trapIn i s') => s'.raise t x i
  | .error (.waitIn c s') => s'.block t x c

/-- One more instruction of the strand has issued: every outstanding boundary comes one position nearer (R40). -/
def Strand.count (st : Strand) : Strand :=
  { st with order := st.order + 1, pend := st.pend.map fun o => { o with left := o.left - 1 } }

/-- The strand goes on at an address, having completed or accepted its instruction. -/
def Strand.goTo (st : Strand) (pc : Word) : Strand :=
  { st.count with pc := pc, status := .ready, flight := none }

/-- The strand goes on at the next instruction (R56). -/
def Strand.advance (st : Strand) : Strand := st.goTo (st.pc + 12)

/-- The long operation of the instruction at the strand's PC, accepted; the PC goes on (R39, R40). -/
def Strand.accept (st : Strand) (la : BitVec 4) (kind : OpKind) (ready : Bool) (ws : List RegWrite) : Strand :=
  let o : LongOp := ⟨st.order, st.pc, la.toNat + 1, kind, ready, ws, none, none⟩
  ({ st with pend := st.pend ++ [o] }).advance

/-! ### Parking (R52, R53) -/

/-- A queue of a park mask holds an ordinary message at its head (R52). -/
def parkedHead (th : Thread) (mask : BitVec 16) : Bool :=
  (List.range 16).any fun q => mask.getLsbD q && (match th.getQ q with | e :: _ => !e.eos | [] => false)

/-- A strand of a thread, parked with an ordinary message at the head of a queue of its mask, goes on (R52). -/
def Strand.wake (st : Strand) (th : Thread) : Strand :=
  match st.status with
  | .parked mask => if parkedHead th mask then st.advance else st
  | _ => st

/-- PARK_RESUME (R52): what follows every change of a queue; a drained thread never issues again (R53). -/
def Thread.wake (th : Thread) : Thread :=
  if th.ended then th else { th with a := th.a.wake th, x := th.x.wake th }

/-- An entry joins a queue: the thread's parked strands see it, but for a drained thread (R52, R53). -/
def Thread.push (th : Thread) (q : Nat) (e : QEntry) : Thread :=
  let th' := th.setQ q (th.getQ q ++ [e])
  if th.drained then { th' with ended := true } else th'.wake

/-- A queue after a pop: a parked strand may see an ordinary message behind an EOS token (R52). -/
def Thread.popTo (th : Thread) (q : Nat) (l : List QEntry) : Thread := (th.setQ q l).wake

/-! ### Register writes -/

/-- Bits of a vector register under a mask. -/
def maskV (mask old new : VReg) : VReg := (new &&& mask) ||| (old &&& ~~~mask)
/-- Bits of a predicate register under a mask. -/
def maskP (mask old new : PReg) : PReg := (new &&& mask) ||| (old &&& ~~~mask)

/-- One register write of an instruction (R60). -/
def Thread.write (th : Thread) (x : Side) : RegWrite → Thread
  | .s n v => th.setStrand x ((th.strand x).setS n v)
  | .v n mask v => th.setV n (maskV mask (th.getV n) v)
  | .p n mask v => th.setStrand x ((th.strand x).setP n (maskP mask ((th.strand x).getP n) v))
  | .push q e => th.push q e
  | .eos q => { th with eos := th.eos ||| (1#16 <<< q) }
  | .fps f => th.setStrand x ((th.strand x).orFps f)
  | .prog v => th.setStrand x { th.strand x with prog := v }

def Thread.writeAll (th : Thread) (x : Side) (ws : List RegWrite) : Thread :=
  ws.foldl (fun th w => th.write x w) th

/-- An operation pushes a queue. -/
def LongOp.pushes (o : LongOp) (q : Nat) : Bool := o.writes.any fun w => match w with | .push n _ => n == q | _ => false

/-- Some earlier operation of the strand still has to push a queue that this one pushes: entries enter in program order
(R40). -/
def pushWaits (l : List LongOp) (id : Nat) : Bool :=
  match l with
  | [] => false
  | o :: r => if o.id == id then false
    else (List.range 8).any (fun q => o.pushes q && r.any fun p => p.id == id && p.pushes q) || pushWaits r id

/-- Coupling queues that outstanding long operations of a strand will push, one entry a push. -/
def pendingPushes (l : List LongOp) (q : Nat) : Nat :=
  (l.map fun o => (o.writes.filter fun w => match w with | .push n _ => n == q | _ => false).length).sum

/-- Retire an instruction of the issuing strand: a long operation is accepted with its results (R39, R40), a short
one writes them now (R37). -/
def State.retire (s : State) (la : BitVec 4) (long : Bool) (ws : List RegWrite) : State :=
  if long then s.updMy fun st => st.accept la .plain true ws
  else
    let th := s.me.writeAll s.curX ws
    s.setThread s.curT (th.setStrand s.curX (th.strand s.curX).advance)

/-- Retire with no result. -/
def State.next (s : State) : State := s.updMy Strand.advance

/-- One unit of an interruptible instruction over n bytes, after which `done` of them are done: `%prog` holds that number,
and zero once the instruction is complete; pre-emption falls between two units, with the PC at the instruction (R216, R248,
R281; log 90). -/
def State.rangeStep (s : State) (n done : Nat) : Except Stop State :=
  if n ≤ done then .ok (s.updMy fun st => { st with prog := 0 }).next
  else .error (.waitIn .more (s.updMy fun st => { st with prog := BitVec.ofNat 64 done }))

/-- An instruction that waited is completed by the step that answers it: its results are written and the strand goes
on (R35, R243). -/
def State.finish (s : State) (t : Nat) (x : Side) (ws : List RegWrite) : State :=
  let th := (s.thread t).writeAll x ws
  s.setThread t (th.setStrand x (th.strand x).advance)

/-- Results of a long operation are written and its boundary is gone (R40). -/
def State.complete (s : State) (t : Nat) (x : Side) (id : Nat) : State :=
  match (s.strand t x).pend.find? (fun o => o.id == id) with
  | none => s
  | some o =>
    let rest := (s.strand t x).pend.filter fun p => p.id != id
    match o.fault with
    | some i => (s.updStrand t x fun st => { st with pend := rest }).raiseAt t x ⟨o.id, o.pc, i⟩
    | none =>
      let th := (s.thread t).writeAll x o.writes
      s.setThread t (th.setStrand x { th.strand x with pend := rest })

/-- The results of a long operation become known (R223). -/
def State.answerOp (s : State) (t : Nat) (x : Side) (id : Nat) (ws : List RegWrite) (f : Option TrapInfo) : State :=
  s.updStrand t x fun st =>
    { st with pend := st.pend.map fun o =>
        if o.id = id then { o with ready := true, kind := .plain, writes := o.writes ++ ws, fault := f } else o }

/-! ### Bits -/

/-- A BitVec of n bits from a natural, by exact reduction. -/
def wordOf (n : Nat) : Word := BitVec.ofNat 64 n

/-- Little-endian value of a list of bytes (Notation). -/
def leNat : List Byte → Nat
  | [] => 0
  | b :: r => b.toNat + 256 * leNat r

/-- The n low bytes of a value, lowest first. -/
def leBytes : Nat → Nat → List Byte
  | 0, _ => []
  | n + 1, v => BitVec.ofNat 8 v :: leBytes n (v / 256)

/-- Bits [63:2] kept: a PC is 4-byte aligned (R56, R137). -/
def keepPc (v : Word) : Word := v &&& 0xFFFFFFFFFFFFFFFC
/-- Bits [47:16] kept (R328). -/
def keepRoot (v : Word) : Word := v &&& 0x0000FFFFFFFF0000
/-- The flags of `%fps` kept (R113). -/
def keepFps (v : Word) : Word := v &&& 0x1F
/-- Bits [39:0] of `%watchdog` kept (R336). -/
def keepWatchdog (v : Word) : Word := v &&& 0xFFFFFFFFFF
/-- The fields of `%ctx` kept (R336). -/
def keepCtx (v : Word) : Word := v &&& 0xEFFFF

/-- Sign extension of the immediate to 64 bits (R61). -/
def sextImm (i : BitVec 24) : Word := i.signExtend 64

end Sys2Proof.Machine
end

