-- ==== Sys2Proof/Machine/Sha.lean ====
section
/-! DEFINITION. SHA-256 and SHA-384, the digests that R100, R382, R389 and R390 name. The functions are those of FIPS 180-4:
PRESUMED (log 81), as the spec names them and lays out neither. -/

namespace Sys2Proof.Machine

/-- Bytes of a number, most significant first. -/
def beBytes (n v : Nat) : List Byte := (leBytes n v).reverse

/-- The number that bytes hold, most significant first. -/
def beNat (l : List Byte) : Nat := leNat l.reverse

/-- One of the functions Σ and σ: two rotations, and a third rotation or a shift. -/
structure Sha2Mix where
  a     : Nat
  b     : Nat
  c     : Nat
  shift : Bool

def Sha2Mix.eval {w : Nat} (m : Sha2Mix) (x : BitVec w) : BitVec w :=
  x.rotateRight m.a ^^^ x.rotateRight m.b ^^^ (if m.shift then x >>> m.c else x.rotateRight m.c)

/-- What tells one function of the family from another: constants of the rounds, Σ0, Σ1, σ0, σ1. -/
structure Sha2 (w : Nat) where
  k   : List (BitVec w)
  up0 : Sha2Mix
  up1 : Sha2Mix
  lo0 : Sha2Mix
  lo1 : Sha2Mix

/-- Fractional parts of the cube roots of the first 80 primes. -/
def sha2Consts : List Word :=
  [0x428A2F98D728AE22, 0x7137449123EF65CD, 0xB5C0FBCFEC4D3B2F, 0xE9B5DBA58189DBBC,
   0x3956C25BF348B538, 0x59F111F1B605D019, 0x923F82A4AF194F9B, 0xAB1C5ED5DA6D8118,
   0xD807AA98A3030242, 0x12835B0145706FBE, 0x243185BE4EE4B28C, 0x550C7DC3D5FFB4E2,
   0x72BE5D74F27B896F, 0x80DEB1FE3B1696B1, 0x9BDC06A725C71235, 0xC19BF174CF692694] ++
  [0xE49B69C19EF14AD2, 0xEFBE4786384F25E3, 0x0FC19DC68B8CD5B5, 0x240CA1CC77AC9C65,
   0x2DE92C6F592B0275, 0x4A7484AA6EA6E483, 0x5CB0A9DCBD41FBD4, 0x76F988DA831153B5,
   0x983E5152EE66DFAB, 0xA831C66D2DB43210, 0xB00327C898FB213F, 0xBF597FC7BEEF0EE4,
   0xC6E00BF33DA88FC2, 0xD5A79147930AA725, 0x06CA6351E003826F, 0x142929670A0E6E70] ++
  [0x27B70A8546D22FFC, 0x2E1B21385C26C926, 0x4D2C6DFC5AC42AED, 0x53380D139D95B3DF,
   0x650A73548BAF63DE, 0x766A0ABB3C77B2A8, 0x81C2C92E47EDAEE6, 0x92722C851482353B,
   0xA2BFE8A14CF10364, 0xA81A664BBC423001, 0xC24B8B70D0F89791, 0xC76C51A30654BE30,
   0xD192E819D6EF5218, 0xD69906245565A910, 0xF40E35855771202A, 0x106AA07032BBD1B8] ++
  [0x19A4C116B8D2D0C8, 0x1E376C085141AB53, 0x2748774CDF8EEB99, 0x34B0BCB5E19B48A8,
   0x391C0CB3C5C95A63, 0x4ED8AA4AE3418ACB, 0x5B9CCA4F7763E373, 0x682E6FF3D6B2B8A3,
   0x748F82EE5DEFB2FC, 0x78A5636F43172F60, 0x84C87814A1F0AB72, 0x8CC702081A6439EC,
   0x90BEFFFA23631E28, 0xA4506CEBDE82BDE9, 0xBEF9A3F7B2C67915, 0xC67178F2E372532B] ++
  [0xCA273ECEEA26619C, 0xD186B8C721C0C207, 0xEADA7DD6CDE0EB1E, 0xF57D4F7FEE6ED178,
   0x06F067AA72176FBA, 0x0A637DC5A2C898A6, 0x113F9804BEF90DAE, 0x1B710B35131C471B,
   0x28DB77F523047D84, 0x32CAAB7B40C72493, 0x3C9EBE0A15C9BEBC, 0x431D67C49C100D4C,
   0x4CC5D4BECB3E42B6, 0x597F299CFC657E2A, 0x5FCB6FAB3AD6FAEC, 0x6C44198C4A475817]

/-- SHA-256's family: 64 rounds on 32-bit words, whose constants are the upper halves of the others' first 64. -/
def sha2Small : Sha2 32 where
  k := (sha2Consts.take 64).map fun v => v.extractLsb' 32 32
  up0 := ⟨2, 13, 22, false⟩
  up1 := ⟨6, 11, 25, false⟩
  lo0 := ⟨7, 18, 3, true⟩
  lo1 := ⟨17, 19, 10, true⟩

/-- SHA-384's family: 80 rounds on 64-bit words. -/
def sha2Large : Sha2 64 where
  k := sha2Consts
  up0 := ⟨28, 34, 39, false⟩
  up1 := ⟨14, 18, 41, false⟩
  lo0 := ⟨1, 8, 7, true⟩
  lo1 := ⟨19, 61, 6, true⟩

/-- n further words of a message schedule, which is kept newest first. -/
def Sha2.expand {w : Nat} (f : Sha2 w) : Nat → List (BitVec w) → List (BitVec w)
  | 0, l => l
  | n + 1, l =>
    let at_ (i : Nat) : BitVec w := (l[i]?).getD 0
    f.expand n ((f.lo1.eval (at_ 1) + at_ 6 + f.lo0.eval (at_ 14) + at_ 15) :: l)

/-- One round with a constant and a word of the schedule. -/
def Sha2.round {w : Nat} (f : Sha2 w) (l : List (BitVec w)) (kw : BitVec w × BitVec w) : List (BitVec w) :=
  match l with
  | [a, b, c, d, e, g, h, i] =>
    let t := i + f.up1.eval e + ((e &&& g) ^^^ (~~~e &&& h)) + kw.1 + kw.2
    let u := f.up0.eval a + ((a &&& b) ^^^ (a &&& c) ^^^ (b &&& c))
    [t + u, a, b, c, d + t, e, g, h]
  | l => l

/-- The 16 words of a block. -/
def blockWords (w : Nat) (block : List Byte) : List (BitVec w) :=
  (List.range 16).map fun i => BitVec.ofNat w (beNat ((block.drop (i * (w / 8))).take (w / 8)))

/-- One block taken into the chaining words. -/
def Sha2.block {w : Nat} (f : Sha2 w) (h : List (BitVec w)) (block : List Byte) : List (BitVec w) :=
  let ws := (f.expand (f.k.length - 16) (blockWords w block).reverse).reverse
  List.zipWith (· + ·) h ((f.k.zip ws).foldl f.round h)

/-- A message with its padding: a 1 bit, zeros, and its length in bits as two words. -/
def shaPadded (w : Nat) (m : List Byte) : List Byte :=
  let size := 2 * w
  let n := (m.length + 1 + w / 4 + size - 1) / size * size
  m ++ [0x80] ++ List.replicate (n - m.length - 1 - w / 4) 0 ++ beBytes (w / 4) (8 * m.length)

/-- The final chaining words of a message. -/
def Sha2.hash {w : Nat} (f : Sha2 w) (iv : List (BitVec w)) (m : List Byte) : List (BitVec w) :=
  let p := shaPadded w m
  (List.range (p.length / (2 * w))).foldl (fun h i => f.block h ((p.drop (i * (2 * w))).take (2 * w))) iv

/-- The SHA-256 digest. -/
def sha256 (m : List Byte) : BitVec 256 :=
  let iv : List (BitVec 32) :=
    [0x6A09E667, 0xBB67AE85, 0x3C6EF372, 0xA54FF53A, 0x510E527F, 0x9B05688C, 0x1F83D9AB, 0x5BE0CD19]
  BitVec.ofNat 256 ((sha2Small.hash iv m).foldl (fun n v => n * 2 ^ 32 + v.toNat) 0)

/-- The SHA-384 digest: six of the eight words. -/
def sha384 (m : List Byte) : List Byte :=
  let iv : List Word :=
    [0xCBBB9D5DC1059ED8, 0x629A292A367CD507, 0x9159015A3070DD17, 0x152FECD8F70E5939,
     0x67332667FFC00B31, 0x8EB44A8768581511, 0xDB0C2E0D64F98FA7, 0x47B5481DBEFA4FA4]
  ((sha2Large.hash iv m).take 6).flatMap fun v => beBytes 8 v.toNat

end Sys2Proof.Machine
end

