-- ==== Sys2Proof/Machine/Operands.lean ====
section
/-! DEFINITION. Every operand form and the checks that precede an instruction's own meaning: the order of R69, the
cases of R68, operand fields (R58 to R61), the guard (R62), the wait mask (R63), privilege (R70), strands (R33), and
the reading and writing of operands (R131, R132). -/

namespace Sys2Proof.Machine

/-! ### Element types (R65) -/

/-- Width of an element in bits; TY b is 64 bits in scalar and 32 bits in vector instructions. -/
def tyWidth (vec : Bool) : Ty → Nat
  | .s8 | .u8 => 8
  | .s16 | .u16 | .bf16 | .fp16 => 16
  | .s32 | .u32 | .fp32 | .pl => 32
  | .s64 | .u64 => 64
  | .b => if vec then 32 else 64
  | .none | .notTypeC | .notTypeF => 64

def tySigned : Ty → Bool
  | .s8 | .s16 | .s32 | .s64 => true
  | _ => false

def tyIsInt : Ty → Bool
  | .s8 | .u8 | .s16 | .u16 | .s32 | .u32 | .s64 | .u64 => true
  | _ => false

def tyIsFloat : Ty → Bool
  | .bf16 | .fp16 | .fp32 => true
  | _ => false

/-! ### What an instruction's description permits -/

/-- What a description says of an operand field. -/
inductive Slot
  /-- Not used: class 7 with index 0 (R59). -/
  | unused
  /-- The classes permitted. -/
  | of (l : List OpClass)

/-- What a description says of GS (R67). -/
inductive GsRule
  | unused
  /-- The values assigned; any other is unassigned. -/
  | oneOf (l : List Nat)
  /-- A scope; 7 is reserved, a scope that is not listed is unassigned. -/
  | scope (l : List Nat)
  /-- Only bit 28 is used. -/
  | bit

/-- What a description says of IMM (R61). -/
inductive ImmRule
  /-- Only a class-6 operand reads it; else it is zero. -/
  | operand
  /-- A role of its own, and whether the value holds the bits that the role requires to be zero. -/
  | role (ok : Bool)

/-- The description of an instruction as its fields select it. -/
structure Desc where
  /-- FN and TY hold values that the description permits (R68 case 2). -/
  legal  : Bool
  gs     : GsRule := .unused
  rmOk   : Bool := false
  ftzOk  : Bool := false
  satOk  : Bool := false
  sw     : Bool := false
  da     : Slot := .unused
  sa     : Slot := .unused
  sb     : Slot := .unused
  /-- DA is a data source, so that a queue there is popped. -/
  daSrc  : Bool := false
  imm    : ImmRule := .operand
  /-- A group that only the X-strand issues (R33). -/
  xOnly  : Bool := false
  /-- Privileged (R70). -/
  priv   : Bool := false
  /-- The guard enables lanes (R62). -/
  vec    : Bool := false
  /-- Indices that the description forbids beyond the class's own range (R68 case 4). -/
  misuse : Bool := false

/-- Highest valid index of a class, plus one (R58). -/
def classSize : OpClass → Nat
  | .scalar => 64 | .vector => 32 | .predicate => 16 | .queue => 16 | .tile => 8 | .special => 128
  | .immediate => 1 | .absent => 1

def Slot.isUnused : Slot → Bool
  | .unused => true
  | .of _ => false

/-- Step 1 of R69: a GS value outside the permitted set. -/
def GsRule.illegal (r : GsRule) (gs : Nat) : Bool :=
  match r with
  | .oneOf l => !l.contains gs
  | .scope l => gs != 7 && !l.contains gs
  | .unused | .bit => false

/-- Step 2 of R69 for GS. -/
def GsRule.reserved (r : GsRule) (gs : Nat) : Bool :=
  match r with
  | .unused => gs != 0
  | .scope _ => gs == 7
  | .bit => gs ≥ 2
  | .oneOf _ => false

/-- An operand field that R59 reserves. -/
def Slot.reserved (sl : Slot) (o : Operand) : Bool :=
  match sl with
  | .unused => o.cls != .absent || o.idx != 0
  | .of _ => (o.cls == .absent || o.cls == .immediate) && o.idx != 0

/-- An operand field whose class or index is not permitted (R59). -/
def Slot.misused (sl : Slot) (o : Operand) : Bool :=
  match sl with
  | .unused => false
  | .of l => !l.contains o.cls || o.idx.toNat ≥ classSize o.cls

/-- Some operand field is of class 6. -/
def usesImm (e : Enc) : Bool := e.da.cls == .immediate || e.sa.cls == .immediate || e.sb.cls == .immediate

/-- A position that may be of class 6. -/
def Slot.mayRead (sl : Slot) : Bool :=
  match sl with
  | .unused => false
  | .of l => l.contains .immediate

/-- IMM breaks R61; `may` says that the description lets some operand read IMM. -/
def ImmRule.reserved (r : ImmRule) (may : Bool) (e : Enc) : Bool :=
  match r with
  | .role ok => !ok
  | .operand =>
    if may && usesImm e then (e.ty == .bf16 || e.ty == .fp16) && e.imm.extractLsb' 16 8 != 0
    else e.imm != 0

/-- R69 step 2. -/
def Desc.reserved (d : Desc) (e : Enc) : Bool :=
  d.gs.reserved e.gs.toNat || (!d.rmOk && e.rm != .rne) || (!d.ftzOk && e.ftz) || (!d.satOk && e.sat) ||
  (!d.sw && e.sw != 0) || d.da.reserved e.da || d.sa.reserved e.sa || d.sb.reserved e.sb ||
  d.imm.reserved (d.da.mayRead || d.sa.mayRead || d.sb.mayRead) e

/-- A tile operand whose bit is clear in `%acc` (R59). -/
def tileMissing (acc : BitVec 8) (o : Operand) : Bool :=
  o.cls == .tile && !acc.getLsbD o.idx.toNat

/-- A queue that no strand may write (R42, R60). -/
def queueDestBad (d : Desc) (e : Enc) : Bool :=
  !d.daSrc && e.da.cls == .queue && !(1 ≤ e.da.idx.toNat && e.da.idx.toNat ≤ 7)

/-- Special registers that R71 assigns, and those it lets software write. -/
def specialAssigned (k : Nat) : Bool := k ≤ 19 || (64 ≤ k && k ≤ 72)
def specialWritable (k : Nat) : Bool := k == 9 || k == 10 || k == 11 || k == 12 || (14 ≤ k && k ≤ 18) || 64 ≤ k

def specialMisuse (e : Enc) : Bool :=
  (e.sa.cls == .special && !specialAssigned e.sa.idx.toNat) ||
  (e.da.cls == .special && !(specialAssigned e.da.idx.toNat && specialWritable e.da.idx.toNat))

/-- R69 step 3. -/
def Desc.operandClass (d : Desc) (e : Enc) (acc : BitVec 8) : Bool :=
  d.da.misused e.da || d.sa.misused e.sa || d.sb.misused e.sb || queueDestBad d e || d.misuse || specialMisuse e ||
  (usesImm e && (e.ty == .none || e.ty == .pl)) || tileMissing acc e.da || tileMissing acc e.sa ||
  tileMissing acc e.sb

/-- A queue operand that belongs to the other strand (R33). -/
def queueWrongStrand (th : Thread) (x : Side) (pop : Bool) (o : Operand) : Bool :=
  o.cls == .queue && (if pop then !th.mayPop x o.idx.toNat else th.pusher o.idx.toNat != x)

/-- R69 step 4. -/
def Desc.wrongStrand (d : Desc) (e : Enc) (th : Thread) (x : Side) : Bool :=
  (x == .strandA &&
    (d.xOnly || [e.da, e.sa, e.sb].any fun o => o.cls == .vector || o.cls == .tile)) ||
  queueWrongStrand th x d.daSrc e.da || queueWrongStrand th x true e.sa || queueWrongStrand th x true e.sb

/-- R69 step 5: a privileged instruction, or one that names a special register of index 64 to 127 (R70). -/
def Desc.needsSupervisor (d : Desc) (e : Enc) : Bool :=
  d.priv || (e.sa.cls == .special && e.sa.idx.toNat ≥ 64) || (e.da.cls == .special && e.da.idx.toNat ≥ 64)

/-- Steps 1 to 5 of R69: the first that fails. -/
def Desc.check (d : Desc) (e : Enc) (th : Thread) (x : Side) : Option Cause :=
  if !d.legal || d.gs.illegal e.gs.toNat then some .illegal
  else if d.reserved e then some .reservedField
  else if d.operandClass e th.acc then some .operandClass
  else if d.wrongStrand e th x then some .strand
  else if d.needsSupervisor e && !(th.strand x).sup then some .privileged
  else none

/-! ### The wait mask (R63, R290) -/

/-- Tokens that a wait mask names. -/
def maskTokens (wm : BitVec 8) : List Nat := (List.range 8).filter fun n => wm.getLsbD n

/-- The lowest-numbered FAULTED token of a mask. -/
def Thread.faultedToken (th : Thread) (wm : BitVec 8) : Option (Nat × FaultRec) :=
  (maskTokens wm).findSome? fun n => (th.getTok n).fault.map fun f => (n, f)

def Thread.tokensBusy (th : Thread) (wm : BitVec 8) : Bool := (maskTokens wm).any fun n => (th.getTok n).count != 0

/-- Clean bytes of a core's L1 whose home passes a test are dropped; dirty words stay (R233). -/
def State.dropClean (s : State) (k : Nat) (home : Nat → Bool) : State :=
  let drop (l : L1Line) : L1Line := if l.core == k && home l.home then { l with valid := l.dirty } else l
  { s with l1 := (s.l1.map drop).filter (fun l => l.valid != 0) }

/-- Step 6 of R69: a FAULTED token traps, a busy one makes the strand wait, and finding the tokens clear acquires the
engine writes of their jobs (R236). Delivery of the trap takes the token out of FAULTED (R290). -/
def State.waitMask (s : State) (wm : BitVec 8) : Except Stop State :=
  if wm = 0 then .ok s
  else
    match s.me.faultedToken wm with
    | some (n, f) => .error (.trap (f.tokenTrap n))
    | none =>
      if s.me.tokensBusy wm then .error (.wait (.tokens wm))
      else .ok (s.dropClean (coreOf s.curT) fun h => h == clusterOf s.curT)

/-! ### The guard (R62) -/

/-- The guarding predicate after negation. -/
def Strand.guard (st : Strand) (e : Enc) : PReg :=
  if e.gneg then ~~~(st.getP e.gsel.toNat) else st.getP e.gsel.toNat

/-- Bit 0, which alone counts for an instruction that is not a vector instruction. -/
def Strand.guardOn (st : Strand) (e : Enc) : Bool := (st.guard e).getLsbD 0

/-- Whether the element of w bits at index i is enabled: the bit of its lowest-numbered byte lane (R60, R62). -/
def laneOn (g : PReg) (w i : Nat) : Bool := g.getLsbD (w * i / 8)

/-! ### Issue -/

/-- Steps 1 to 8 of R69 for the issuing strand, in their order: the checks, the wait mask, the guard, then the
instruction's own meaning. -/
def runChecked (d : Desc) (e : Enc) (s : State) (body : State → Except Stop State) : Except Stop State :=
  match d.check e s.me s.curX with
  | some c => .error (.trap (TrapInfo.plain c))
  | none =>
    match s.waitMask e.wm with
    | .error x => .error x
    | .ok s' => if !d.vec && !s'.my.guardOn e then .ok s'.next else body s'

/-- An instruction of the issuing strand. Every instruction meaning is one call of this. -/
def issue (d : Desc) (e : Enc) (s : State) (body : State → Except Stop State) :
    Host.Outcome State Fault Refusal :=
  match s.thread? s.curT with
  | none => .fault .noStrand
  | some _ => .next (s.settle s.curT s.curX (runChecked d e s body))

/-! ### Reading operands -/

/-- The value of a class-6 operand (R61). -/
def immValue (ty : Ty) (imm : BitVec 24) : Word :=
  match ty with
  | .fp32 => (imm.setWidth 64) <<< 8
  | .bf16 | .fp16 => (imm.extractLsb' 0 16).setWidth 64
  | .b => imm.setWidth 64
  | _ => sextImm imm

/-- What reading a source yields: its value, the register writes it causes, the state after its pop. -/
abbrev Read (α : Type) := Except Stop (α × List RegWrite × State)

/-- A read observes the releases recorded with what it read, and its home, for a later acquire fence (R226, R233). -/
def Strand.observe (st : Strand) (home : Nat) (rs : List Release) : Strand :=
  { st with obs := rs.foldl (fun l r => if l.contains r then l else l ++ [r]) st.obs
            homes := if st.homes.contains home then st.homes else home :: st.homes }

/-- A pop is observed: a message is an acquire of its release at pod scope, a watch answer of those of the word that it read
at the watch's scope (R224), and a read of that word; an entry of a coupling queue counts for fences (R226). -/
def Strand.observePop (st : Strand) (q : Nat) (en : QEntry) : Strand :=
  if 1 ≤ q ∧ q ≤ 7 then { st with obs := st.obs ++ en.rel }
  else match en.watch with
    | none => { st with acquire := st.acquire ++ en.rel.map fun r => (r, 6) }
    | some w => { st.observe w.home en.rel with acquire := st.acquire ++ en.rel.map fun r => (r, w.scope) }

/-- Pop one 8-byte word (R44 to R46, R131). -/
def State.popWord (s : State) (q : Nat) : Read Word :=
  match s.me.getQ q with
  | [] => .error (.wait (.entry q 1 false))
  | en :: _ =>
    let s' := s.setThread s.curT (s.me.popTo q (takeWord (s.me.getQ q)))
    let s'' := s'.updMy fun st => st.observePop q en
    if en.eos then .ok (0, [.eos q], s'') else .ok (en.nextWord, [], s'')

/-- Pop every unread word of the head entry (R44, R46, R160). -/
def State.popVector (s : State) (q : Nat) : Read VReg :=
  match s.me.getQ q with
  | [] => .error (.wait (.entry q 1 true))
  | en :: r =>
    let s' := s.setThread s.curT (s.me.popTo q r)
    let s'' := s'.updMy fun st => st.observePop q en
    if en.eos then .ok (0, [.eos q], s'') else .ok (en.unread, [], s'')

/-- A store whose data is an empty queue blocks before its address is checked (R45). -/
def State.needEntry (s : State) (o : Operand) : Except Stop Unit :=
  if o.cls == .queue && (s.me.getQ o.idx.toNat).isEmpty then .error (.wait (.entry o.idx.toNat 1 true)) else .ok ()

/-- A second source that is the first one's queue waits for one read more (R44, R45). -/
def Read.after {α : Type} (o : Operand) : Read α → Read α
  | .error (.wait (.entry q n whole)) => .error (.wait (.entry q (if o.cls == .queue && o.idx.toNat == q then n + 1 else n) whole))
  | r => r

/-- A scalar source: register, queue or immediate (R131). -/
def State.readScalar (s : State) (ty : Ty) (imm : BitVec 24) (o : Operand) : Read Word :=
  match o.cls with
  | .scalar => .ok (s.my.getS o.idx.toNat, [], s)
  | .queue => s.popWord o.idx.toNat
  | .immediate => .ok (immValue ty imm, [], s)
  | _ => .ok (0, [], s)

/-- SA and then SB (R44). -/
def State.readPair (s : State) (e : Enc) : Read (Word × Word) :=
  match s.readScalar e.ty e.imm e.sa with
  | .error x => .error x
  | .ok (a, wa, s1) =>
    match (s1.readScalar e.ty e.imm e.sb).after e.sa with
    | .error x => .error x
    | .ok (b, wb, s2) => .ok ((a, b), wa ++ wb, s2)

/-- Some source is a queue, so the instruction is long (R37, R131). -/
def popsQueue (e : Enc) : Bool := e.sa.cls == .queue || e.sb.cls == .queue

/-! ### Writing results -/

/-- Room for n more entries in a queue that a strand pushes (R45). Entries of its outstanding long operations go first,
and a short push waits until they have entered, so that entries stay in program order (R40). -/
def Thread.hasRoom (th : Thread) (x : Side) (q n : Nat) (long : Bool) : Bool :=
  decide ((th.getQ q).length + pendingPushes (th.strand x).pend q + n ≤ queueCapacity q) &&
  (long || pendingPushes (th.strand x).pend q == 0)

/-- A destination that is a full queue blocks the strand (R45). -/
def State.needRoom (s : State) (o : Operand) (n : Nat) (long : Bool) : Except Stop Unit :=
  if o.cls == .queue then
    if s.me.hasRoom s.curX o.idx.toNat n long then .ok () else .error (.wait (.space o.idx.toNat n long))
  else .ok ()

/-- The releases that a pushed entry carries for fences (R226). -/
def Strand.pushRel (st : Strand) : List Release := st.fenceRel

/-- The write of a scalar result (R131). -/
def destWrite (st : Strand) (o : Operand) (v : Word) : RegWrite :=
  match o.cls with
  | .queue => .push o.idx.toNat { QEntry.word v with rel := st.pushRel }
  | _ => .s o.idx.toNat v

/-- The write of a vector result under a lane mask; a queue destination receives a whole entry (R60, R160). -/
def destWriteV (st : Strand) (o : Operand) (mask v : VReg) : RegWrite :=
  match o.cls with
  | .queue => .push o.idx.toNat { QEntry.vector v with rel := st.pushRel }
  | _ => .v o.idx.toNat mask v

/-- A scalar instruction of two sources and one result: read SA then SB, compute, write (R131, R132). -/
def scalarOp (long : Bool) (e : Enc) (f : Word → Word → Word × List RegWrite) (s : State) : Except Stop State :=
  match s.needRoom e.da 1 (long || popsQueue e) with
  | .error x => .error x
  | .ok _ =>
    match s.readPair e with
    | .error x => .error x
    | .ok ((a, b), ws, s') =>
      let r := f a b
      .ok (s'.retire e.la (long || popsQueue e) (ws ++ r.2 ++ [destWrite s'.my e.da r.1]))

/-- Every bit of a predicate set to a truth value (R145, R148). -/
def allBits (b : Bool) : PReg := if b then BitVec.allOnes 256 else 0

/-- Sources of the scalar groups (R131). -/
def srcSlot : Slot := .of [.scalar, .queue, .immediate]
/-- Destination of the scalar groups (R131). -/
def dstSlot : Slot := .of [.scalar, .queue]
def sReg : Slot := .of [.scalar]
def vReg : Slot := .of [.vector]
def pRegSlot : Slot := .of [.predicate]

end Sys2Proof.Machine
end

