-- ==== Sys2Proof/Machine/Flags.lean ====
section
/-! DEFINITION. Number formats and arithmetic (R104 to R119, R124, R125): integers computed exactly and narrowed at
the end, floating point as exact dyadic numbers rounded once, and every flag of `%fps` (R113, R114). -/

namespace Sys2Proof.Machine

/-! ### Integers (R104, R105, R132) -/

/-- A source value read as the element type: bits [w−1:0] (R132). -/
def intOf (signed : Bool) (w : Nat) (v : Nat) : Int :=
  let u := v % 2 ^ w
  if signed && u ≥ 2 ^ (w - 1) then (u : Int) - (2 ^ w : Nat) else u

/-- Reduction modulo 2^w, as an unsigned number. -/
def wrapNat (w : Nat) (t : Int) : Nat := (t % ((2 ^ w : Nat) : Int)).toNat

/-- Clamp of R104, as the unsigned number of its w bits. -/
def clampNat (signed : Bool) (w : Nat) (t : Int) : Nat :=
  let lo : Int := if signed then -((2 ^ (w - 1) : Nat) : Int) else 0
  let hi : Int := if signed then ((2 ^ (w - 1) : Nat) : Int) - 1 else ((2 ^ w : Nat) : Int) - 1
  wrapNat w (if t < lo then lo else if t > hi then hi else t)

/-- Wrap or clamp, as the `.sat` suffix says. -/
def narrowInt (sat signed : Bool) (w : Nat) (t : Int) : Nat := if sat then clampNat signed w t else wrapNat w t

/-- An integer result of w bits written as 64 bits: sign- or zero-extended (R132). -/
def extendInt (signed : Bool) (w : Nat) (v : Nat) : Word :=
  if signed then ((BitVec.ofNat w v).signExtend 64) else BitVec.ofNat 64 (v % 2 ^ w)

/-- Truncated quotient with the fixed cases of R105. -/
def quotInt (signed : Bool) (w : Nat) (a b : Int) : Int :=
  if b = 0 then (if signed then -1 else ((2 ^ w : Nat) : Int) - 1) else Int.tdiv a b

/-- Remainder with the sign of the dividend; the dividend itself for a divisor of zero (R105). -/
def remInt (a b : Int) : Int := if b = 0 then a else Int.tmod a b

/-- The two-operand integer operations of R138, exact. -/
inductive IntOp | add | sub | mul | mulh | div | rem | min | max
  deriving DecidableEq, Repr

def IntOp.eval (o : IntOp) (signed : Bool) (w : Nat) (a b : Int) : Int :=
  match o with
  | .add => a + b
  | .sub => a - b
  | .mul => a * b
  | .mulh => Int.fdiv (a * b) ((2 ^ w : Nat) : Int)
  | .div => quotInt signed w a b
  | .rem => remInt a b
  | .min => if a < b then a else b
  | .max => if a > b then a else b

/-- `div` clamps only −2^(w−1) / −1: a zero divisor gives R105's results whatever SAT holds (R138). -/
def intResult (o : IntOp) (sat signed : Bool) (w : Nat) (a b : Nat) : Nat :=
  let x := intOf signed w a
  let y := intOf signed w b
  narrowInt (sat && !(o == .div && y == 0)) signed w (o.eval signed w x y)

/-- The bitwise operations (R141). -/
inductive BitOp | and | or | xor | andn
  deriving DecidableEq, Repr

def BitOp.eval {n : Nat} (o : BitOp) (a b : BitVec n) : BitVec n :=
  match o with
  | .and => a &&& b | .or => a ||| b | .xor => a ^^^ b | .andn => a &&& ~~~b

/-- The shifts of R142 on w bits, with k = B mod w. -/
inductive ShiftOp | shl | shr | sar | rotl
  deriving DecidableEq, Repr

def ShiftOp.eval (o : ShiftOp) (w a b : Nat) : Nat :=
  let u := a % 2 ^ w
  let k := b % w
  match o with
  | .shl => (u * 2 ^ k) % 2 ^ w
  | .shr => u / 2 ^ k
  | .sar => wrapNat w (Int.fdiv (intOf true w a) ((2 ^ k : Nat) : Int))
  | .rotl => (u * 2 ^ k + u / 2 ^ (w - k)) % 2 ^ w

/-- Leading zero bits of w bits (R143). -/
def clzNat (w u : Nat) : Nat := if u = 0 then w else w - 1 - u.log2
/-- Trailing zero bits (R143). -/
def ctzNat (w u : Nat) : Nat := ((List.range w).find? fun i => u.testBit i).getD w
/-- Bits set (R143). -/
def popcNat (w u : Nat) : Nat := ((List.range w).filter fun i => u.testBit i).length

/-- The ten relations of `cmp` (R145) by FN. -/
def intRel (fn w a b : Nat) : Bool :=
  let sa := intOf true w a
  let sb := intOf true w b
  let ua := a % 2 ^ w
  let ub := b % 2 ^ w
  match fn with
  | 0 => ua == ub | 1 => ua != ub | 2 => decide (sa < sb) | 3 => decide (sa ≤ sb) | 4 => decide (ua < ub)
  | 5 => decide (ua ≤ ub) | 6 => decide (sa > sb) | 7 => decide (sa ≥ sb) | 8 => decide (ua > ub)
  | _ => decide (ua ≥ ub)

/-! ### Floating-point formats (R106, R107) -/

/-- Exponent width, fraction width. -/
structure Fmt where
  eb : Nat
  fb : Nat
  deriving DecidableEq, Repr

def Fmt.fp32 : Fmt := ⟨8, 23⟩
def Fmt.fp16 : Fmt := ⟨5, 10⟩
def Fmt.bf16 : Fmt := ⟨8, 7⟩
def Fmt.bias (f : Fmt) : Nat := 2 ^ (f.eb - 1) - 1
def Fmt.emax (f : Fmt) : Nat := 2 ^ f.eb - 1
def Fmt.width (f : Fmt) : Nat := 1 + f.eb + f.fb

/-- The format of a floating-point element type. -/
def fmtOf : Ty → Fmt
  | .bf16 => .bf16
  | .fp16 => .fp16
  | _ => .fp32

/-- A value: a NaN, an infinity, or (−1)^s · m · 2^e. -/
inductive FVal
  | nan (signalling : Bool)
  | inf (s : Bool)
  | fin (s : Bool) (m : Nat) (e : Int)
  deriving DecidableEq, Repr

def signBit (s : Bool) (f : Fmt) : Nat := if s then 2 ^ (f.eb + f.fb) else 0
/-- Canonical NaN (R107). -/
def Fmt.nan (f : Fmt) : Nat := f.emax * 2 ^ f.fb + 2 ^ (f.fb - 1)
def Fmt.infinity (f : Fmt) (s : Bool) : Nat := signBit s f + f.emax * 2 ^ f.fb
def Fmt.largest (f : Fmt) (s : Bool) : Nat := signBit s f + f.emax * 2 ^ f.fb - 1
def Fmt.zeroBits (f : Fmt) (s : Bool) : Nat := signBit s f

def fSign (f : Fmt) (b : Nat) : Bool := b.testBit (f.eb + f.fb)
def fExp (f : Fmt) (b : Nat) : Nat := b / 2 ^ f.fb % 2 ^ f.eb
def fFrac (f : Fmt) (b : Nat) : Nat := b % 2 ^ f.fb

/-- The meaning of an encoding (R107), after the input flush of R110. -/
def fDecode (f : Fmt) (ftz : Bool) (b : Nat) : FVal :=
  let s := fSign f b
  let e := fExp f b
  let m := fFrac f b
  if e = 0 then
    if m = 0 ∨ ftz then .fin s 0 0 else .fin s m (1 - (f.bias : Int) - f.fb)
  else if e = f.emax then (if m = 0 then .inf s else .nan (!m.testBit (f.fb - 1)))
  else .fin s (2 ^ f.fb + m) ((e : Int) - f.bias - f.fb)

/-! ### Flags (R113, R114) -/

def flIV : BitVec 5 := 1
def flDZ : BitVec 5 := 2
def flOF : BitVec 5 := 4
def flUF : BitVec 5 := 8
def flNX : BitVec 5 := 16

/-- Result bits and flags. -/
abbrev FRes := Nat × BitVec 5

/-- A signalling NaN input raises IV (R108). -/
def nanFlag : List FVal → BitVec 5
  | [] => 0
  | .nan true :: _ => flIV
  | _ :: r => nanFlag r

def anyNan (l : List FVal) : Bool := l.any fun v => match v with | .nan _ => true | _ => false

/-! ### Rounding (R109 to R111) -/

/-- Whether the neighbour of larger magnitude is chosen: quotient q, remainder r of a division by 2 · half. -/
def roundUp (m : Rm) (s : Bool) (q r half : Nat) : Bool :=
  if r = 0 then false
  else match m with
    | .rne => decide (r > half) || (r == half && q % 2 == 1)
    | .rtz => false
    | .rdn => s
    | .rup => !s

/-- The overflow table of R109. -/
def overflowBits (f : Fmt) (m : Rm) (s : Bool) : Nat :=
  match m with
  | .rne => f.infinity s
  | .rtz => f.largest s
  | .rdn => if s then f.infinity s else f.largest s
  | .rup => if s then f.largest s else f.infinity s

/-- Largest finite value in place of an infinity under SAT (R111). -/
def satBits (f : Fmt) (sat : Bool) (b : Nat) : Nat :=
  if sat && b == f.infinity false then f.largest false
  else if sat && b == f.infinity true then f.largest true else b

/-- `Round` of (−1)^s · m · 2^e with m ≠ 0, then the flush of R110 (R109, R110, R114). -/
def roundFin (f : Fmt) (md : Rm) (ftz : Bool) (s : Bool) (m : Nat) (e : Int) : FRes :=
  let top : Int := e + m.log2
  let emin : Int := 1 - (f.bias : Int)
  let q : Int := (if top < emin then emin else top) - f.fb
  let tiny := decide (top < emin)
  let (mant, inexact) :=
    if e ≥ q then (m * 2 ^ (e - q).toNat, false)
    else
      let r := (q - e).toNat
      let quo := m / 2 ^ r
      let rem := m % 2 ^ r
      (quo + (if roundUp md s quo rem (2 ^ (r - 1)) then 1 else 0), rem != 0)
  let (mant, q) := if mant = 2 ^ (f.fb + 1) then (2 ^ f.fb, q + 1) else (mant, q)
  let fl := (if inexact then flNX else 0) ||| (if tiny && inexact then flUF else 0)
  if mant < 2 ^ f.fb then
    if ftz && mant != 0 then (f.zeroBits s, flUF ||| flNX) else (signBit s f + mant, fl)
  else
    let ex := (q + f.fb + f.bias).toNat
    if ex ≥ f.emax then (overflowBits f md s, flOF ||| flNX)
    else (signBit s f + ex * 2 ^ f.fb + (mant - 2 ^ f.fb), fl)

/-- An exact number: sign, magnitude and exponent; the sign counts for a zero. -/
structure Exact where
  s : Bool
  m : Nat
  e : Int
  deriving DecidableEq, Repr

def roundExact (f : Fmt) (md : Rm) (ftz : Bool) (x : Exact) : FRes :=
  if x.m = 0 then (f.zeroBits x.s, 0) else roundFin f md ftz x.s x.m x.e

/-- Signed value of a term scaled to exponent e0 ≤ its own. -/
def Exact.scaled (x : Exact) (e0 : Int) : Int :=
  let v : Int := ((x.m * 2 ^ (x.e - e0).toNat : Nat) : Int)
  if x.s then -v else v

/-- Exact sum of addends, with the sign of a zero sum as R109 gives it. -/
def sumExact (md : Rm) (l : List Exact) : Exact :=
  let nz := l.filter fun x => x.m != 0
  if nz.isEmpty then
    let neg := if l.all (·.s) then true else if l.all (fun x => !x.s) then false else md == .rdn
    ⟨neg && !l.isEmpty, 0, 0⟩
  else
    let e0 := nz.foldl (fun a x => if x.e < a then x.e else a) (nz.head?.map (·.e) |>.getD 0)
    let t : Int := (nz.map fun x => x.scaled e0).sum
    if t = 0 then ⟨md == .rdn, 0, 0⟩ else ⟨decide (t < 0), t.natAbs, e0⟩

def FVal.exact : FVal → Exact
  | .fin s m e => ⟨s, m, e⟩
  | _ => ⟨false, 0, 0⟩

def FVal.isInf : FVal → Bool
  | .inf _ => true
  | _ => false

def FVal.isZero : FVal → Bool
  | .fin _ 0 _ => true
  | _ => false

def FVal.neg : FVal → FVal
  | .nan q => .nan q
  | .inf s => .inf (!s)
  | .fin s m e => .fin (!s) m e

def FVal.sign : FVal → Bool
  | .nan _ => false
  | .inf s => s
  | .fin s _ _ => s

def mulExact (a b : Exact) : Exact := ⟨a.s != b.s, a.m * b.m, a.e + b.e⟩

/-- A product of two values that are not NaN: the infinity, the invalid case, or the exact product. -/
def mulVal (a b : FVal) : Option FVal :=
  if (a.isInf && b.isZero) || (a.isZero && b.isInf) then none
  else if a.isInf || b.isInf then some (.inf (a.sign != b.sign))
  else
    let p := mulExact a.exact b.exact
    some (.fin p.s p.m p.e)

/-- Sum of values that are not NaN, rounded once (R109, R114): opposite infinities are invalid. -/
def sumVals (f : Fmt) (md : Rm) (ftz : Bool) (l : List FVal) : FRes :=
  let pinf := l.any fun v => v == .inf false
  let ninf := l.any fun v => v == .inf true
  if pinf && ninf then (f.nan, flIV)
  else if pinf then (f.infinity false, 0)
  else if ninf then (f.infinity true, 0)
  else roundExact f md ftz (sumExact md (l.map FVal.exact))

/-! ### Operations (R115) -/

def fAdd (f : Fmt) (md : Rm) (ftz : Bool) (a b : FVal) : FRes :=
  if anyNan [a, b] then (f.nan, nanFlag [a, b]) else sumVals f md ftz [a, b]

def fMul (f : Fmt) (md : Rm) (ftz : Bool) (a b : FVal) : FRes :=
  if anyNan [a, b] then (f.nan, nanFlag [a, b])
  else match mulVal a b with
    | none => (f.nan, flIV)
    | some v => sumVals f md ftz [v]

/-- a · b + c rounded once; 0 · ∞ is invalid even when the addend is a quiet NaN (R114). -/
def fFma (f : Fmt) (md : Rm) (ftz : Bool) (a b c : FVal) : FRes :=
  if anyNan [a, b] then (f.nan, nanFlag [a, b, c])
  else match mulVal a b with
    | none => (f.nan, flIV)
    | some v => if anyNan [c] then (f.nan, nanFlag [c]) else sumVals f md ftz [v, c]

/-- Exact quotient to more bits than any format keeps, a sticky bit below. -/
def divExact (a b : Exact) : Exact :=
  let k := 64 + b.m.log2
  let n := a.m * 2 ^ k
  ⟨a.s != b.s, 2 * (n / b.m) + (if n % b.m = 0 then 0 else 1), a.e - b.e - k - 1⟩

def fDiv (f : Fmt) (md : Rm) (ftz : Bool) (a b : FVal) : FRes :=
  if anyNan [a, b] then (f.nan, nanFlag [a, b])
  else
    let s := a.sign != b.sign
    if (a.isInf && b.isInf) || (a.isZero && b.isZero) then (f.nan, flIV)
    else if a.isInf then (f.infinity s, 0)
    else if b.isInf then (f.zeroBits s, 0)
    else if b.isZero then (f.infinity s, flDZ)
    else if a.isZero then (f.zeroBits s, 0)
    else roundExact f md ftz (divExact a.exact b.exact)

/-- The integer square root by bits, from the highest. -/
def isqrtBits (n : Nat) : Nat → Nat → Nat
  | 0, r => r
  | k + 1, r => isqrtBits n k (if (r + 2 ^ k) * (r + 2 ^ k) ≤ n then r + 2 ^ k else r)

def isqrt (n : Nat) : Nat := isqrtBits n (n.log2 / 2 + 1) 0

/-- Exact square root of a positive number to more bits than any format keeps, a sticky bit below. -/
def sqrtExact (m : Nat) (e : Int) : Exact :=
  let odd := e % 2 != 0
  let m := if odd then 2 * m else m
  let e := if odd then e - 1 else e
  let n := m * 2 ^ 128
  let r := isqrt n
  ⟨false, 2 * r + (if r * r = n then 0 else 1), e / 2 - 65⟩

def fSqrt (f : Fmt) (md : Rm) (ftz : Bool) (a : FVal) : FRes :=
  match a with
  | .nan q => (f.nan, if q then flIV else 0)
  | .inf true => (f.nan, flIV)
  | .inf false => (f.infinity false, 0)
  | .fin s 0 _ => (f.zeroBits s, 0)
  | .fin true _ _ => (f.nan, flIV)
  | .fin false m e => roundExact f md ftz (sqrtExact m e)

/-- Order of two values that are not NaN, −0 below +0 when `zeros`. -/
def fLess (zeros : Bool) (a b : FVal) : Bool :=
  match a, b with
  | .inf s, .inf t => s && !t
  | .inf s, _ => s
  | _, .inf t => !t
  | _, _ =>
    let x := a.exact
    let y := b.exact
    if x.m = 0 ∧ y.m = 0 then zeros && x.s && !y.s
    else
      let e0 := if x.e < y.e then x.e else y.e
      decide (x.scaled e0 < y.scaled e0)

/-- Bits after the input flush of R110. -/
def flushBits (f : Fmt) (ftz : Bool) (b : Nat) : Nat :=
  if ftz && fExp f b == 0 then f.zeroBits (fSign f b) else b % 2 ^ f.width

/-- Minimum and maximum (R116). -/
def fMinMax (f : Fmt) (ftz max : Bool) (a b : Nat) : FRes :=
  let x := fDecode f ftz a
  let y := fDecode f ftz b
  let fl := nanFlag [x, y]
  match anyNan [x], anyNan [y] with
  | true, true => (f.nan, fl)
  | true, false => (flushBits f ftz b, fl)
  | false, true => (flushBits f ftz a, fl)
  | false, false =>
    let less := if max then fLess true y x else fLess true x y
    (flushBits f ftz (if less then a else b), fl)

/-- The seven relations of R148 by FN, with their IV rule (R117). -/
def fRel (fn : Nat) (x y : FVal) : Bool × BitVec 5 :=
  let un := anyNan [x, y]
  let lt := !un && fLess false x y
  let gt := !un && fLess false y x
  let eq := !un && !lt && !gt
  let r := match fn with
    | 0 => eq | 1 => !eq | 2 => lt | 3 => lt || eq | 4 => gt | 5 => gt || eq | _ => un
  let order := 2 ≤ fn && fn ≤ 5
  (r, if un && order then flIV else nanFlag [x, y])

/-! ### Conversions (R118) -/

/-- RoundToInteger of a finite value. -/
def roundToInt (md : Rm) (x : Exact) : Int :=
  let n : Nat :=
    if x.e ≥ 0 then x.m * 2 ^ x.e.toNat
    else
      let r := (-x.e).toNat
      let q := x.m / 2 ^ r
      q + (if roundUp md x.s q (x.m % 2 ^ r) (2 ^ (r - 1)) then 1 else 0)
  if x.s then -(n : Int) else n

/-- Floating point to integer, always saturating. -/
def fToInt (md : Rm) (signed : Bool) (w : Nat) (v : FVal) : Nat × BitVec 5 :=
  let lo : Int := if signed then -((2 ^ (w - 1) : Nat) : Int) else 0
  let hi : Int := if signed then ((2 ^ (w - 1) : Nat) : Int) - 1 else ((2 ^ w : Nat) : Int) - 1
  match v with
  | .nan _ => (0, flIV)
  | .inf s => (wrapNat w (if s then lo else hi), flIV)
  | .fin s m e =>
    let n := roundToInt md ⟨s, m, e⟩
    if n > hi then (wrapNat w hi, flIV)
    else if n < lo then (wrapNat w lo, flIV)
    else
      let exact := e ≥ 0 ∨ m % 2 ^ (-e).toNat = 0
      (wrapNat w n, if exact then 0 else flNX)

/-- Integer to floating point: `Round` of the exact integer. -/
def intToF (f : Fmt) (md : Rm) (ftz : Bool) (n : Int) : FRes :=
  roundExact f md ftz ⟨decide (n < 0), n.natAbs, 0⟩

/-- Floating point to floating point: `Round` of the exact source value. -/
def fToF (g : Fmt) (md : Rm) (ftz : Bool) (v : FVal) : FRes :=
  match v with
  | .nan q => (g.nan, if q then flIV else 0)
  | .inf s => (g.infinity s, 0)
  | .fin s m e => roundExact g md ftz ⟨s, m, e⟩

/-- A conversion between element types named by TY codes (R149, R169): source bits to destination bits. -/
def convert (src dst : Ty) (md : Rm) (ftz sat : Bool) (b : Nat) : Nat × BitVec 5 :=
  if tyIsFloat src then
    let v := fDecode (fmtOf src) ftz b
    if tyIsFloat dst then
      let r := fToF (fmtOf dst) md ftz v
      (satBits (fmtOf dst) sat r.1, r.2)
    else fToInt md (tySigned dst) (tyWidth false dst) v
  else intToF (fmtOf dst) md ftz (intOf (tySigned src) (tyWidth false src) b)

/-! ### Sign operations and classes (R150) -/

def fSgn (f : Fmt) (fn a b : Nat) : Nat :=
  let s := match fn with
    | 0 => fSign f b | 1 => !fSign f b | _ => fSign f a != fSign f b
  signBit s f + a % 2 ^ (f.eb + f.fb)

def fClass (f : Fmt) (b : Nat) : Nat :=
  let s := fSign f b
  let e := fExp f b
  let m := fFrac f b
  let n := if e = f.emax then (if m = 0 then (if s then 0 else 7) else if m.testBit (f.fb - 1) then 9 else 8)
    else if e = 0 then (if m = 0 then (if s then 3 else 4) else if s then 2 else 5)
    else if s then 1 else 6
  2 ^ n

/-! ### The floating-point operations of R147 and R167 by name -/

inductive FOp | add | sub | mul | div | min | max
  deriving DecidableEq, Repr

/-- Two-operand operation on bits, with the flush and saturation of R110 and R111. -/
def FOp.eval (o : FOp) (f : Fmt) (md : Rm) (ftz sat : Bool) (a b : Nat) : FRes :=
  let x := fDecode f ftz a
  let y := fDecode f ftz b
  let r := match o with
    | .add => fAdd f md ftz x y
    | .sub => fAdd f md ftz x y.neg
    | .mul => fMul f md ftz x y
    | .div => fDiv f md ftz x y
    | .min => fMinMax f ftz false a b
    | .max => fMinMax f ftz true a b
  (satBits f sat r.1, r.2)

def fmaBits (f : Fmt) (md : Rm) (ftz sat : Bool) (a b c : Nat) : FRes :=
  let r := fFma f md ftz (fDecode f ftz a) (fDecode f ftz b) (fDecode f ftz c)
  (satBits f sat r.1, r.2)

def sqrtBits (f : Fmt) (md : Rm) (ftz sat : Bool) (a : Nat) : FRes :=
  let r := fSqrt f md ftz (fDecode f ftz a)
  (satBits f sat r.1, r.2)

/-! ### Lane trees (R124) -/

/-- One level of the tree: neighbours joined, an EMPTY side giving the other. -/
def treeLevel {α : Type} (node : α → α → α) : List (Option α) → List (Option α)
  | a :: b :: r =>
    (match a, b with
      | none, y => y
      | x, none => x
      | some x, some y => some (node x y)) :: treeLevel node r
  | l => l

/-- The whole tree over a list whose length is a power of two. -/
def treeReduce {α : Type} (node : α → α → α) : Nat → List (Option α) → Option α
  | 0, l => l.head?.join
  | k + 1, l => treeReduce node k (treeLevel node l)

/-! ### Aligned mantissas (R125) -/

/-- `malign`: a mantissa shifted by d = Eq − E, rounded to nearest even or saturated to int32. -/
def malignNat (d : Int) (m : Nat) : Nat :=
  let v := intOf true 32 m
  if d ≥ 0 then wrapNat 32 (roundToInt .rne ⟨decide (v < 0), v.natAbs, -d⟩)
  else clampNat true 32 (v * ((2 ^ (-d).toNat : Nat) : Int))

end Sys2Proof.Machine
end

