-- ==== Sys2Proof/Machine/Memory.lean ====
section
/-! DEFINITION. Memory by keys in one canonical form, the address windows and their checks (R21 to R29), swizzle (R64),
page tables and TLBs (R328 to R333).

A byte of SRAM has the key of its POD address (R24); a byte at a physical address `pa` of device d has the key
`2^60 + d·2^48 + pa` (R21). -/

namespace Sys2Proof.Machine

/-! ### Bytes of memory -/

/-- What a byte that no entry lists reads as: the spec gives memory no contents after power-on; DESIGN CHOICE zero
(log 4). -/
def emptyByte : Byte := 0

/-- The canonical form: addresses strictly rise and no entry equals what an unlisted address reads as. -/
def memWf : List Host.Cell → Bool
  | [] => true
  | [(_, b)] => b != emptyByte
  | (a, b) :: (c, d) :: r => b != emptyByte && decide (a < c) && memWf ((c, d) :: r)

/-- One byte. -/
def memGet : List Host.Cell → Nat → Byte
  | [], _ => emptyByte
  | (a, b) :: r, k => if a = k then b else if k < a then emptyByte else memGet r k

/-- One byte written; a byte equal to what an unlisted address reads as is not listed. -/
def memSet : List Host.Cell → Nat → Byte → List Host.Cell
  | [], k, v => if v = emptyByte then [] else [(k, v)]
  | (a, b) :: r, k, v =>
    if a = k then (if v = emptyByte then r else (k, v) :: r)
    else if k < a then (if v = emptyByte then (a, b) :: r else (k, v) :: (a, b) :: r)
    else (a, b) :: memSet r k v

/-- n bytes from a key upwards. -/
def memRead (m : List Host.Cell) : Nat → Nat → List Byte
  | _, 0 => []
  | k, n + 1 => memGet m k :: memRead m (k + 1) n

/-- Bytes written from a key upwards. -/
def memWrite (m : List Host.Cell) : Nat → List Byte → List Host.Cell
  | _, [] => m
  | k, b :: r => memWrite (memSet m k b) (k + 1) r

/-- Cells below a key, and from a key on. -/
def memBelow (m : List Host.Cell) (k : Nat) : List Host.Cell := m.filter fun c => decide (c.1 < k)
def memFrom (m : List Host.Cell) (k : Nat) : List Host.Cell := m.filter fun c => decide (k ≤ c.1)

/-- A range of memory replaced by other cells of the range, for ranges too long to write byte by byte; a cell outside
the range is not taken. -/
def memPut (m : List Host.Cell) (k n : Nat) (cells : List Host.Cell) : List Host.Cell :=
  memBelow m k ++ memBelow (memFrom cells k) (k + n) ++ memFrom m (k + n)

/-- Cells of a range, moved to begin at another key. -/
def memMoved (m : List Host.Cell) (src dst n : Nat) : List Host.Cell :=
  (memBelow (memFrom m src) (src + n)).map fun c => (c.1 - src + dst, c.2)

/-- A range of memory copied. -/
def memCopy (m : List Host.Cell) (src dst n : Nat) : List Host.Cell := memPut m dst n (memMoved m src dst n)

/-- A range of memory set to what an unlisted address reads as. -/
def memClear (m : List Host.Cell) (k n : Nat) : List Host.Cell := memPut m k n []

/-- The canonical form of the machine's memory. -/
def State.memOk (s : State) : Bool := memWf s.mem

/-! ### Keys -/

def podBase : Nat := 2 ^ 54
def physBase : Nat := 2 ^ 60

/-- Key of an offset in a unit of a cluster's SRAM (R24). -/
def sramKey (c unit ofs : Nat) : Nat := podBase + c * 2 ^ 31 + unit * 2 ^ 26 + ofs
/-- Key of a physical address of a device (R21). -/
def physKey (d pa : Nat) : Nat := physBase + d * 2 ^ 48 + pa

def isSram (k : Nat) : Bool := k < physBase
/-- Cluster of an SRAM key. -/
def sramCluster (k : Nat) : Nat := (k - podBase) / 2 ^ 31
def sramUnit (k : Nat) : Nat := (k - podBase) / 2 ^ 26 % 32
def sramOfs (k : Nat) : Nat := (k - podBase) % 2 ^ 26
/-- Device and physical address of a physical key. -/
def keyDevice (k : Nat) : Nat := (k - physBase) / 2 ^ 48
def keyPa (k : Nat) : Nat := (k - physBase) % 2 ^ 48

/-- Size of a POD unit in bytes; 0 for an unassigned unit (R16, R24). -/
def unitSize (u : Nat) : Nat :=
  if u < 8 then 0x40000 else if u = 8 then 0x100000 else if u = 9 then 0x200000
  else if 16 ≤ u ∧ u < 24 then 0x10000 else 0

/-- Units whose words carry FE bits (R18, R244). -/
def unitHasFe (u : Nat) : Bool := u ≤ 9

/-- The 8-byte word that holds a key. -/
def wordKey (k : Nat) : Nat := k / 8 * 8

/-- Whether the word at a key carries an FE bit, and whether it is full (R18). -/
def hasFe (k : Nat) : Bool := isSram k && unitHasFe (sramUnit k)
def State.feFull (s : State) (k : Nat) : Bool := !s.feEmpty.contains (wordKey k)

/-- Words whose FE bit is empty, in rising order. -/
def insertKey (k : Nat) : List Nat → List Nat
  | [] => [k]
  | a :: r => if a = k then a :: r else if k < a then k :: a :: r else a :: insertKey k r

def State.setFull (s : State) (k : Nat) : State := { s with feEmpty := s.feEmpty.filter (fun a => a != wordKey k) }
def State.setEmpty (s : State) (k : Nat) : State :=
  if hasFe k then { s with feEmpty := insertKey (wordKey k) s.feEmpty } else s

/-! ### Owned HBM (R19, R20) and the physical map (R21) -/

/-- Bytes of a cluster's owned range with r channels retired (R20). -/
def ownedLength (r : Nat) : Nat := (6 - r) * 0x30000000

def hbmEnd : Nat := 0x9000000000
def clusterSpan : Nat := 0x120000000
/-- Base of a package cluster's owned range (R19). -/
def clusterBase (pcl : Nat) : Nat := (pcl / 32) * 0x2400000000 + (pcl % 32) * clusterSpan

/-- Package cluster that owns an HBM address, and the offset in its range (R19). -/
def hbmCluster (pa : Nat) : Nat := (pa / 0x2400000000) * 32 + pa % 0x2400000000 / clusterSpan
def hbmOffset (pa : Nat) : Nat := pa % 0x2400000000 % clusterSpan

/-- Where a byte of HBM lies: stack of the package, pseudo-channel of its die, byte address within it (R19). -/
structure HbmPlace where
  stack   : Nat
  channel : Nat
  addr    : Nat
  deriving DecidableEq, Repr

/-- The place of an HBM address, over the channels of its cluster that remain (R19, R20). -/
def State.hbmPlace (s : State) (d pa : Nat) : HbmPlace :=
  let pcl := hbmCluster pa
  let left := [0, 1, 2, 3, 4, 5].filter fun i => !(s.cluster (d * 128 + pcl)).retired.contains i
  let u := hbmOffset pa / 256
  let n := 6 * (pcl % 32) + (left[u % left.length]?).getD 0
  ⟨3 * (pcl / 32) + n / 64, n, u / left.length * 256 + hbmOffset pa % 256⟩

/-- Pseudo-channel of the die that holds an HBM address (R19, R20). -/
def State.channelOf (s : State) (d pa : Nat) : Nat := (s.hbmPlace d pa).channel

/-- A range of HBM that is wholly backed and lies in one cluster's owned range (R20). -/
def State.hbmBacked (s : State) (d pa len : Nat) : Bool :=
  pa < hbmEnd && hbmOffset pa + len ≤ ownedLength (s.cluster (d * 128 + hbmCluster pa)).retired.length

def isHostPa (pa : Nat) : Bool := 0x800000000000 ≤ pa && pa < 0xC00000000000
def isMgmtPa (pa : Nat) : Bool := 0xFF0000000000 ≤ pa && pa < 0x1000000000000

/-! ### Windows (R22, R26) -/

inductive Window | lane | core | clus | cave | own | global | pod
  deriving DecidableEq, Repr

def windowOf (a : Nat) : Option Window :=
  if a < 0x400 then some .lane
  else if 0x100000 ≤ a ∧ a < 0x140000 then some .core
  else if 0x200000 ≤ a ∧ a < 0x300000 then some .clus
  else if 0x400000 ≤ a ∧ a < 0x600000 then some .cave
  else if 0x10000000000 ≤ a ∧ a < 0x20000000000 then some .own
  else if 0x20000000000 ≤ a ∧ a < 0x40000000000000 then some .global
  else if 0x40000000000000 ≤ a ∧ a < 0x42000000000000 then some .pod
  else none

/-- First address beyond a window. -/
def Window.limit : Window → Nat
  | .lane => 0x400 | .core => 0x140000 | .clus => 0x300000 | .cave => 0x600000 | .own => 0x20000000000
  | .global => 0x40000000000000 | .pod => 0x42000000000000

/-- Store windows (R27). -/
def Window.storable : Window → Bool
  | .global | .pod => false
  | _ => true

/-- Swizzle of one byte address, applied once the window is decided (R64). -/
def swizzle (sw : Nat) (w : Window) (b : Nat) : Nat :=
  match w with
  | .core | .clus | .cave =>
    if sw = 0 then b else b - b % 256 + (((b / 8 % 32) ^^^ (b / 2 ^ (sw + 7) % 32)) * 8 + b % 8)
  | _ => b

/-! ### Scopes (R8) -/

/-- The instance of a scope that contains a thread; each partition has its own at die level and above where the
caller asks for it. -/
def scopeInstance (scope t : Nat) : Nat :=
  match scope with
  | 1 => t / 8
  | 2 => t / 32
  | 3 => t / 64
  | 4 => t / 2048
  | 5 => t / 8192
  | _ => 0

/-- Whether thread u lies in the instance of a scope that contains thread t; the lane contains none (R8, R225). -/
def inScope (scope t u : Nat) : Bool :=
  if scope = 0 then false else if scope ≥ 6 then true else scopeInstance scope t == scopeInstance scope u

/-! ### Page tables (R328 to R332) -/

/-- Bits of a table entry (R330). -/
def leafPart (w : Word) : Nat := (w.extractLsb' 58 6).toNat
def leafOwner (w : Word) : Nat := (w.extractLsb' 50 8).toNat
def leafFrame (w : Word) : Nat := (w.extractLsb' 18 32).toNat
def leafKind (w : Word) : Nat := (w.extractLsb' 15 3).toNat
def leafNodup (w : Word) : Bool := w.getLsbD 14
def leafW (w : Word) : Bool := w.getLsbD 13
def leafRd (w : Word) : Bool := w.getLsbD 12
def leafLf (w : Word) : Bool := w.getLsbD 1
def leafV (w : Word) : Bool := w.getLsbD 0

/-- The contents that a slice holds for a line, if it holds it (R313). -/
def rindData (paste : List Paste) (r : Rind) : BitVec 512 :=
  match r.st with
  | .zero => 0
  | _ => match paste.find? (fun p => p.slice == r.slice && p.idx == r.pptr) with
    | some p => p.data
    | none => 0

/-- Slice number of a physical address (R310). -/
def sliceOf (a : Nat) : Nat :=
  (a / 2 ^ 6 % 32) ^^^ (a / 2 ^ 11 % 32) ^^^ (a / 2 ^ 16 % 32) ^^^ (a / 2 ^ 21 % 32) ^^^ (a / 2 ^ 26 % 32) ^^^
  (a / 2 ^ 31 % 32) ^^^ (a / 2 ^ 36 % 32) ^^^ (a / 2 ^ 41 % 32) ^^^ (a / 2 ^ 46 % 4)

/-- Die of the home slice of an HBM address of a device. -/
def hbmDie (d pa : Nat) : Nat := d * 4 + pa / 0x2400000000

/-- The rind entry of a line key in a slice. -/
def State.findRind (s : State) (slice line : Nat) : Option Rind :=
  s.rind.find? fun r => r.slice == slice && r.line == line

/-- The 8 bytes of a table entry as the walker reads them at the entry's home slice (R333). -/
def State.walkRead (s : State) (d pa : Nat) : Word :=
  let key := physKey d pa
  match s.findRind (hbmDie d pa * 32 + sliceOf pa) (key / 64) with
  | some r => ((rindData s.paste r) >>> (8 * (key % 64))).setWidth 64
  | none => wordOf (leNat (memRead s.mem key 8))

/-- A cluster that is fenced (R385). -/
def State.fencedCluster (s : State) (c : Nat) : Bool := (s.cluster c).service == .fenced

def State.fencedPa (s : State) (d pa : Nat) : Bool := pa < hbmEnd && s.fencedCluster (d * 128 + hbmCluster pa)

/-- What a walk finds (R329, R331, R335): the leaf and its level, or the cause and the level at which it stopped. -/
inductive Walk
  | leaf (w : Word) (level : Nat)
  | fail (c : Cause) (level : Nat) (w : Word)
  deriving DecidableEq, Repr

/-- A pointer entry that R331 accepts: only V and FRAME, and a table in package HBM. -/
def pointerOk (w : Word) : Bool :=
  leafV w && !leafLf w && (w &&& 0xFFFC00000003FFFE) == 0 && leafFrame w * 2 ^ 16 < hbmEnd

/-- Bytes that a leaf's frame or backing range covers (R277, R329). -/
def leafBytes (w : Word) (level : Nat) : Nat :=
  if leafKind w = 4 then 0x4000000 else if level = 2 then 0x20000000 else 0x10000

/-- The physical space of a frame is backed (R20, R21, R331). -/
def State.frameBacked (s : State) (d : Nat) (w : Word) (level : Nat) : Bool :=
  let pa := leafFrame w * 2 ^ 16
  let len := leafBytes w level
  if leafKind w = 4 then s.hbmBacked d pa len
  else s.hbmBacked d pa len || (isHostPa pa && pa + len ≤ 0xC00000000000) || (isMgmtPa pa && pa + len ≤ 0x1000000000000)

/-- OWNR agrees with the frame (R332). -/
def ownerOk (w : Word) : Bool :=
  let pa := leafFrame w * 2 ^ 16
  let o := leafOwner w
  if leafKind w ≥ 3 then o == 0xFF && !isMgmtPa pa
  else if pa < hbmEnd then o == hbmCluster pa
  else if isHostPa pa then o == 0xFE || o < 128
  else o == 0xFE

/-- The TRANSLATION conditions of R331 on a leaf. -/
def State.leafOk (s : State) (d : Nat) (own : Bool) (w : Word) (level : Nat) : Bool :=
  (w &&& 0xFFC) == 0 && leafKind w ≤ 4 && !(leafW w && !own) &&
  (level == 3 || (leafFrame w % 2 ^ 13 == 0 && leafKind w != 4)) &&
  (leafKind w != 4 || leafFrame w % 2 ^ 10 == 0) && s.frameBacked d w level && ownerOk w

/-- OWN_VIEW: the whole frame lies in the cluster's backed range, or is a host frame that the cluster owns (R331). -/
def ownViewOk (pcl : Nat) (w : Word) (_level : Nat) : Bool :=
  let pa := leafFrame w * 2 ^ 16
  (pa < hbmEnd && hbmCluster pa == pcl) || (isHostPa pa && leafOwner w == pcl)

/-- The leaf checks up to and including OWN_VIEW (R331, R333). -/
def State.leafResult (s : State) (d c : Nat) (own : Bool) (w : Word) (level : Nat) : Walk :=
  if !s.leafOk d own w level then .fail .translation level w
  else if own && !ownViewOk (c % 128) w level then .fail .ownView level w
  else .leaf w level

/-- The walk of R329 for cluster c, from the root of a level-1 table. -/
def State.walk (s : State) (c : Nat) (own : Bool) (root va : Nat) : Walk :=
  let d := c / 128
  let p1 := root + 8 * (va / 2 ^ 42 % 2 ^ 12)
  if root ≥ hbmEnd then .fail .translation 1 0
  else if s.fencedPa d p1 then .fail .homeFenced 1 0
  else
    let e1 := s.walkRead d p1
    if !pointerOk e1 then .fail .translation 1 e1
    else
      let p2 := leafFrame e1 * 2 ^ 16 + 8 * (va / 2 ^ 29 % 2 ^ 13)
      if s.fencedPa d p2 then .fail .homeFenced 2 0
      else
        let e2 := s.walkRead d p2
        if leafV e2 && leafLf e2 then s.leafResult d c own e2 2
        else if !pointerOk e2 then .fail .translation 2 e2
        else
          let p3 := leafFrame e2 * 2 ^ 16 + 8 * (va / 2 ^ 16 % 2 ^ 13)
          if s.fencedPa d p3 then .fail .homeFenced 3 0
          else
            let e3 := s.walkRead d p3
            if leafV e3 && leafLf e3 then s.leafResult d c own e3 3 else .fail .translation 3 e3

/-! ### TLBs (R333) -/

/-- Tag of a translation: the context number of the cluster, or the package cluster (R333). -/
def State.tlbTag (s : State) (c : Nat) (own : Bool) : Nat :=
  if own then c % 128 else ((s.cluster c).ctxReg.extractLsb' 0 16).toNat

/-- A cached leaf for an address, in the core's, the cluster's or the die's TLB. -/
def State.tlbFind (s : State) (t va : Nat) (own : Bool) : Option Tlb :=
  let c := clusterOf t
  let tag := s.tlbTag c own
  s.tlb.find? fun e =>
    e.own == own && e.tag == tag && (if e.big then e.vpage == va / 2 ^ 29 else e.vpage == va / 2 ^ 16) &&
    ((e.level == 0 && e.unit == coreOf t) || (e.level == 1 && e.unit == c) || (e.level == 2 && e.unit == dieOf t))

/-- A leaf is cached in the TLBs of the core, the cluster and, for a context's table, the die: `tlbinv.own.cl` reaches no
TLB of a die (R334). The model keeps it until `tlbinv` (log 12). -/
def State.tlbFill (s : State) (t va : Nat) (own : Bool) (w : Word) (level : Nat) : State :=
  let c := clusterOf t
  let tag := s.tlbTag c own
  let mk (l u : Nat) : Tlb := ⟨l, u, own, tag, if level = 2 then va / 2 ^ 29 else va / 2 ^ 16, level == 2, w⟩
  { s with tlb := s.tlb ++ [mk 0 (coreOf t), mk 1 c] ++ if own then [] else [mk 2 (dieOf t)] }

/-- Kinds of access for permission (R29, R331). The reduction-slot writes are neither read-class nor store-class. -/
inductive Access | read | store | atomic | slotRead | slotWrite
  deriving DecidableEq, Repr

/-- Atomics and reduction-slot accesses, which R272 checks. -/
def Access.memSide : Access → Bool
  | .read | .store => false
  | _ => true

/-- Translation of an address in OWN or GLOBAL (R329 to R331): the leaf, its level and the state with TLBs filled. -/
def State.translate (s : State) (t : Nat) (va : Nat) (own : Bool) : Except Cause (Word × Nat × State) :=
  match s.tlbFind t va own with
  | some e => .ok (e.leaf, if e.big then 2 else 3, s)
  | none =>
    let cl := s.cluster (clusterOf t)
    match s.walk (clusterOf t) own (if own then cl.ownroot.toNat else cl.ptroot.toNat) va with
    | .leaf w level => .ok (w, level, s.tlbFill t va own w level)
    | .fail c _ _ => .error c

/-- HOME_FENCED and PERMISSION on each use of a leaf (R331). -/
def State.leafUse (s : State) (t : Nat) (own : Bool) (w : Word) (acc : Access) : Option Cause :=
  let d := deviceOf t
  if s.fencedPa d (leafFrame w * 2 ^ 16) then some .homeFenced
  else if leafPart w ≠ (s.cluster (clusterOf t)).part.toNat then some .permission
  else match acc with
    | .read | .slotRead => if leafRd w then none else some .permission
    | .slotWrite => none
    | .store => if own && !leafW w then some .permission else none
    | .atomic => if !leafRd w || (own && !leafW w) then some .permission else none

/-- Where an access lands. -/
structure Target where
  /-- Memory key of the first byte, after swizzle. -/
  key  : Nat
  win  : Window
  /-- The leaf of a translated access. -/
  leaf : Option Word
  /-- Home cluster; 0x40000 for a host page of the host, 0x40001 for the management range. -/
  home : Nat
  deriving DecidableEq, Repr

/-- Page kind of a target: RC for the windows without pages (R220). -/
def Target.kind (g : Target) : Nat := match g.leaf with | some w => leafKind w | none => 0

def hostHome : Nat := 0x40000
def mgmtHome : Nat := 0x40001

/-- Home of a translated frame (R219). -/
def leafHome (d : Nat) (w : Word) : Nat :=
  let pa := leafFrame w * 2 ^ 16
  if pa < hbmEnd then d * 128 + hbmCluster pa
  else if isHostPa pa then (if leafOwner w < 128 then d * 128 + leafOwner w else hostHome)
  else mgmtHome

/-- A cluster or its die that is out of service (R11, R385). -/
def State.outOfService (s : State) (c : Nat) : Bool := (s.cluster c).service == .offline

/-- A core removed from service (R11, R17). -/
def State.coreOut (s : State) (k : Nat) : Bool := (s.cluster (k / 8)).coresOut.getLsbD (k % 8)

/-- A scratchpad or the lane slices of a core removed from service, which are gone with it (R17). -/
def State.unitOut (s : State) (c unit : Nat) : Bool := (unit < 8 || 16 ≤ unit) && s.coreOut (c * 8 + unit % 8)

/-- The device is a member of the pod that the issuer's routing table reaches (R25, R366). -/
def State.member (s : State) (d e : Nat) : Bool :=
  let dv := s.device d
  dv.members.contains e && (d == e || ((tget dv.routing e).getD 0).getLsbD 7)

/-- Device whose home map the issuer uses: its own. -/
def State.podCheck (s : State) (t va n : Nat) : Option Cause :=
  let unit := va / 2 ^ 26 % 32
  let ofs := va % 2 ^ 26
  let c := va % 2 ^ 49 / 2 ^ 31
  if unitSize unit = 0 ∨ ofs + n > unitSize unit ∨ va / 2 ^ 49 % 32 ≠ 0 then some .unmapped
  else if !s.member (deviceOf t) (c / 128) || s.outOfService c || s.unitOut c unit then some .unmapped
  else if s.fencedCluster c then some .homeFenced
  else if (s.cluster c).part ≠ (s.cluster (clusterOf t)).part then some .permission
  else none

/-- Steps 1 to 4 of R29 for an access of n bytes (0 for a length of 0). A POD access is bounded by its unit, which
R25 checks at step 5, and never by the window. -/
def windowCheck (va n align : Nat) (acc : Access) (storeClass : Bool) : Except Cause Window :=
  match windowOf va with
  | none => .error .unmapped
  | some w =>
    if w ≠ .pod ∧ n ≠ 0 ∧ va + n > w.limit then .error .windowSpan
    else if storeClass && !w.storable then .error .notOwner
    else if acc.memSide && w == .pod then .error .notOwner
    else if acc.memSide && w == .lane then .error .pageKind
    else if va % align ≠ 0 then .error .align
    else .ok w

/-- Steps 1 to 4 of R29 for a range of n bytes, which must lie within one window, the POD window among them (R26, R213, R248,
R285, R292). -/
def spanCheck (va n align : Nat) (acc : Access) (storeClass : Bool) : Except Cause Window :=
  if windowOf va = some .pod ∧ n ≠ 0 ∧ va + n > Window.pod.limit then .error .windowSpan
  else windowCheck va n align acc storeClass

/-- Step 5 of R29 and the place reached, for an access of at most 8 aligned bytes or one within a page. -/
def State.place (s : State) (t va n sw : Nat) (w : Window) (acc : Access) : Except Cause (Target × State) :=
  let c := clusterOf t
  let k := t / 8 % 8
  let b := swizzle sw w va
  match w with
  | .lane => .ok (⟨sramKey c (16 + k) b, w, none, c⟩, s)
  | .core => .ok (⟨sramKey c k (b - 0x100000), w, none, c⟩, s)
  | .clus => .ok (⟨sramKey c 8 (b - 0x200000), w, none, c⟩, s)
  | .cave => .ok (⟨sramKey c 9 (b - 0x400000), w, none, c⟩, s)
  | .pod =>
    match s.podCheck t va n with
    | some x => .error x
    | none => .ok (⟨va, w, none, va % 2 ^ 49 / 2 ^ 31⟩, s)
  | .own | .global =>
    let own := w == .own
    match s.translate t (va % 2 ^ 54) own with
    | .error x => .error x
    | .ok (leaf, level, s') =>
      match s'.leafUse t own leaf acc with
      | some x => .error x
      | none =>
        let ofs := if level = 2 then va % 2 ^ 29 else va % 2 ^ 16
        .ok (⟨physKey (deviceOf t) (leafFrame leaf * 2 ^ 16 + (if leafKind leaf = 4 then ofs / 8 * 8192 else ofs)), w,
          some leaf, leafHome (deviceOf t) leaf⟩, s')

/-- All the checks of R29 for one access of at most 8 aligned bytes. -/
def State.resolve (s : State) (t : Nat) (va : Word) (n align sw : Nat) (acc : Access) (storeClass : Bool) :
    Except Stop (Target × State) :=
  match windowCheck va.toNat n align acc storeClass with
  | .error c => .error (.at c va)
  | .ok w =>
    match s.place t va.toNat n sw w acc with
    | .error c => .error (.at c va)
    | .ok r => .ok r

end Sys2Proof.Machine
end

