-- ==== Sys2Proof/Machine/Net.lean ====
section
/-! DEFINITION. Links between dies and devices (R354 to R373): the fabric graph, the legs of a packet's path, permits, keys,
replay buffers, packets at their source, and requests of strands and engines with their answers (R4, R194, R356). -/

namespace Sys2Proof.Machine

/-! ### The fabric graph (R362 to R364) -/

/-- The primitive element of a pod's prime (R363). -/
def podRoot (q : Nat) : Nat :=
  if q = 7 ∨ q = 17 then 3 else if q = 23 then 5 else 2

/-- Exponents of the sets X (half 0) and X′ (half 1) of R362. -/
def podExponents (q half : Nat) : List Nat :=
  if q % 4 = 1 then (List.range ((q - 1) / 2)).map (2 * · + half)
  else
    let w := (q + 1) / 4
    if half = 0 then (List.range w).map (2 * ·) ++ (List.range w).map (2 * · + (2 * w - 1))
    else 0 :: ((List.range w).map (2 * · + 1) ++ (List.range (w - 1)).map (2 * · + 2 * w))

/-- Elements of X or X′ in ascending order of value. -/
def podSet (q half : Nat) : List Nat :=
  let vs := (podExponents q half).map fun e => podRoot q ^ e % q
  (List.range q).filter fun v => vs.contains v

/-- Device joined to a port of a device (R364); none for a port that is not connected. -/
def podNeighbour (q d p : Nat) : Option Nat :=
  if q = 0 then none
  else
    let h := (podSet q 0).length
    let half := d / (q * q)
    let x := d / q % q
    let y := d % q
    if p < h then (podSet q half)[p]?.map fun e => half * q * q + x * q + (y + e) % q
    else if p < h + q then
      let m := p - h
      if half = 0 then some (q * q + m * q + (y + q * q - m * x) % q) else some (m * q + (m * x + y) % q)
    else none

/-- Links of a shortest path between two devices of a pod: the graph has diameter 2 (R362). -/
def podDistance (q d e : Nat) : Nat :=
  if d = e then 0 else if (List.range 36).any fun p => podNeighbour q d p == some e then 1 else 2

/-! ### Link directions (R355, R357, R373) -/

/-- The directions of a die's boundary: out of it and into it. What joins a boundary to the fabric ports of its device is no link
direction of its own (log 66). -/
def outLink (die : Nat) : Nat := 2 * die
def inLink (die : Nat) : Nat := 2 * die + 1
/-- A fabric port. -/
def portLink (d p : Nat) : Nat := 2 ^ 20 + d * 36 + p
def isPort (l : Nat) : Bool := decide (2 ^ 20 ≤ l)
def portDevice (l : Nat) : Nat := (l - 2 ^ 20) / 36
def portNumber (l : Nat) : Nat := (l - 2 ^ 20) % 36

/-- Device at the receiving end of a link direction. -/
def State.linkDevice (s : State) (l : Nat) : Nat :=
  if isPort l then (podNeighbour (s.device (portDevice l)).podQ (portDevice l) (portNumber l)).getD (portDevice l) else l / 8

/-- The entry of the LIVE circuit from one die to another that carries a class; of several, the lowest (R359). -/
def State.circuitLive (s : State) (src dst cls : Nat) : Option Nat :=
  ((s.device (src / 4)).circuits.find? fun p =>
    p.1 / 64 == src % 4 && p.2.state == .live && p.2.src.toNat == src % 4 && p.2.dst.toNat == dst % 4 &&
    p.2.tcls.getLsbD cls).map (·.1)

/-- The circuit on which a class leaves a die for another die of its package: the direct one, or that to the lowest-numbered die
from which a second one goes on (R359). -/
def State.circuitFrom (s : State) (src dst cls : Nat) : Option Nat :=
  match s.circuitLive src dst cls with
  | some n => some n
  | none =>
    let base := src / 4 * 4
    ([base, base + 1, base + 2, base + 3].find? fun m =>
      m != src && m != dst && (s.circuitLive src m cls).isSome && (s.circuitLive m dst cls).isSome).bind fun m =>
      s.circuitLive src m cls

/-- First port of a minimal path to a device, where the routing table has one (R365). -/
def State.minPort (s : State) (d e : Nat) : Option Nat :=
  let w := (tget (s.device d).routing e).getD 0
  if w.getLsbD 7 then some (w.extractLsb' 0 6).toNat else none

/-- Mode of a port (R371). -/
def State.portMode (s : State) (d p : Nat) : Nat := ((tget (s.device d).ports p).getD Port.zero).mode

/-- The port on which traffic leaves a device for another; a DOWN port carries nothing (R371). -/
def State.portTo (s : State) (d e : Nat) : Option Nat := (s.minPort d e).filter fun p => decide (s.portMode d p ≠ 4)

/-- Ports from a device to another, as the routing tables lead, within n links (R365, R366). -/
def State.portRoute (s : State) (d e : Nat) : Nat → Option (List Nat)
  | 0 => if d = e then some [] else none
  | n + 1 =>
    if d = e then some []
    else match s.portTo d e with
      | none => none
      | some p =>
        (match podNeighbour (s.device d).podQ d p with
        | none => none
        | some m => (s.portRoute m e n).map (portLink d p :: ·))

/-- Some path leads from a die to another (R359, R366). -/
def State.reaches (s : State) (src dst cls : Nat) : Bool :=
  if src / 4 = dst / 4 then src == dst || (s.circuitFrom src dst cls).isSome
  else (s.portRoute (src / 4) (dst / 4) 4).isSome

/-! ### Permits (R355) -/

/-- Permits a class holds of a link direction. -/
def State.held (s : State) (link cls : Nat) : Nat := (tget ((tget s.pools link).getD ⟨[]⟩).held cls).getD 0

/-- Shared permits in use on a link direction (R355). -/
def State.sharedUsed (s : State) (link : Nat) : Nat := ((List.range 6).map fun c => s.held link c - 128).sum

/-- Whether f permits can be granted: first the class's 128 reserved, then at most 640 of the 1,280 shared (R355). -/
def State.canGrant (s : State) (link cls f : Nat) : Bool :=
  let h := s.held link cls
  let shared := (h + f - 128) - (h - 128)
  decide (h + f - 128 ≤ 640) && decide (s.sharedUsed link + shared ≤ 1280)

def State.setHeld (s : State) (link cls n : Nat) : State :=
  let p := (tget s.pools link).getD ⟨[]⟩
  { s with pools := tset s.pools link ⟨tset p.held cls n⟩ }

def State.grant (s : State) (link cls f : Nat) : State := s.setHeld link cls (s.held link cls + f)
def State.ungrant (s : State) (link cls f : Nat) : State := s.setHeld link cls (s.held link cls - f)

/-! ### Keys of the fabric (R383) -/

/-- The key of a port and a partition. -/
def State.portKey (s : State) (l part : Nat) : Option FabricKey :=
  tget (s.device (portDevice l)).fabKeys (portNumber l * 64 + part)

/-- Packets that a port has sent for a partition, its GCM nonce. -/
def State.portSent (s : State) (l part : Nat) : Nat :=
  (tget (s.device (portDevice l)).fabSent (portNumber l * 64 + part)).getD 0

/-- A packet of a partition may take a fabric port only with a live key there, which serves fewer than 2^48 packets. -/
def State.keyed (s : State) (l part : Nat) : Bool :=
  !isPort l || (s.portKey l part).any fun k => k.live && decide (s.portSent l part < k.start + 2 ^ 48)

/-- Generation of the key under which a packet takes a link direction. -/
def State.keyNow (s : State) (l part : Nat) : Nat := if isPort l then ((s.portKey l part).map (·.gen)).getD 0 else 0

/-- The packet count of a port advances. -/
def State.countSent (s : State) (l part : Nat) : State :=
  if isPort l then
    s.updDevice (portDevice l) fun d => { d with fabSent := tset d.fabSent (portNumber l * 64 + part) (s.portSent l part + 1) }
  else s

/-- The receiver of a port accepts a packet's key: the one in use, or the one before while it accepts both. -/
def State.keyTaken (s : State) (l part key : Nat) : Bool :=
  !isPort l || (s.portKey l part).any fun k => k.live && (k.gen == key || (k.gen == key + 1 && decide (0 < k.both)))

/-- A packet has been received on a port: the receiver accepts both keys for one packet fewer. -/
def State.countTaken (s : State) (l part : Nat) : State :=
  if isPort l then
    let k := portNumber l * 64 + part
    s.updDevice (portDevice l) fun d =>
      { d with fabKeys := d.fabKeys.map fun p => if p.1 = k then (p.1, { p.2 with both := p.2.both - 1 }) else p }
  else s

/-! ### Packets and their flits (R367, R368) -/

def State.packet (s : State) (n : Nat) : Option Packet := s.packets.find? fun p => p.id == n
def State.setPacket (s : State) (p : Packet) : State :=
  { s with packets := s.packets.map fun q => if q.id = p.id then p else q }
def State.dropPacket (s : State) (n : Nat) : State := { s with packets := s.packets.filter fun q => q.id != n }

/-- Bits [47:0] of the routing fields. -/
def Packet.fields (p : Packet) : BitVec 48 :=
  BitVec.ofNat 11 (p.dst / 4) ++ BitVec.ofNat 11 (p.src / 4) ++ BitVec.ofNat 11 p.idev ++ BitVec.ofNat 2 p.hop ++
  BitVec.ofNat 3 p.cls ++ BitVec.ofNat 3 (p.flits - 1) ++ BitVec.ofNat 6 p.part ++ (0 : BitVec 1)

/-- The routing fields, which a device checks before it forwards the packet (R367, R369); the check's function is not given
(log 9). -/
def Packet.routing (p : Packet) : Word := Config.routeCheck p.fields ++ p.fields

/-- The packet CRC and the authentication tag with which the last flit ends. -/
def Packet.crc (p : Packet) : BitVec 32 := Config.packetCrc p.routing p.gen p.seq
def Packet.tag (p : Packet) : Nat := Config.packetTag p.key p.routing p.seq

/-- The end markers of a packet's flits: more follow, then a good or a bad end. -/
def Packet.marks (p : Packet) : List (BitVec 2) := List.replicate (p.flits - 1) 0 ++ [if p.bad then 2 else 1]

def State.linkBuf (s : State) (l : Nat) : LinkBuf := (tget s.links l).getD ⟨0, []⟩

/-- A packet's flits enter a link direction, each with the next link sequence number (R367, R368). -/
def State.sendFlits (s : State) (p : Packet) (l : Nat) : State :=
  let put (b : LinkBuf) (m : BitVec 2 × Nat) : LinkBuf :=
    ⟨b.next + 1, b.flits ++ [⟨b.next, p.id, m.1, Config.linkCrc p.routing m.2, 0⟩]⟩
  { s with links := tset s.links l (p.marks.zipIdx.foldl put (s.linkBuf l)) }

/-- A packet's flits have left the receiving buffer: the replay buffer holds them no longer. -/
def State.dropFlits (s : State) (n l : Nat) : State :=
  { s with links := tset s.links l { s.linkBuf l with flits := (s.linkBuf l).flits.filter fun f => f.packet != n } }

/-- The receiver of a link direction has found a link CRC error or a gap at a number: the sender sends that flit and every later
one again, in order (R368). -/
def State.replayFlits (s : State) (l : Nat) (num : BitVec 12) : State :=
  let b := s.linkBuf l
  let kept := b.flits.takeWhile (·.num != num)
  { s with links := tset s.links l { b with
      flits := kept ++ (b.flits.drop kept.length).map fun f => { f with again := f.again + 1 } } }

/-- A packet is no longer on its link direction: its permits return (R355). -/
def State.quitLink (s : State) (p : Packet) : State :=
  match p.link with
  | none => s
  | some l => (s.ungrant l p.cls p.flits).dropFlits p.id l

/-- A packet leaves the link direction on which it is, and the receiver has taken it. -/
def State.leaveLink (s : State) (p : Packet) : State :=
  match p.link with
  | none => s
  | some l => (s.quitLink p).countTaken l p.part

/-- A link direction can take a packet: permits, and a key on a port. -/
def State.takes (s : State) (l cls flits part : Nat) : Bool := s.canGrant l cls flits && s.keyed l part

/-- A packet enters a link direction, on a circuit where it leaves a die for another of its package. -/
def State.enterLink (s : State) (p : Packet) (l : Nat) (circ : Option Nat) : State :=
  let s := s.leaveLink p
  let hop := if isPort l then (p.hop + 1) % 4 else p.hop
  let p := { p with link := some l, circ := circ, hop := hop, key := s.keyNow l p.part }
  (((s.grant l p.cls p.flits).countSent l p.part).sendFlits p l).setPacket p

/-- The device for which a packet makes at a device: its intermediate until it has been there (R366). -/
def Packet.aim (p : Packet) (e : Nat) : Nat := if p.via || e == p.idev then p.dst / 4 else p.idev

/-- The leg on which a packet leaves a die: its boundary, on a circuit for another die of the package (R359, R373). -/
def State.legFrom (s : State) (die : Nat) (p : Packet) : Option (Nat × Option Nat) :=
  if die / 4 = p.dst / 4 then (s.circuitFrom die p.dst p.cls).map fun n => (outLink die, some n)
  else some (outLink die, none)

/-- The leg on which it leaves a device by a port, or enters its destination's boundary. -/
def State.legAt (s : State) (e : Nat) (p : Packet) : Option (Nat × Option Nat) :=
  if e = p.dst / 4 ∧ p.aim e = e then some (inLink p.dst, none) else (s.portTo e (p.aim e)).map fun n => (portLink e n, none)

/-- The next leg of a packet; none while no circuit or port carries it. A packet on a circuit goes to that circuit's die,
whatever the table holds by then (R359). -/
def State.nextLeg (s : State) (p : Packet) : Option (Nat × Option Nat) :=
  match p.link with
  | none => s.legFrom p.src p
  | some l =>
    if isPort l then s.legAt (s.linkDevice l) p
    else if l % 2 = 1 then s.legFrom (l / 2) p
    else match p.circ with
      | some n =>
        some (inLink (l / 8 * 4 + (((tget (s.device (l / 8)).circuits n).map (·.dst.toNat)).getD 0)), none)
      | none => s.legAt (l / 8) p

/-- Whether a packet's link ends at its destination. -/
def Packet.atEnd (p : Packet) : Bool := p.link == some (inLink p.dst)

/-- The packet passes its intermediate device at the end of its link. -/
def State.passes (s : State) (p : Packet) : Bool := p.via || p.link.any fun l => isPort l && s.linkDevice l == p.idev

/-! ### Bounds (R4, R359, R360, R366, R370, R371) -/

/-- The bound of R4 of a request in cycles of its own device, whatever the clock (R5). The table of R4 has no row for the
placement of a watch, `unwatch`, `cinc`, an atomic or a remote `ldsync`: DESIGN CHOICE (log 89), a class-2 request has the
bound of a watch answer and a class-0 request that of a load, and the limit of R370 follows from it. -/
def baseBound (far : Bool) (cls : Nat) : Nat :=
  if cls = 0 then (if far then 6000 else 1000) else if far then 8000 else 2000

/-- Bound factor of a port's mode (R371). -/
def modeFactor (m : Nat) : Nat := if m = 0 then 1 else if m = 1 then 2 else if m = 2 then 4 else 8

/-- The largest factor of a list of ports. -/
def State.portsFactor (s : State) (l : List Nat) : Nat :=
  l.foldl (fun a l => max a (modeFactor (s.portMode (portDevice l) (portNumber l)))) 1

/-- Factor 2 while the path now in the tables is longer than a direct circuit or than a minimal path (R359, R366). -/
def State.detour (s : State) (src dst cls : Nat) : Nat :=
  let long := if src / 4 = dst / 4 then (s.circuitLive src dst cls).isNone
    else (s.portRoute (src / 4) (dst / 4) 4).any fun l =>
      decide (podDistance (s.device (src / 4)).podQ (src / 4) (dst / 4) < l.length)
  if long then 2 else 1

/-- The bound that applies to a request now: detour, bounce, and the most degraded port of its path, through the intermediate
device of its packet if it has one. -/
def State.boundOf (s : State) (src dst cls bounces : Nat) (packet : Option Nat) : Nat :=
  let d := src / 4
  let e := dst / 4
  let mid := ((packet.bind s.packet).map (·.idev)).getD e
  let ports := ((s.portRoute d mid 4).getD []) ++ (s.portRoute mid e 4).getD []
  baseBound (d != e) cls * s.detour src dst cls * (if bounces = 0 then 1 else 2) * s.portsFactor ports

/-- The packet of a request that is on its way. -/
def Flight.packet? (f : Flight) : Option Nat :=
  match f.phase with
  | .travelling n => some n
  | _ => none

def State.boundNow (s : State) (t : Nat) (f : Flight) : Nat := s.boundOf (dieOf t) f.die f.cls f.bounces f.packet?

/-- A request from a die, with the largest bound that it has had until now. -/
def State.noteFar (s : State) (src : Nat) (packet : Option Nat) (f : Far) : Far :=
  { f with bound := max f.bound (s.boundOf src f.die f.cls f.bounces packet) }

def State.noteNet (s : State) (src : Nat) : Net → Net
  | .sent f => .sent (s.noteFar src (some f.packet) f)
  | n => n

/-- The largest bound each request has had, taken again after a change of a factor (R370). -/
def State.noteBounds (s : State) : State :=
  let note (t : Nat) (st : Strand) : Strand :=
    { st with flight := st.flight.map fun f => { f with bound := max f.bound (s.boundNow t f) }
              pend := st.pend.map fun o => { o with far := o.far.map (s.noteFar (dieOf t) none) } }
  let cl (p : Nat × Cluster) : Nat × Cluster := (p.1, { p.2 with
    copyQ := p.2.copyQ.map fun j => { j with net := s.noteNet (p.1 / 32) j.net }
    regions := p.2.regions.map fun r => (r.1, { r.2 with net := s.noteNet (p.1 / 32) r.2.net })
    actions := p.2.actions.map fun a => { a with net := s.noteNet (p.1 / 32) a.net } })
  { s with threads := s.threads.map fun p => (p.1, { p.2 with a := note p.1 p.2.a, x := note p.1 p.2.x })
           clusters := s.clusters.map cl, answers := s.answers.map fun a => { a with net := s.noteNet a.die a.net } }

/-! ### Tables with generations (R360) -/

/-- The generation under which the units of a device steer: the new one from the start of a table fence (R360, R361). -/
def State.steerGen (s : State) (d : Nat) : BitVec 8 :=
  if (s.device d).fenceBusy then (s.device d).tableNext else (s.device d).tableGen

/-! ### Packets at their source (R354, R356, R366, R370) -/

/-- A time on the device since its reset, in units that no change of the clock alters (R5). -/
def State.elapsedOf (s : State) (d : Nat) : Nat := (s.device d).elapsed

/-- 50 ns in those units (R356). -/
def grantLimit : Nat := 50 * timeScale

/-- Key of the sequence numbers of a packet: source, destination, class; devices for traffic of the fabric (R354, R367). -/
def flowKey (src dst cls : Nat) : Nat :=
  (if src / 4 = dst / 4 then (src * 8192 + dst) * 2 else (src / 4 * 8192 + dst / 4) * 2 + 1) * 8 + cls

/-- Members whose entries have V = 1 (R366). -/
def State.reachable (s : State) (d : Nat) : List Nat :=
  (s.device d).members.filter fun e => e != d && (s.portTo d e).isSome

/-- The intermediate device of a new packet (R366): a random member when the class holds more than 320 shared permits
at the minimal first port, else the destination. -/
def State.intermediate (s : State) (d e cls : Nat) : Nat :=
  if d = e then e
  else match s.portTo d e with
    | none => e
    | some p =>
      let ms := s.reachable d
      if s.held (portLink d p) cls - 128 > 320 ∧ ms ≠ [] then (ms[Config.midDevice s.free % ms.length]?).getD e else e

/-- Payload flits of an answer to a strand: a line, a vector, a word, or none. -/
def Reply.payload : Reply → Nat
  | .access => 1
  | .done ws => if ws.any fun w => match w with | .v .. | .push .. => true | _ => false then 4 else if ws.isEmpty then 0 else 1
  | .next _ (.redeemed _ _ _ span _) => span
  | .refused | .bounced | .trap _ | .next .. => 0

/-- Flits of a packet: its header, and what it carries: a message or a watch answer is one flit, a line of a bulk copy or a fill
one, a word one (R367; log 66). -/
def Cargo.flits (cls : Nat) : Cargo → Nat
  | .reply _ _ r => 1 + r.payload
  | .result .. => 2
  | .fill _ => 2
  | .tell _ _ .granted => if cls = 4 then 2 else 1
  | .request .. | .ask _ => if cls = 3 ∨ cls = 2 then 2 else 1
  | _ => 1

/-- A packet formed at its source (R354, R360, R366): its class, sequence number and generation are fixed. -/
def State.form (s : State) (src dst cls part : Nat) (gen : BitVec 8) (cargo : Cargo) : Packet × State :=
  let k := flowKey src dst cls
  let seq := (tget s.seqs k).getD 0
  let mid := s.intermediate (src / 4) (dst / 4) cls
  let p : Packet :=
    { id := s.nextId, src := src, dst := dst, cls := cls, flits := cargo.flits cls, seq := seq, part := part, gen := gen
      idev := mid, via := mid == dst / 4, hop := 0, circ := none, link := none, key := 0, cargo := cargo, bad := false
      copy := .moving, taken := false, sent := s.cycleOf (src / 4) }
  (p, { s with packets := s.packets ++ [p], nextId := s.nextId + 1, free := s.free + 1, seqs := tset s.seqs k ((seq + 1) % 65536) })

/-- An answer or data, which needs no admission, waits at its source for its first link direction (R356). -/
def State.post (s : State) (src dst cls part : Nat) (cargo : Cargo) : Nat × State :=
  let r := s.form src dst cls part (s.steerGen (src / 4)) cargo
  (r.1.id, r.2)

/-- What a request meets at its first link direction (R356). -/
inductive Admit
  | granted (packet : Nat) (s : State)
  | waits
  | refused
  /-- The routing table has no port to the device (R366). -/
  | unmapped

/-- A request at its first link direction since a time: admitted as a packet when that direction grants its permits; refused
after 50 ns, without a path (R359), and for a partition without a key on the port that the packet takes first (R383). -/
def State.admitAt (s : State) (src dst cls part since : Nat) (gen : BitVec 8) (cargo : Cargo) : Admit :=
  let d := src / 4
  let e := dst / 4
  let port := if d = e then none else s.portTo d (s.intermediate d e cls)
  if d ≠ e ∧ (s.minPort d e).isNone then .unmapped
  else if since + grantLimit < s.elapsedOf d || !s.reaches src dst cls || port.any fun p => !s.keyed (portLink d p) part then
    .refused
  else if s.canGrant (outLink src) cls (cargo.flits cls) then
    let r := s.form src dst cls part gen cargo
    (match r.2.legFrom src r.1 with
    | some (l, c) => .granted r.1.id (r.2.enterLink r.1 l c)
    | none => .refused)
  else .waits

/-! ### Requests of strands (R4, R194, R356) -/

/-- Whether a request from a thread to a die crosses a die or device boundary. -/
def crossesLink (t die : Nat) : Bool := dieOf t != die

/-- The request that has arrived at its destination. -/
def Flight.here (f : Flight) : Option Req := if f.phase = .arrived then f.req else none

/-- The request is one that the strand itself completes, and its answer has come. -/
def Flight.done (f : Flight) : Bool := f.phase == .arrived && f.req.isNone

/-- What a strand's request does when it is presented: it crosses no link and is at its destination, or it reaches
its first link direction (R356). A request to another die than the strand's last one, which has been granted, starts a new
count of refusals. `%syncretry` is that of the instruction's issue, or of its fetch for the fetch's own requests (R152,
R194). -/
def newFlight (s : State) (t : Nat) (x : Side) (die cls : Nat) (req : Option Req) (fetch : Bool := false) : Flight :=
  let old := (s.strand t x).flight
  let same := old.filter fun f => f.fetch == fetch && f.die == die
  { phase := if crossesLink t die then .atLink (s.elapsedOf (deviceOf t)) else .arrived
    refusals := (same.map (·.refusals)).getD 0
    limit := ((old.filter fun f => f.fetch == fetch).map (·.limit)).getD (s.thread t).syncretry.toNat
    req := req, die := die, cls := cls, fetch := fetch
    granted := (old.map fun f => if same.isNone && f.done then (f.fetch, f.die) :: f.granted else f.granted).getD []
    since := (same.map (·.since)).getD (s.now t), bounces := (same.map (·.bounces)).getD 0
    gen := s.steerGen (deviceOf t), bound := (same.map (·.bound)).getD 0, atomic := none }

/-- The strand's request leaves its core and the strand waits for the answer. -/
def State.present (s : State) (die cls : Nat) (req : Req) : Except Stop State :=
  .error (.waitIn .answer (s.updMy fun st => { st with flight := some (newFlight s s.curT s.curX die cls (some req)) }))

/-- The instruction's request to a die has been granted. -/
def Flight.has (f : Flight) (die : Nat) (fetch : Bool) : Bool :=
  (f.done && f.fetch == fetch && f.die == die) || f.granted.contains (fetch, die)

/-- An access that the strand itself completes: granted when it crosses no link or its request has been answered; else the
request is presented and the strand waits (R39, R194). An instruction's requests to several dies are presented one after
the other, and so is that of its fetch. -/
def State.admitReq (s : State) (die cls : Nat) (fetch : Bool := false) : Except Stop State :=
  if !crossesLink s.curT die || s.my.flight.any (fun f => f.has die fetch) then .ok s
  else .error (.waitIn .answer (s.updMy fun st =>
    { st with flight := some (newFlight s s.curT s.curX die cls none fetch) }))

/-- A change of the flight of a strand. -/
def State.setFlight (s : State) (t : Nat) (x : Side) (f : Flight) : State :=
  s.updStrand t x fun st => { st with flight := some f }

def State.setPhase (s : State) (t : Nat) (x : Side) (p : Phase) : State :=
  s.updStrand t x fun st => { st with flight := st.flight.map fun f => { f with phase := p } }

/-- The instruction goes on with a request to another die, or to its own core, with a fresh count of refusals. -/
def State.nextRequest (s : State) (t : Nat) (x : Side) (die : Nat) (req : Req) : State :=
  s.updStrand t x fun st =>
    { st with flight := st.flight.map fun f => { f with
        phase := if crossesLink t die then .atLink (s.elapsedOf (deviceOf t)) else .arrived
        refusals := 0, req := some req, die := die, since := s.now t, bound := 0, bounces := 0, gen := s.steerGen (deviceOf t) } }

/-- The answer to a strand's request, at the strand. -/
def State.applyReply (s : State) (t : Nat) (x : Side) : Reply → State
  | .access => s.setPhase t x .arrived
  | .done ws => s.finish t x ws
  | .refused => s.setPhase t x .refused
  | .bounced => s.setPhase t x .bounced
  | .trap i => s.raise t x i
  | .next die req => s.nextRequest t x die req

/-- Partition of a thread's cluster. -/
def State.partOf (s : State) (t : Nat) : Nat := (s.cluster (clusterOf t)).part.toNat

/-- A request of strand (t, x) is answered at a die: at once within the strand's own die, else in an RSP packet (R354). The bound of
one that was taken in and waited runs again (R370). -/
def State.reply (s : State) (t : Nat) (x : Side) (die : Nat) (r : Reply) : State :=
  if !crossesLink t die then s.applyReply t x r
  else
    let p := s.post die (dieOf t) 1 (s.partOf t) (.reply t x r)
    p.2.updStrand t x fun st => { st with
      status := .waiting .answer
      flight := st.flight.map fun f => { f with
        phase := .answering p.1, since := if st.status = .waiting .answer then f.since else s.now t } }

/-- The answer to the request for which a strand waits, from the die at which the request is. -/
def State.replyTo (s : State) (t : Nat) (x : Side) (r : Reply) : State :=
  s.reply t x (((s.strand t x).flight.map (·.die)).getD (dieOf t)) r

/-- A request that its destination refuses (R4, R194). -/
def State.refuse (s : State) (t : Nat) (x : Side) : State := s.replyTo t x .refused

/-- The request of a strand that has been accepted as a long operation, where it goes to another die (R370). -/
def State.farOf (s : State) (t : Nat) (f : Flight) : Option Far :=
  if crossesLink t f.die then some ⟨0, f.die, f.cls, f.gen, f.since, max f.bound (s.boundNow t f), f.bounces⟩ else none

/-- A long operation accepted whose results come from another die where `far` says so. -/
def Strand.acceptFar (st : Strand) (la : BitVec 4) (kind : OpKind) (far : Option Far) : Strand :=
  let st' := st.accept la kind false []
  { st' with pend := st'.pend.map fun o => if o.id = st.order then { o with far := far } else o }

/-- A long operation whose results are on their way; the bound of one that waited for its placement runs from now (R50, R370). -/
def LongOp.answered (o : LongOp) (now : Nat) : LongOp :=
  { o with kind := .plain, far := match o.kind with | .spawn .. => o.far.map fun f => { f with since := now } | _ => o.far }

/-- The results of a long operation, known at a die: they reach the strand at once within its own die, else in an RSP packet
(R354). -/
def State.result (s : State) (t : Nat) (x : Side) (die id : Nat) (ws : List RegWrite) (f : Option TrapInfo) : State :=
  if !crossesLink t die then s.answerOp t x id ws f
  else
    let s := s.updStrand t x fun st => { st with pend := st.pend.map fun o => if o.id = id then o.answered (s.now t) else o }
    (s.post die (dieOf t) 1 (s.partOf t) (.result t x id ws f)).2

/-- Packets that a test picks go, with their permits. -/
def State.dropPackets (s : State) (f : Packet → Bool) : State :=
  let s := (s.packets.filter fun p => f p && p.copy == .moving).foldl (fun s p => s.quitLink p) s
  { s with packets := s.packets.filter fun p => !f p }

/-- A packet that answers strand (t, x). -/
def Cargo.answers (t : Nat) (x : Side) : Cargo → Bool
  | .reply u y _ => u == t && y == x
  | .result u y .. => u == t && y == x
  | _ => false

/-- Answers to a strand that have not come are not awaited any more; the packets that carry them go (R354). -/
def State.forgetAnswers (s : State) (t : Nat) (x : Side) : State := s.dropPackets fun p => p.cargo.answers t x

/-- The answer that carries a strand's reply alone is not awaited any more. -/
def State.forgetReply (s : State) (t : Nat) (x : Side) : State :=
  s.dropPackets fun p => match p.cargo with | .reply u y _ => u == t && y == x | _ => false

/-- The results of a strand's long operations that are in packets come at once, as before a strand is stopped (R340). -/
def State.recallResults (s : State) (t : Nat) (x : Side) : State :=
  let mine (p : Packet) : Option (Nat × List RegWrite × Option TrapInfo) := match p.cargo with
    | .result u y id ws f => if u = t ∧ y = x ∧ p.taken = false then some (id, ws, f) else none
    | _ => none
  let l := s.packets.filterMap mine
  let s := s.dropPackets fun p => (mine p).isSome
  l.foldl (fun s r => s.answerOp t x r.1 r.2.1 r.2.2) s

/-- The answer to a strand's request that is in a packet. -/
def State.replyOnWay (s : State) (t : Nat) (x : Side) : Option Reply :=
  s.packets.findSome? fun p => match p.cargo with
    | .reply u y r => if u = t ∧ y = x ∧ p.taken = false then some r else none
    | _ => none

/-! ### Requests of engines (R194, R262, R356) -/

/-- What an engine's request to another die meets. -/
inductive Grant
  | granted
  | waits (n : Net) (s : State)
  | refused
  /-- It ends with the cause: UNMAPPED, PERMISSION, or HOME_FENCED for want of an answer (R366, R370, R372). -/
  | failed (c : Cause) (s : State)

/-- The fabric interface of a device reports a request that it has completed itself (R370). -/
def State.report (s : State) (d : Nat) : State := s.updDevice d fun dv => { dv with unanswered := dv.unanswered + 1 }

/-- A request at its first link direction. -/
def State.askAt (s : State) (src dst cls part : Nat) (o : Owner) (since : Nat) (gen : BitVec 8) (bounces first bound : Nat) : Grant :=
  match s.admitAt src dst cls part since gen (.ask o) with
  | .granted n s' => .waits (.sent (s'.noteFar src (some n) ⟨n, dst, cls, gen, first, bound, bounces⟩)) s'
  | .waits => .waits (.atLink since gen bounces first bound) s
  | .refused => .refused
  | .unmapped => .failed .unmapped s

/-- The request of an engine from a die to another, from where it stands: presented, on its way, or answered (R194, R356, R360,
R370). One within a die is granted at once. -/
def State.ask (s : State) (src dst cls part : Nat) (o : Owner) (n : Net) : Grant :=
  if src = dst then .granted
  else
    let d := src / 4
    let now := s.elapsedOf d
    match n with
    | .idle => s.askAt src dst cls part o now (s.steerGen d) 0 (s.cycleOf d) 0
    | .atLink since gen bounces first bound => s.askAt src dst cls part o since gen bounces first bound
    | .sent f =>
      if f.since + 8 * max f.bound (s.boundOf src dst cls f.bounces (some f.packet)) ≤ s.cycleOf d then
        .failed .homeFenced ((s.dropPackets fun p => p.id == f.packet).report d)
      else .waits n s
    | .told .granted .. => .granted
    | .told .refused .. => .refused
    | .told .bounced bounces first bound => s.askAt src dst cls part o now (s.steerGen (dst / 4)) (bounces + 1) first bound
    | .told .denied .. => .failed .permission s

/-- The request of an engine is told what it met, if it still waits for the answer to the packet. -/
def Net.tell (n : Net) (packet : Nat) (a : Told) : Net :=
  match n with
  | .sent f => if f.packet = packet then .told a f.bounces f.since f.bound else n
  | _ => n

/-- The owner of an engine's request is told. -/
def State.tell (s : State) (o : Owner) (packet : Nat) (a : Told) : State :=
  match o with
  | .job c id => s.updCluster c fun cl =>
      { cl with copyQ := cl.copyQ.map fun j => if j.id = id then { j with net := j.net.tell packet a } else j }
  | .region c n => s.updCluster c fun cl =>
      { cl with regions := cl.regions.map fun p => if p.1 = n then (n, { p.2 with net := p.2.net.tell packet a }) else p }
  | .action c n => s.updCluster c fun cl =>
      { cl with actions := cl.actions.map fun b => if b.entry = n then { b with net := b.net.tell packet a } else b }
  | .answer id =>
      { s with answers := s.answers.map fun b => if b.id = id then { b with net := b.net.tell packet a } else b }

/-- Die that serves a target: its home's, or the reader's own for a page of the host (R219). -/
def targetDie (t : Nat) (g : Target) : Nat := if g.home < hostHome then g.home / 32 else dieOf t

end Sys2Proof.Machine
end

