-- ==== Sys2Proof/Machine/Cache.lean ====
section
/-! DEFINITION. The memory system between a strand and memory: the L2 rind and paste (R309 to R319), write-backs and
replicas (R232, R234), the L1 data caches (R235), stores on their way to SRAM (R235), releases and acquires
(R224 to R233), poison (R384). -/

namespace Sys2Proof.Machine

/-! ### Poison (R384) -/

def State.poisoned (s : State) (key n : Nat) : Bool :=
  s.poison.any fun p => p / 8 * 8 < key + n && key < p / 8 * 8 + 8

/-- A write clears the poison of each SRAM word that it writes whole, and of each 64-byte line elsewhere. -/
def State.clearPoison (s : State) (key n : Nat) : State :=
  let unit := if isSram key then 8 else 64
  { s with poison := s.poison.filter (fun p => !(key ≤ p / unit * unit && p / unit * unit + unit ≤ key + n)) }

def State.setPoison (s : State) (key : Nat) : State := { s with poison := insertKey (wordKey key) s.poison }

/-! ### Rind and paste -/

/-- Whether a paste entry is free. -/
def State.pasteUsed (s : State) (slice idx : Nat) : Bool := s.paste.any fun p => p.slice == slice && p.idx == idx

/-- `Release(x)` of R317: one reference fewer, free at none. -/
def State.releasePaste (s : State) (slice idx : Nat) : State :=
  let drop (p : Paste) : Paste := if p.slice == slice && p.idx == idx then { p with ref := p.ref - 1 } else p
  { s with paste := (s.paste.map drop).filter (fun p => p.ref != 0) }

/-- The paste entry that a rind entry points at, if it points at one. -/
def Rind.pointer (r : Rind) : Option Nat :=
  match r.st with
  | .zero => none
  | _ => some r.pptr

def State.releaseOld (s : State) (slice : Nat) : Option Nat → State
  | none => s
  | some i => s.releasePaste slice i

def State.dropRind (s : State) (slice line : Nat) : State :=
  { s with rind := s.rind.filter (fun r => !(r.slice == slice && r.line == line)) }

/-- Whether the line's paste entry holds uncorrectable data (R318). -/
def State.rindPoisoned (s : State) (r : Rind) : Bool :=
  r.pointer.any fun i => s.paste.any fun p => p.slice == r.slice && p.idx == i && p.psn

/-- The 64 bytes of a line written to its home memory, poisoned when its paste entry is (R318). -/
def State.writeMemLine (s : State) (line : Nat) (data : BitVec 512) (poison : Bool) : State :=
  let s' := { s with mem := memWrite s.mem (line * 64) (leBytes 64 data.toNat) }
  if poison then (List.range 8).foldl (fun s i => s.setPoison (line * 64 + 8 * i)) s'
  else s'.clearPoison (line * 64) 64

/-- An entry is written home if it holds what home does not (R318, R319). -/
def Rind.unwritten (r : Rind) : Bool := r.st == .dirty || (r.st == .zero && r.zd)

def State.cleanRind (s : State) (slice line : Nat) : State :=
  match s.findRind slice line with
  | none => s
  | some r =>
    if r.unwritten then
      let s' := s.writeMemLine line (rindData s.paste r) (s.rindPoisoned r)
      let mark (q : Rind) : Rind :=
        if q.slice == slice && q.line == line then
          { q with st := if q.st == .dirty then .clean else q.st, zd := false, rel := none }
        else q
      { s' with rind := s'.rind.map mark }
    else s

/-- An entry set INVALID: its paste released, its pin cleared with it (R319). -/
def State.invalidRind (s : State) (slice line : Nat) : State :=
  match s.findRind slice line with
  | none => s
  | some r => (s.releaseOld slice r.pointer).dropRind slice line

/-- Eviction: written home if need be, then its paste released (R318). -/
def State.evictRind (s : State) (slice line : Nat) : State := (s.cleanRind slice line).invalidRind slice line

/-- Set of a line within its slice (R310). -/
def rindSet (line : Nat) : Nat := (line * 64 % 2 ^ 48) / 2048 % 6144

/-- The unpinned entry of greatest age in a list. -/
def oldest (l : List Rind) : Option Rind :=
  (l.filter (fun r => !r.pin)).foldl (fun a r => match a with
    | none => some r
    | some q => if q.lru < r.lru then some r else some q) none

/-- Entries of the set of a line. -/
def State.setOf (s : State) (slice line : Nat) : List Rind :=
  s.rind.filter fun r => r.slice == slice && rindSet r.line == rindSet line

/-- Room in the set of a line: the least recently used unpinned entry of a full set leaves (R318). A set of 16 pinned
entries has none. -/
def State.roomInSet (s : State) (slice line : Nat) : State :=
  if (s.setOf slice line).length < 16 then s
  else match oldest (s.setOf slice line) with
    | some r => s.evictRind slice r.line
    | none => s

/-- Unpinned entries are evicted until a paste entry is free (R318). -/
def State.roomInPaste (s : State) (slice : Nat) : Nat → State
  | 0 => s
  | n + 1 =>
    if (s.paste.filter fun p => p.slice == slice).length < 49152 then s
    else match oldest (s.rind.filter fun r => r.slice == slice) with
      | some r => (s.evictRind slice r.line).roomInPaste slice n
      | none => s

/-- A free entry of a bucket, else the lowest free entry (R317). -/
def State.freePaste (s : State) (slice b : Nat) : Option Nat :=
  match [4 * b, 4 * b + 1, 4 * b + 2, 4 * b + 3].find? (fun i => !s.pasteUsed slice i) with
  | some i => some i
  | none => (List.range 49152).find? fun i => !s.pasteUsed slice i

/-- The least age that no entry of a line's set has, with which an entry joins the set: ages within a set differ. -/
def State.newAge (s : State) (slice line : Nat) : Nat :=
  ((List.range 16).find? fun a => !(s.setOf slice line).any fun r => r.lru == a).getD 15

/-- Ages within a set after a use: the entry is youngest, and those that were younger are one step older, so that ages keep
the order of the last uses (R311, R318). -/
def State.touchRind (s : State) (slice line : Nat) : State :=
  let old := ((s.findRind slice line).map (·.lru)).getD 0
  let age (r : Rind) : Rind :=
    if r.slice == slice && r.line == line then { r with lru := 0 }
    else if r.slice == slice && rindSet r.line == rindSet line && r.lru < old then { r with lru := r.lru + 1 } else r
  { s with rind := s.rind.map age }

/-- A read of a line at its home slice is a use of its entry, if the slice holds it (R318). -/
def State.touchHome (s : State) (slice : Option Nat) (line : Nat) : State :=
  match slice with
  | some sl => s.touchRind sl line
  | none => s

/-- The rind entry of a line replaced or added. -/
def State.putRind (s : State) (r : Rind) : State :=
  { s with rind := (s.rind.filter fun q => !(q.slice == r.slice && q.line == r.line)) ++ [r] }

/-- Key generation of a partition (R316, R383). -/
def State.keyGen (s : State) (part : Nat) : Nat := ((tget s.partitions part).map (·.keyGen)).getD 0

/-- Dedup scope codes of a line: 0, 1, 2 as R315, 4 for a NODUP page. -/
def domScope (dom : Nat) : Nat := if dom = 1 ∨ dom = 2 then dom else 0

/-- What is installed in a slice: the line and its home, its 64 bytes, its partition, dedup domain and context, whether
the event is a write, and whether the bytes are uncorrectable. -/
structure Content where
  slice : Nat
  line  : Nat
  home  : Nat
  data  : BitVec 512
  part  : Nat
  dom   : Nat
  ctx   : Nat
  write : Bool
  bad   : Bool
  deriving DecidableEq, Repr

/-- The line is held by no slice: a write goes to home memory. -/
def State.bypass (s : State) (x : Content) : State :=
  let s := match s.findRind x.slice x.line with
    | some r => (s.releaseOld x.slice r.pointer).dropRind x.slice x.line
    | none => s
  if x.write then s.writeMemLine x.line x.data x.bad else s

/-- The line takes an entry of its own (R317). Reservations leave entries that can be evicted (R320), so one is free. -/
def State.newPaste (s : State) (x : Content) (h : BitVec 32) (b : Nat) (base : Rind) (st : RindState) : State :=
  let s := s.roomInPaste x.slice s.rind.length
  match s.freePaste x.slice b with
  | some i =>
    let p : Paste := ⟨x.slice, i, x.data, 1, h, s.keyGen x.part, x.part, domScope x.dom, x.ctx, x.bad⟩
    let oldPtr := (s.findRind x.slice x.line).bind Rind.pointer
    (({ s with paste := s.paste ++ [p] }.releaseOld x.slice oldPtr).putRind
      { base with st := st, zd := false, pptr := i }).touchRind x.slice x.line
  | none => s.bypass x

/-- The entry of a bucket that a line shares: the first that matches, in ascending order (R317). Poisoned bytes share
none, and no entry of an older key matches (R316, R318). -/
def State.sharedEntry (s : State) (x : Content) (h : BitVec 32) (b : Nat) : Option Paste :=
  let scope := domScope x.dom
  let fits (p : Paste) : Bool :=
    decide (1 ≤ p.ref ∧ p.ref ≤ 254) && p.dom == scope && p.part == x.part && (p.dom == 2 || p.ctx == x.ctx) &&
    p.hash == h && p.gen == s.keyGen x.part && !p.psn && p.data == x.data
  if scope = 0 || x.bad then none
  else [4 * b, 4 * b + 1, 4 * b + 2, 4 * b + 3].findSome? fun i =>
    s.paste.find? fun p => p.slice == x.slice && p.idx == i && fits p

/-- Installing a line's new 64 bytes (R317). PSN follows the bytes (R318, R384). -/
def State.install (s : State) (x : Content) (pin : Option Nat) : State :=
  let slice := x.slice
  let line := x.line
  let s := if (s.findRind slice line).isNone then s.roomInSet slice line else s
  let old := s.findRind slice line
  let oldPtr := old.bind Rind.pointer
  let base : Rind := old.getD
    ⟨slice, line, .clean, false, 0, x.home, x.part, x.dom == 4, false, 0, x.ctx, none, s.newAge slice line⟩
  let base := { base with part := x.part, nodup := x.dom == 4, pin := base.pin || pin.isSome, lid := pin.getD base.lid
                          ctx := if pin.isSome then x.ctx else base.ctx }
  let st : RindState := if x.write || base.st == .dirty then .dirty else .clean
  if old.isNone && decide ((s.setOf slice line).length ≥ 16) then s.bypass x
  else if x.data = 0 ∧ x.dom ≠ 4 ∧ x.bad = false then
    (((s.releaseOld slice oldPtr).putRind { base with st := .zero, zd := x.write })).touchRind slice line
  else
    let scope := domScope x.dom
    let h := Config.pasteHash x.part (s.keyGen x.part) (if scope = 1 then x.ctx + 1 else 0) x.data
    let b := h.toNat % 12288
    let hit := s.sharedEntry x h b
    match hit with
    | some y =>
      if oldPtr = some y.idx then (s.putRind { base with st := st }).touchRind slice line
      else
        let up (p : Paste) : Paste := if p.slice == slice && p.idx == y.idx then { p with ref := p.ref + 1 } else p
        (({ s with paste := s.paste.map up }.releaseOld slice oldPtr).putRind
          { base with st := st, zd := false, pptr := y.idx }).touchRind slice line
    | none =>
      let mine := oldPtr.bind fun i => s.paste.find? fun p => p.slice == slice && p.idx == i
      match mine with
      | some p =>
        if p.ref = 1 ∧ 4 * b ≤ p.idx ∧ p.idx < 4 * b + 4 then
          let set (q : Paste) : Paste :=
            if q.slice == slice && q.idx == p.idx then
              { q with data := x.data, hash := h, gen := s.keyGen x.part, dom := scope, ctx := x.ctx, psn := x.bad } else q
          ({ s with paste := s.paste.map set }.putRind { base with st := st }).touchRind slice line
        else s.newPaste x h b base st
      | none => s.newPaste x h b base st

/-- A line that a slice holds is pinned for a lease; its contents do not change (R307, R320). -/
def State.pinRind (s : State) (slice line ctx lid : Nat) : State :=
  let set (r : Rind) : Rind := if r.slice == slice && r.line == line then { r with pin := true, lid := lid, ctx := ctx } else r
  { s with rind := s.rind.map set }

/-! ### Lines at home (R219, R234) -/

/-- Dedup scope of a context on a cluster: DDS, where 3 acts as 0, and 2 as 1 unless the partition permits it
(R315, R336, R381). -/
def State.dedupScope (s : State) (c : Nat) (nodup : Bool) : Nat :=
  let cl := s.cluster c
  let dds := (cl.ctxReg.extractLsb' 18 2).toNat
  let policy := ((tget s.partitions cl.part.toNat).map (·.policy)).getD 0
  if nodup then 4 else if dds = 3 then 0 else if dds = 2 ∧ !policy.getLsbD 1 then 1 else dds

def State.ctxOf (s : State) (c : Nat) : Nat := ((s.cluster c).ctxReg.extractLsb' 0 16).toNat

/-- Home slice of a physical key whose home cluster is given; none for a page of the host (R219). -/
def homeSlice (home key : Nat) : Option Nat :=
  if home < hostHome then some (home / 32 * 32 + sliceOf (keyPa key)) else none

/-- A line as its home holds it. -/
def State.homeLine (s : State) (slice : Option Nat) (line : Nat) : BitVec 512 :=
  match slice.bind fun sl => s.findRind sl line with
  | some r => rindData s.paste r
  | none => BitVec.ofNat 512 (leNat (memRead s.mem (line * 64) 64))

def State.linePoisoned (s : State) (slice : Option Nat) (key n : Nat) : Bool :=
  match slice.bind fun sl => s.findRind sl (key / 64) with
  | some r => s.rindPoisoned r
  | none => s.poisoned key n

/-- Bytes replaced in a line. -/
def patchLine {w : Nat} (line : BitVec w) (ofs : Nat) (bytes : List Byte) : BitVec w :=
  let n := bytes.length
  let m : BitVec w := (BitVec.ofNat w (2 ^ (8 * n) - 1)) <<< (8 * ofs)
  (line &&& ~~~m) ||| ((BitVec.ofNat w (leNat bytes)) <<< (8 * ofs))

/-- Replicas of a line in other dies' slices are invalidated before a write-back (R232, R234). -/
def State.dropReplicas (s : State) (slice line : Nat) : State :=
  (s.rind.filter fun r => r.line == line && r.slice != slice).foldl (fun s r => s.invalidRind r.slice r.line) s

/-- An owner write of a page is counted; the count saturates at 255 (R234). -/
def State.countPage (s : State) (die page : Nat) (write : Bool) : State :=
  let sat (n : Nat) : Nat := if n < 255 then n + 1 else n
  let bump (p : PageUse) : PageUse :=
    if p.die == die && p.page == page then
      (if write then { p with writes := sat p.writes } else { p with reads := sat p.reads }) else p
  if s.pages.any fun p => p.die == die && p.page == page then { s with pages := s.pages.map bump }
  else { s with pages := s.pages ++ [⟨die, page, if write then 0 else 1, if write then 1 else 0, false, []⟩] }

/-- PAGE_MODE_CHANGE (R234): 32 reads with at most 2 writes make a page replicated; 8 writes make it memory-side, its
replicas invalidated first. -/
def State.pageMode (s : State) (die page : Nat) : State :=
  match s.pages.find? (fun p => p.die == die && p.page == page) with
  | none => s
  | some p =>
    let set (v : Bool) (q : PageUse) : PageUse :=
      if q.die == die && q.page == page then { q with replicated := v, sharers := if v then q.sharers else [] } else q
    if !p.replicated && p.reads ≥ 32 && p.writes ≤ 2 then { s with pages := s.pages.map (set true) }
    else if p.replicated && p.writes ≥ 8 then
      let s' := (s.rind.filter fun r => r.line / 1024 == page && r.slice / 32 != die).foldl
        (fun s r => s.invalidRind r.slice r.line) s
      { s' with pages := s'.pages.map (set false) }
    else s

/-! ### Watches at their home (R261 to R263) -/

/-- Parts of a slice code `(die·8 + class)·32 + index` (R195). -/
def sliceDie (sl : Nat) : Nat := sl / 256
def sliceClass (sl : Nat) : Nat := sl / 32 % 8
def sliceIndex (sl : Nat) : Nat := sl % 32
def sliceCode (die cls idx : Nat) : Nat := (die * 8 + cls) * 32 + idx

/-- Cluster whose port or cave bank a slice is; none for an L2 slice. -/
def sliceCluster (sl : Nat) : Option Nat := if sliceClass sl = 0 then none else some (sliceDie sl * 32 + sliceIndex sl)

/-- The handle of a watch entry (R263). -/
def watchHandle (k gen : Nat) : Word :=
  let sl := k / 256
  wordOf (sliceDie sl * 2 ^ 35 + sliceClass sl * 2 ^ 32 + sliceIndex sl * 2 ^ 27 + k % 256 * 2 ^ 19 + gen * 2 ^ 9)

/-- The value of a watched word at its home. -/
def State.watchValue (s : State) (sl key width : Nat) : Nat :=
  if isSram key then leNat (memRead s.mem key (width / 8))
  else (s.homeLine (some (sliceDie sl * 32 + sliceIndex sl)) (key / 64)).toNat / 2 ^ (8 * (key % 64)) % 2 ^ width

/-- Home cluster of a watched word, whose fencing answers its watch (R261, R385). -/
def watchHome (key : Nat) : Nat :=
  if isSram key then sramCluster key else keyDevice key * 128 + hbmCluster (keyPa key)

/-- Releases recorded with the words of a range (R232). -/
def State.relOf (s : State) (key : Nat) : List Release := (tget s.rel (wordKey key)).getD []

/-- The answer of a held watch leaves and its entry is free (R261); it carries the releases recorded with the word, its home
and the watch's own scope (R224, R233). -/
def State.answerWatch (s : State) (k : Nat) (w : Watch) (value : Word) (fenced : Bool) : State :=
  { s with watches := tset s.watches k { w with held := false }
           answers := s.answers ++ [⟨s.nextId, sliceDie (k / 256), w.t, w.ctx, w.counter, value, w.tag, watchHandle k w.gen.toNat, fenced,
             s.relOf w.key, ⟨watchHome w.key, w.scope⟩, s.now w.t, false, .idle⟩]
           nextId := s.nextId + 1 }

/-- WATCH_COMPARE (R261): each watch on a word of the range is compared with the word, unsigned. -/
def State.watchRange (s : State) (key n : Nat) : State :=
  (s.watches.filter fun p => p.2.held && decide (p.2.key < key + n) && decide (key < p.2.key + p.2.width / 8)).foldl
    (fun s p =>
      let v := s.watchValue (p.1 / 256) p.2.key p.2.width
      if v ≥ p.2.thr.toNat % 2 ^ p.2.width then s.answerWatch p.1 p.2 (wordOf v) false else s) s

/-- A line's new contents reach its home: the slice installs them, or home memory takes them (R219, R232, R317). Poison of
the line stays unless the write covers it whole, and bytes that are uncorrectable poison it (R384). -/
def State.writeLine (s : State) (home line : Nat) (data : BitVec 512) (whole : Bool) (part dom ctx : Nat)
    (poison : Bool := false) : State :=
  match homeSlice home (line * 64) with
  | none => s.writeMemLine line data (poison || (!whole && s.poisoned (line * 64) 64))
  | some sl =>
    let s := s.dropReplicas sl line
    let bad := poison || (!whole && s.linePoisoned (some sl) (line * 64) 64)
    let die := home / 32
    let s := ((s.countPage die (line / 1024) true).pageMode die (line / 1024))
    s.install ⟨sl, line, home, data, part, dom, ctx, true, bad⟩ none

/-- Bytes of one line reach its home, and the watches on them are compared (R261). -/
def State.writeHome (s : State) (home key : Nat) (bytes : List Byte) (part dom ctx : Nat) (poison : Bool := false) : State :=
  let data := patchLine (s.homeLine (homeSlice home key) (key / 64)) (key % 64) bytes
  (s.writeLine home (key / 64) data (bytes.length == 64) part dom ctx poison).watchRange key bytes.length

/-! ### L1 data caches (R232 to R235) -/

def State.findL1 (s : State) (core line : Nat) : Option L1Line := s.l1.find? fun l => l.core == core && l.line == line

/-- A core's copy of a line replaced or added. -/
def State.setL1 (s : State) (l : L1Line) : State :=
  { s with l1 := (s.l1.filter fun q => !(q.core == l.core && q.line == l.line)) ++ [l] }

/-- Lines of a core's L1 data cache, 640 KiB, and of its L1 instruction cache, 64 KiB (R2). -/
def l1Lines : Nat := 10240
def il1Lines : Nat := 1024

/-- A core's copy of a line is gone. -/
def State.dropOwn (s : State) (core line : Nat) : State :=
  { s with l1 := s.l1.filter fun l => !(l.core == core && l.line == line) }

/-- Mask of n bytes from an offset in a 64-byte line. -/
def byteMask (ofs n : Nat) : BitVec 64 := (BitVec.ofNat 64 (2 ^ n - 1)) <<< ofs

/-- Bits of the bytes of a mask. -/
def spreadMask (m : BitVec 64) : BitVec 512 :=
  BitVec.ofNat 512 ((List.range 64).foldl (fun a i => if m.getLsbD i then a + 255 * 2 ^ (8 * i) else a) 0)

/-- Runs of dirty bytes of a line as writes: each dirty byte with its offset. -/
def L1Line.dirtyBytes (l : L1Line) : List (Nat × Byte) :=
  (List.range 64).filterMap fun i => if l.dirty.getLsbD i then some (i, (l.data >>> (8 * i)).setWidth 8) else none

/-- A line's dirty bytes reach its home, under the domain of the context that runs on the owning cluster (R315), poisoned
where an error has spoilt the line (R384); the copy is clean. -/
def State.writeBackL1 (s : State) (l : L1Line) : State :=
  if l.dirty = 0 then s
  else
    let sl := homeSlice l.home (l.line * 64)
    let data := l.dirtyBytes.foldl (fun d p => patchLine d p.1 [p.2]) (s.homeLine sl l.line)
    ((s.writeLine l.home l.line data (l.dirty == BitVec.allOnes 64) l.part (s.dedupScope l.home l.nodup)
      (s.ctxOf l.home) l.psn).watchRange (l.line * 64) 64).setL1 { l with dirty := 0, mark := none }

/-- A line of a core's L1 is kept; the line that the core has kept longest leaves a full cache (R2, log 10). -/
def State.putL1 (s : State) (l : L1Line) : State :=
  let mine := s.l1.filter fun q => q.core == l.core
  if (s.findL1 l.core l.line).isSome || decide (mine.length < l1Lines) then s.setL1 l
  else match mine.head? with
    | some q => ((s.writeBackL1 q).dropOwn q.core q.line).setL1 l
    | none => s.setL1 l

/-- A mark at or before a position, modulo 2^32 (R232). -/
def markedBy (m : Option (BitVec 32)) (p : BitVec 32) : Bool :=
  match m with
  | some m => (p - m).toNat < 2 ^ 31
  | none => false

/-- The lines homed in a cluster that are marked at or before a position are written back from its L1s to the home slices; a
marked line of a home slice is there already, and loses its mark (R232, R241). -/
def State.writeBackMarked (s : State) (c : Nat) (p : BitVec 32) : State :=
  let s' := (s.l1.filter fun l => l.core / 8 == c && l.dirty != 0 && markedBy l.mark p).foldl
    (fun s l => s.writeBackL1 l) s
  let clear (r : Rind) : Rind := if r.home == c && markedBy r.rel p then { r with rel := none } else r
  { s' with rind := s'.rind.map clear }

/-- Every dirty copy of a line in the cluster's L1s is written to its home (R273). -/
def State.writeBackLine (s : State) (c line : Nat) : State :=
  (s.l1.filter fun l => l.core / 8 == c && l.line == line && l.dirty != 0).foldl (fun s l => s.writeBackL1 l) s

/-- The 64-byte line as a reader of a core reaches it: its home slice, a replica in the reader's die, or home memory,
with a fill of the slice that serves it on its way, a replica's in a packet (R354), or its entry there youngest (R234, R309,
R310, R318). -/
def State.readLine64 (s : State) (t : Nat) (g : Target) (line : Nat) : BitVec 512 × State :=
  let key := line * 64
  if isSram key ∨ g.kind ≥ 3 ∨ g.kind = 1 ∨ g.home = mgmtHome then (s.homeLine none line, s)
  else
    let c := clusterOf t
    let die := dieOf t
    let nodup := (g.leaf.map leafNodup).getD false
    let part := (g.leaf.map leafPart).getD 0
    let fill (s : State) (sl : Nat) : State :=
      if (s.findRind sl line).isSome then s.touchRind sl line
      else if s.fills.any (fun f => f.slice == sl && f.line == line) then s
      else
        let id := s.nextId
        let away := decide (g.home < hostHome) && g.home / 32 != sl / 32
        let s := { s with fills := s.fills ++ [⟨id, sl, line, g.home, part, s.dedupScope c nodup, s.ctxOf c, nodup, none, away⟩]
                          nextId := id + 1 }
        if away then (s.post (g.home / 32) (sl / 32) 4 part (.fill id)).2 else s
    match homeSlice g.home key with
    | none =>
      let sl := die * 32 + sliceOf (keyPa key)
      (s.homeLine (some sl) line, fill s sl)
    | some sl =>
      if g.home / 32 = die then (s.homeLine (some sl) line, fill s sl)
      else
        let hd := g.home / 32
        let s := (s.countPage hd (line / 1024) false).pageMode hd (line / 1024)
        let repl := s.pages.any fun p => p.die == hd && p.page == line / 1024 && p.replicated
        let mine := die * 32 + sliceOf (keyPa key)
        if repl && (s.findRind mine line).isSome then (s.homeLine (some mine) line, s.touchRind mine line)
        else (s.homeLine (some sl) line, if repl then fill s mine else fill s sl)

/-- Whether an access goes through the core's L1 (R220, R235): RC and UN pages, and SRAM of other clusters. -/
def usesL1 (t : Nat) (g : Target) : Bool :=
  if isSram g.key then g.win == .pod && g.home != clusterOf t
  else (g.kind == 0 || g.kind == 2) && g.home != mgmtHome

/-- A read of a synchronisation variable reaches the releasing clusters, which write back what they marked (R232). -/
def State.readReleased (s : State) (key : Nat) : State :=
  (s.relOf key).foldl (fun s r => s.writeBackMarked (clusterOf r.tid) r.pos) s

/-- A read through the L1: bytes held are returned, else the line is fetched and kept beside its dirty bytes, so that
no word mixes older clean bytes with newer ones (R221, log 10). `fresh` reads at the home, as an acquire does. -/
def State.readL1 (s : State) (t : Nat) (g : Target) (n : Nat) (fresh : Bool) : List Byte × State :=
  let line := g.key / 64
  let ofs := g.key % 64
  let need := byteMask ofs n
  let old := (s.findL1 (coreOf t) line).getD
    ⟨coreOf t, line, 0, 0, 0, none, g.home, (g.leaf.map leafPart).getD 0, (g.leaf.map leafNodup).getD false, false⟩
  let keep := if fresh then old.dirty else old.valid
  if (need &&& ~~~keep) = 0 then (leBytes n (old.data >>> (8 * ofs)).toNat, s)
  else
    let (data, s') := (s.readReleased g.key).readLine64 t g line
    let m := spreadMask old.dirty
    let merged := (old.data &&& m) ||| (data &&& ~~~m)
    (leBytes n (merged >>> (8 * ofs)).toNat,
      s'.putL1 { old with data := merged, valid := BitVec.allOnes 64, psn := old.psn && old.dirty != 0 })

/-! ### Physical access beside the strands (R98, R333, R343, R375, R387) -/

/-- The home slice and the home cluster of a physical address of a device: none and the host for host memory. -/
def physSlice (d pa : Nat) : Option Nat := if pa < hbmEnd then some (hbmDie d pa * 32 + sliceOf pa) else none
def physHome (d pa : Nat) : Nat := if pa < hbmEnd then d * 128 + hbmCluster pa else hostHome

/-- n bytes of physical memory as their homes hold them, by lines. -/
def State.physRead (s : State) (d pa n : Nat) : List Byte :=
  let first := pa / 64
  let lines := (pa + n + 63) / 64 - first
  let all := (List.range lines).flatMap fun i =>
    leBytes 64 (s.homeLine (physSlice d ((first + i) * 64)) (physKey d ((first + i) * 64) / 64)).toNat
  (all.drop (pa % 64)).take n

/-- Bytes written at their homes, one write a line; a line of a NODUP page stays one (R315). -/
def State.physWrite (s : State) (d pa : Nat) (bytes : List Byte) (part dom ctx : Nat) : State :=
  let first := pa / 64
  let lines := (pa + bytes.length + 63) / 64 - first
  (List.range lines).foldl (fun (s : State) i =>
    let lo := max pa ((first + i) * 64)
    let hi := min (pa + bytes.length) ((first + i + 1) * 64)
    let nodup := ((physSlice d lo).bind fun sl => s.findRind sl (physKey d lo / 64)).any (·.nodup)
    let dom := if nodup then 4 else dom
    s.writeHome (physHome d lo) (physKey d lo) ((bytes.drop (lo - pa)).take (hi - lo)) part dom ctx) s

/-- A line meets a range. -/
def lineMeets (line key n : Nat) : Bool := decide (line * 64 < key + n) && decide (key < line * 64 + 64)

/-- Lines of the slices in a range written home, so that memory itself holds the range, and evicted unless they are pinned
(R318). -/
def State.flushRange (s : State) (key n : Nat) : State :=
  (s.rind.filter fun r => lineMeets r.line key n).foldl
    (fun s r => if r.pin then s.cleanRind r.slice r.line else s.evictRind r.slice r.line) s

/-- Memory of a range changed at once, which takes no line's place in a slice; a pinned line takes the new contents, under the
domain of a write-back of its page (R315). -/
def State.memUpdate (s : State) (key n : Nat) (f : List Host.Cell → List Host.Cell) : State :=
  let s := s.flushRange key n
  let s := { s with mem := f s.mem }
  (s.rind.filter fun r => lineMeets r.line key n).foldl (fun s r =>
    s.install ⟨r.slice, r.line, r.home, s.homeLine none r.line, r.part, s.dedupScope r.home r.nodup, s.ctxOf r.home, false,
      s.poisoned (r.line * 64) 64⟩ none) s

/-- Copies of a range in the cores' caches are gone. -/
def State.forgetRange (s : State) (key n : Nat) : State :=
  { s with l1 := s.l1.filter fun l => !(decide (l.line * 64 < key + n) && decide (key < l.line * 64 + 64))
           il1 := s.il1.filter fun l => !(decide (l.line * 64 < key + n) && decide (key < l.line * 64 + 64)) }

/-- A range whose copies are gone and which reads as memory does that nothing has written. -/
def State.zeroRange (s : State) (key n : Nat) : State :=
  let s := s.forgetRange key n
  let s := (s.rind.filter fun r => decide (key ≤ r.line * 64) && decide (r.line * 64 + 64 ≤ key + n)).foldl
    (fun s r => s.invalidRind r.slice r.line) s
  { s with mem := memClear s.mem key n
           poison := s.poison.filter fun k => !(decide (key ≤ k) && decide (k < key + n))
           sums := s.sums.filter fun q => !(decide (key ≤ q.1) && decide (q.1 < key + n)) }

/-- Cells of bytes from a key on. -/
def cellsOf (k : Nat) (bytes : List Byte) : List Host.Cell :=
  (bytes.zipIdx).filterMap fun p => if p.1 = emptyByte then none else some (k + p.2, p.1)

/-! ### Management range reads (R378, R379) -/

/-- The registers of the device block (R379). -/
def State.deviceBlock (s : State) (d ofs : Nat) : Word :=
  let dv := s.device d
  match ofs with
  | 0x000 => 0x41544140 ||| ((Config.stepping.setWidth 64) <<< 32)
  | 0x008 => wordOf (dv.stage + (if dv.failed then 256 else 0) + dv.failStage * 4096)
  | 0x010 => dv.pwrlim.setWidth 64
  | 0x018 => (Config.powerReading dv.cycle).setWidth 64
  | 0x020 => ((Config.dieTemp dv.cycle).setWidth 64) ||| (((Config.hbmTemp dv.cycle).setWidth 64) <<< 8)
  | 0x028 => wordOf (dv.clock * 125 / 2)
  | 0x030 => (dv.haltCount.setWidth 64) ||| ((dv.haltName.setWidth 64) <<< 8)
  | _ => 0

def Circuit.code : CircuitState → Nat
  | .free => 0 | .tuning => 1 | .live => 2 | .draining => 3 | .fault => 4

def Service.code : Service → Nat
  | .inService => 0 | .offline => 1 | .fenced => 2 | .lent => 3

/-- CXC as it reads (R357). -/
def Circuit.cxc (c : Circuit) : Word :=
  wordOf (c.cause.toNat * 2 ^ 32 + Circuit.code c.state * 2 ^ 16 + c.tcls.toNat * 2 ^ 8 + c.dst.toNat * 4 + c.src.toNat)

/-- A 64-bit register of the management range; unlisted offsets read zero (R378). -/
def State.mgmtWord (s : State) (d ofs : Nat) : Word :=
  let dv := s.device d
  if ofs < 0x10000 then s.deviceBlock d ofs
  else if ofs < 0x20000 then
    let o := ofs - 0x10000
    if o < 0x40 then (dv.request[o / 8]?).getD 0
    else if o < 0x80 then (dv.response[(o - 0x40) / 8]?).getD 0
    else if o = 0x80 then (if dv.doorbell then 1 else 0) else 0
  else if ofs < 0x30000 then
    let o := ofs - 0x20000
    if o = 0 then dv.tableNext.setWidth 64
    else if o = 8 then
      wordOf (dv.tableGen.toNat * 256 + (if dv.fenceBusy then 2 else 0) + (if dv.fenceDone then 1 else 0))
    else if 0x2000 ≤ o ∧ o < 0x2120 then
      let p := (tget dv.ports ((o - 0x2000) / 8)).getD Port.zero
      wordOf (p.mode + p.replays % 2 ^ 32 * 2 ^ 32)
    else if 0x4000 ≤ o ∧ o < 0x8000 then (tget dv.routing ((o - 0x4000) / 8)).getD 0 else 0
  else if 0x100000 ≤ ofs ∧ ofs < 0x140000 then
    let die := (ofs - 0x100000) / 0x10000
    let o := ofs % 0x10000
    if 0x1000 ≤ o ∧ o < 0x1400 then
      let c := (tget dv.circuits (die * 64 + (o - 0x1000) / 16)).getD Circuit.zero
      if o % 16 = 0 then c.cxc else c.cxw
    else 0
  else if 0x200000 ≤ ofs ∧ ofs < 0x240000 then
    let die := (ofs - 0x200000) / 0x10000
    let o := ofs % 0x10000
    if o < 0x100 then wordOf (Service.code (s.cluster (d * 128 + die * 32 + o / 8)).service)
    else
      let n := (o - 0x100) / 8
      if n < 32 then (s.cluster (d * 128 + die * 32 + n)).sramErr.setWidth 64
      else if n < 64 then ((tget dv.sliceErr (die * 32 + (n - 32))).getD 0).setWidth 64
      else if n < 256 then ((tget dv.chanErr (die * 192 + (n - 64))).getD 0).setWidth 64 else 0
  else 0

/-- Bytes of the management range. -/
def State.mgmtBytes (s : State) (key n : Nat) : List Byte :=
  let ofs := keyPa key - 0xFF0000000000
  leBytes n ((s.mgmtWord (keyDevice key) (ofs / 8 * 8)).toNat / 2 ^ (8 * (ofs % 8)))

/-! ### Stores on their way to SRAM (R235) -/

/-- The byte that a store writes at a key, if it writes it. -/
def Store.byteAt (st : Store) (k : Nat) : Option Byte :=
  if wordKey k = st.key ∧ st.mask.getLsbD (k % 8) then some ((st.val >>> (8 * (k % 8))).setWidth 8) else none

/-- The strand's own pending stores laid over bytes read (R222, R235). -/
def State.forward (s : State) (t : Nat) (x : Side) (key : Nat) (bytes : List Byte) : List Byte :=
  (s.stores.filter fun st => st.t == t && st.x == x).foldl (fun bs st =>
    bs.zipIdx.map fun (b, i) => (st.byteAt (key + i)).getD b) bytes

/-- Records of a word: one for each releasing thread and scope, the newest by its cluster's position. -/
def addRel (l : List Release) (r : Release) : List Release :=
  let same (q : Release) : Bool := q.tid == r.tid && q.scope == r.scope
  if l.any fun q => same q && q.pos != r.pos && markedBy (some r.pos) q.pos then l
  else l.filter (fun q => !same q) ++ [r]

def State.recordRel (s : State) (key : Nat) (rs : List Release) : State :=
  if rs.isEmpty then s else { s with rel := tset s.rel (wordKey key) (rs.foldl addRel (s.relOf key)) }

/-- A read of an access of at most 8 bytes: its bytes, whether they are poisoned, the state after it. -/
def State.readBytes (s : State) (t : Nat) (x : Side) (g : Target) (n : Nat) (fresh : Bool) : List Byte × Bool × State :=
  if g.home = mgmtHome then (s.mgmtBytes g.key n, false, s)
  else if usesL1 t g then
    let sl := if isSram g.key then none else homeSlice g.home g.key
    let r := s.readL1 t g n fresh
    (if isSram g.key then s.forward t x g.key r.1 else r.1,
      s.linePoisoned sl g.key n || (r.2.findL1 (coreOf t) (g.key / 64)).any (·.psn), r.2)
  else if isSram g.key then (s.forward t x g.key (memRead s.mem g.key n), s.poisoned g.key n, s)
  else (memRead s.mem g.key n, s.poisoned g.key n, s)

end Sys2Proof.Machine
end

