-- ==== Sys2Proof/Machine/Order.lean ====
section
/-! DEFINITION. Releases and acquires as the device keeps them (R224 to R236), and stores as they are made and as they reach
memory (R188, R220, R222, R235). -/

namespace Sys2Proof.Machine

/-! ### Releases (R224, R232) -/

/-- A release event of a cluster on behalf of thread t: the cluster's position advances, unmarked dirty lines are
marked in its L1s and in the home slices, and a line whose mark is about to fall 2^30 behind is at its home slice first,
where it is marked anew while DRAM has not got it. -/
def State.releaseCluster (s : State) (t scope : Nat) : Release × State :=
  let c := clusterOf t
  let p := (s.cluster c).relPos + 1
  let far : Option (BitVec 32) → Bool
    | some m => (p - m).toNat ≥ 2 ^ 30
    | none => false
  let s := (s.l1.filter fun l => l.core / 8 == c && l.dirty != 0 && far l.mark).foldl (fun s l => s.writeBackL1 l) s
  let mark (l : L1Line) : L1Line := if l.core / 8 == c && l.dirty != 0 && l.mark.isNone then { l with mark := some p } else l
  let markR (r : Rind) : Rind :=
    if r.home == c && r.unwritten && (r.rel.isNone || far r.rel) then { r with rel := some p } else r
  let s := { s with l1 := s.l1.map mark, rind := s.rind.map markR }
  let s := s.updCluster c fun cl => { cl with relPos := p }
  (⟨t, scope, p, c :: (s.cluster c).homes⟩, s)

/-- Releases that a store of the strand carries: those of its last release fence, and its own when it releases. -/
def State.storeRel (s : State) (t : Nat) (x : Side) : List Release := (s.strand t x).fenceRel

/-! ### Acquires (R225, R232, R233) -/

/-- Whether a release and an acquire at a scope by thread t lie within each other's scopes (R225). -/
def synchronises (r : Release) (t scope : Nat) : Bool := inScope r.scope r.tid t && inScope scope t r.tid

/-- Homes named by a set: clusters of the acquirer's own device, and one bit for every other device (R233). -/
def homeIn (d : Nat) (homes : List Nat) (h : Nat) : Bool :=
  homes.contains h || (decide (h < hostHome) && h / 128 != d && homes.any fun k => decide (k < hostHome) && k / 128 != d)

/-- ACQUIRE_AT_RELEASER: the releasing cluster writes back the lines marked at or before the recorded position, and
the acquiring core drops clean lines of the homes that the answer carries (R232, R233). -/
def State.acquireFrom (s : State) (t : Nat) (r : Release) (scope : Nat) : State :=
  if synchronises r t scope then
    let c := clusterOf t
    let s := s.writeBackMarked (clusterOf r.tid) r.pos
    let s := s.dropClean (coreOf t) (homeIn (deviceOf t) r.homes)
    s.updCluster c fun cl => { cl with homes := (r.homes.filter fun h => !cl.homes.contains h) ++ cl.homes }
  else s

def State.acquireAll (s : State) (t : Nat) (scope : Nat) (rs : List Release) : State :=
  rs.foldl (fun s r => s.acquireFrom t r scope) s

/-- Observing engine writes, for the observer's core alone (R236). -/
def State.acquireEngine (s : State) (t : Nat) : State := s.dropClean (coreOf t) fun h => h == clusterOf t

/-! ### Writes at SRAM and full/empty words (R18, R245, R246) -/

/-- A loaded value written as 64 bits (R132, R189). -/
def loadValue (ty : Ty) (v : Nat) : Word := extendInt (tySigned ty) (tyWidth false ty) v

/-- Bytes of SRAM written: the FE bit of each word full, releases recorded, watches compared (R18, R188, R232, R235,
R261). -/
def State.putSram (s : State) (key : Nat) (bytes : List Byte) (rel : List Release) : State :=
  let s := { s with mem := memWrite s.mem key bytes }
  let s := (List.range ((bytes.length + 7) / 8)).foldl (fun s i => s.setFull (key + 8 * i)) s
  (s.recordRel key rel).watchRange key bytes.length

/-- The `ldsync` of a word that is full: the value, with the word set empty by `.take`, and its acquire (R224, R245). The
read is observed as a load is (R226, R233), and the core keeps no older copy of the line (R222, R236). -/
def State.ldsyncRead (s : State) (t : Nat) (x : Side) (key : Nat) (ty : Ty) (take : Bool) (scope : Nat) : Word × State :=
  let n := tyWidth false ty / 8
  let v := loadValue ty (leNat (s.forward t x key (memRead s.mem key n)))
  let s := if take then s.setEmpty key else s
  let rs := s.relOf key
  let s := s.updStrand t x fun st => st.observe (sramCluster key) rs
  (v, ((s.acquireAll t scope rs).acquireEngine t).dropOwn (coreOf t) (key / 64))

/-- The `stsync` of a word that is empty: the release, the bytes, the word full, in one step (R224, R245). The strand's
earlier stores to SRAM have been performed (R235). -/
def State.stsyncWrite (s : State) (t : Nat) (x : Side) (key : Nat) (ty : Ty) (v : Word) (scope : Nat) : State :=
  let (r, s) := s.releaseCluster t scope
  let bytes := leBytes (tyWidth false ty / 8) v.toNat
  (s.clearPoison key bytes.length).putSram key bytes (s.storeRel t x ++ [r])

/-- Whether the earliest waiter of a word can proceed. -/
def State.mayServe (s : State) (w : Waiter) : Bool :=
  match w.kind with
  | .load .. => s.feFull w.key
  | .store .. => !s.feFull w.key

/-- The earliest waiter of a word is served; the answer comes from the word's die (R354). -/
def State.serveOne (s : State) (w : Waiter) : State :=
  let s := { s with waiters := s.waiters.erase w }
  let die := sramCluster w.key / 32
  match w.kind with
  | .load ty da take scope =>
    if s.poisoned w.key (tyWidth false ty / 8) then s.reply w.t w.x die (.trap (TrapInfo.at .poison w.va))
    else
      let (v, s) := s.ldsyncRead w.t w.x w.key ty take scope
      s.reply w.t w.x die (.done [.s da v])
  | .store ty v scope => (s.stsyncWrite w.t w.x w.key ty v scope).finish w.t w.x []

/-- Waiters of a word in their order of arrival, until one cannot proceed (R246). -/
def State.serveWord (s : State) (key : Nat) : Nat → State
  | 0 => s
  | n + 1 =>
    match s.waiters.find? (fun w => wordKey w.key == wordKey key) with
    | none => s
    | some w => if s.mayServe w then (s.serveOne w).serveWord key n else s

/-- After an event at the words of a range, their waiters are tried again (R246). -/
def State.served (s : State) (key n : Nat) : State :=
  (List.range ((key % 8 + n + 7) / 8)).foldl (fun s i => s.serveWord (key + 8 * i) (s.waiters.length + 1)) s

/-- A write reaches SRAM; a word written whole loses its poison (R384), and the waiters of its words are tried again
(R246). -/
def State.writeSram (s : State) (key : Nat) (bytes : List Byte) (rel : List Release) : State :=
  ((s.clearPoison key bytes.length).putSram key bytes rel).served key bytes.length

/-! ### Stores -/

/-- The word that a store leaves at its place. -/
def Store.over (st : Store) (old : List Byte) : List Byte := old.zipIdx.map fun (b, i) => (st.byteAt (st.key + i)).getD b

/-- A store on its way reaches SRAM, all its bytes at once, and the storing core keeps no older copy of the line (R221,
R222, R235). Poison of the word stays unless the store covers it whole (R384). -/
def State.performStore (s : State) (st : Store) : State :=
  let s := if st.mask = BitVec.allOnes 8 then s.clearPoison st.key 8 else s
  ((s.putSram st.key (st.over (memRead s.mem st.key 8)) st.rel).served st.key 8).dropOwn (coreOf st.t) (st.key / 64)

/-- The oldest pending store of a strand is performed. -/
def State.performOne (s : State) (t : Nat) (x : Side) : State :=
  match s.stores.find? (fun st => st.t == t && st.x == x) with
  | none => s
  | some st => ({ s with stores := s.stores.erase st }).performStore st

/-- Every pending store of a strand is performed, oldest first (R235). -/
def State.drainStores (s : State) (t : Nat) (x : Side) : State :=
  (s.stores.filter fun st => st.t == t && st.x == x).foldl (fun s st => s.performStore st)
    { s with stores := s.stores.filter (fun st => !(st.t == t && st.x == x)) }

/-- Partition, dedup scope and context with which a thread's write of a page is installed (R315). -/
def State.lineDomain (s : State) (t : Nat) (g : Target) : Nat × Nat × Nat :=
  let c := clusterOf t
  ((g.leaf.map leafPart).getD 0, s.dedupScope c ((g.leaf.map leafNodup).getD false), s.ctxOf c)

/-- A write of an owned RC or UN page becomes dirty bytes of the core's L1 line (R220, R235). A line with releases
recorded carries the newest one's position as its mark (R232). -/
def State.writeL1 (s : State) (t : Nat) (g : Target) (bytes : List Byte) (rel : List Release) : State :=
  let line := g.key / 64
  let ofs := g.key % 64
  let old := (s.findL1 (coreOf t) line).getD
    ⟨coreOf t, line, 0, 0, 0, none, g.home, (g.leaf.map leafPart).getD 0, (g.leaf.map leafNodup).getD false, false⟩
  let m := byteMask ofs bytes.length
  s.putL1 { old with
    data := patchLine old.data ofs bytes, valid := old.valid ||| m, dirty := old.dirty ||| m
    mark := old.mark.or (rel.getLast?.map (·.pos)) }

/-- A store of bytes within one aligned word. -/
def Store.of (t : Nat) (x : Side) (key : Nat) (bytes : List Byte) (rel : List Release) : Store :=
  ⟨t, x, wordKey key, (BitVec.ofNat 8 (2 ^ bytes.length - 1)) <<< (key % 8), wordOf (leNat bytes) <<< (8 * (key % 8)), rel⟩

/-- A store of at most 8 bytes by a strand at a place that its checks accepted (R188, R220, R235). -/
def State.storeBytes (s : State) (t : Nat) (x : Side) (g : Target) (bytes : List Byte) (rel : List Release) : State :=
  if isSram g.key then { s with stores := s.stores ++ [Store.of t x g.key bytes rel] }
  else
    let s := s.recordRel g.key rel
    if g.kind = 1 then ({ (s.clearPoison g.key bytes.length) with mem := memWrite s.mem g.key bytes }).watchRange g.key
      bytes.length
    else s.writeL1 t g bytes rel

/-- A release event of a thread's strand: its SRAM stores are performed first (R235). -/
def State.release (s : State) (t : Nat) (x : Side) (scope : Nat) : Release × State :=
  (s.drainStores t x).releaseCluster t scope

end Sys2Proof.Machine
end

