-- ==== Sys2Proof/Machine/LoadStore.lean ====
section
/-! DEFINITION. Loads and stores (R188 to R193), touches of absent windows (R303, R305), vector element access. -/

namespace Sys2Proof.Machine

/-! ### Absent windows (R303, R305) -/

/-- The region entry whose window holds a memory key, while it is not PRESENT. -/
def State.regionAt (s : State) (c key : Nat) : Option (Nat × Region) :=
  (s.cluster c).regions.find? fun p =>
    (p.2.state == .absent || p.2.state == .filling || p.2.state == .faulted) && decide (p.2.win ≤ key) &&
    decide (key < p.2.win + p.2.len)

def State.setRegion (s : State) (c n : Nat) (r : Region) : State :=
  s.updCluster c fun cl => { cl with regions := tset cl.regions n r }

/-- Entries of the copy unit's queue in use: jobs and the copies of FILLING regions (R208, R303). -/
def Cluster.copyUsed (cl : Cluster) : Nat :=
  cl.copyQ.length + (cl.regions.filter fun p => p.2.state == .filling).length

/-- What a touch of one word finds. -/
inductive Touch
  /-- The word may be read. -/
  | clear (s : State)
  /-- The word is empty and the touch waits. -/
  | wait (s : State)
  /-- The word lies in the unwritten rows of a FAULTED entry. -/
  | fault (c n : Nat) (f : FaultRec) (s : State)

/-- The trap of a touch that meets the recorded cause of region entry n of cluster c (R305). -/
def FaultRec.regionTrap (f : FaultRec) (c n : Nat) : TrapInfo :=
  { TrapInfo.at f.cause f.addr with origin := some (.region c n) }

/-- A word lies in the rows of a window that its copy has not written. -/
def Region.unwritten (r : Region) (key : Nat) : Bool := decide (r.win + r.rows * r.rowb ≤ key) && decide (key < r.win + r.len)

/-- A touched word may be read, the write that filled it acquired (R236), or is empty and the touch waits (R303). -/
def State.touchFull (s : State) (t key : Nat) : Touch := if s.feFull key then .clear (s.acquireEngine t) else .wait s

/-- A touch of one word by thread t or an engine that works for it (R303): the first touch of an ABSENT entry starts
its copy, once the copy unit's queue has room, with its refusals counted afresh; an empty word waits; a word of the
unwritten rows of a FAULTED entry meets the recorded cause, with whose delivery the entry is ABSENT again (R305). -/
def State.touchWord (s : State) (t key : Nat) : Touch :=
  match s.regionAt (clusterOf t) key with
  | none => .clear s
  | some (n, r) =>
    let c := clusterOf t
    match r.state, r.fault with
    | .faulted, some f =>
      if r.unwritten key then .fault c n f s else s.touchFull t key
    | .absent, _ =>
      if (s.cluster c).copyUsed ≥ 64 then .wait s
      else (s.setRegion c n { r with state := .filling, touched := t :: r.touched, refusals := 0, after := 0 }).touchFull t key
    | _, _ => s.touchFull t key

/-- A touch by a strand: the recorded cause traps precisely. -/
def State.touch (s : State) (t key : Nat) : Except Stop State :=
  match s.touchWord t key with
  | .clear s' => .ok s'
  | .wait s' => .error (.waitIn (.touch (wordKey key)) s')
  | .fault c n f s' => .error (.trapIn (f.regionTrap c n) s')

/-- Touches of the words of an access to the cluster's own SRAM, through any window. -/
def State.touchRange (s : State) (t : Nat) (g : Target) : Except Stop State :=
  if isSram g.key && g.home == clusterOf t then s.touch t g.key else .ok s

/-! ### Strongly ordered source reads (R219, R228) -/

/-- The cluster's registers as the job's context has them: live while that context is on the cluster, else as they
were at acceptance. -/
def State.withRoots (s : State) (c : Nat) (j : Job) : State :=
  if s.ctxOf c = j.ctx && (s.cluster c).run != .empty then s
  else s.updCluster c fun cl => { cl with ptroot := j.ptroot, ownroot := j.ownroot, ctxReg := j.ctxReg }

/-- The page that a job has entered for an address, on its source side or not (R210). -/
def enteredPage (l : List PageIn) (src : Bool) (va : Nat) : Option PageIn :=
  l.find? fun p => p.src == src && p.page == va / 65536

/-- An address of a job's source lies in an SO page. -/
def State.soSource (s : State) (c : Nat) (j : Job) (va : Nat) : Bool :=
  match enteredPage j.pages true va with
  | some p => (p.leaf.map leafKind) == some 1
  | none => match windowOf va with
    | some w => (match (s.withRoots c j).place j.t va 1 0 w .read with
      | .ok (g, _) => g.kind == 1
      | .error _ => false)
    | none => false

/-- The job has source words of an SO page still to read. -/
def State.soLeft (s : State) (c : Nat) (j : Job) : Bool :=
  let span (lo hi : Nat) : Bool := (List.range (hi / 65536 + 1 - lo / 65536)).any fun i =>
    s.soSource c j (max lo ((lo / 65536 + i) * 65536))
  match j.kind with
  | .rows rowb nrow sstr _ => (List.range (nrow - j.ofs)).any fun i =>
      let a := (j.src + wordOf (j.ofs + i) * sstr).toNat
      span a (a + rowb - 1)
  | .ms .. => false
  | _ => span (j.src.toNat + j.ofs) (j.src.toNat + j.len - 1)

/-- A pull of strand (t, x), accepted before one numbered `id` where that is given, has SO source words still to read. They are
accesses of the strand (R219), so that its later SO accesses wait for them: the SO accesses of all strands form one order
that agrees with each strand's program order (R228). -/
def State.soHeld (s : State) (t : Nat) (x : Side) (id : Option Nat) : Bool :=
  let c := clusterOf t
  (s.cluster c).copyQ.any fun j =>
    j.t == t && j.x == x && !j.held && !j.armed && (id.all fun n => decide (j.id < n)) && decide (j.ofs < j.len) && s.soLeft c j

/-! ### One element -/

/-- An element of an access: register element number, address, place. -/
structure Elem where
  i  : Nat
  va : Word
  g  : Target

/-- PAGE_KIND for a plain store to an AT or RS page and a plain load of an RS page (R188); the management range takes
loads only (R27, R378). -/
def kindBad (g : Target) (store : Bool) : Bool := if store then g.kind == 3 || g.kind == 4 else g.kind == 4

/-- Every element is checked before any is accessed; the lowest that fails decides (R193). An element of a vector
access names its lane, whose slice it reaches in the LANE window; a scalar access reaches lane 0's (R23, R192). An access of
an SO page waits for the SO source words of the strand's earlier pulls (R228). -/
def State.checkElems (s : State) (t n sw : Nat) (store : Bool) : List (Nat × Word × Option Nat) →
    Except Stop (List Elem × State)
  | [] => .ok ([], s)
  | (i, va, lane) :: r =>
    match s.resolve t va n n sw (if store then .store else .read) store with
    | .error x => .error x
    | .ok (g, s1) =>
      let g := if g.win = .lane then { g with key := g.key + (lane.getD 0) * 1024 } else g
      if g.win = .lane ∧ n = 8 ∧ lane.isSome then .error (.at .align va)
      else if kindBad g store then .error (.at .pageKind va)
      else if g.kind == 1 && s1.soHeld s1.curT s1.curX none then .error (.wait .ordered)
      else
        match s1.checkElems t n sw store r with
        | .error x => .error x
        | .ok (l, s2) => .ok (⟨i, va, g⟩ :: l, s2)

/-- Touches of every element that is read. -/
def State.touchAll (s : State) (t : Nat) : List Elem → Except Stop State
  | [] => .ok s
  | e :: r =>
    match s.touchRange t e.g with
    | .error x => .error x
    | .ok s' => s'.touchAll t r

/-- Admission of the requests of an access, to each die beyond a boundary that it reaches (R39, R194). -/
def State.admitAll (s : State) (cls : Nat) : List Elem → Except Stop State
  | [] => .ok s
  | e :: r =>
    match s.admitReq (targetDie s.curT e.g) cls with
    | .error x => .error x
    | .ok s' => s'.admitAll cls r

/-- Elements read in ascending order: their values, the first that met poison, the state after. -/
def State.readElems (s : State) (t : Nat) (x : Side) (n : Nat) (acq : Bool) : List Elem →
    List (Nat × Nat) × Option Word × State
  | [] => ([], none, s)
  | e :: r =>
    let rs := s.relOf e.g.key
    let s1 := if acq then s.acquireAll t 6 rs else s.updStrand t x fun st => st.observe e.g.home rs
    let (bs, bad, s2) := s1.readBytes t x e.g n acq
    let (l, p, s3) := s2.readElems t x n acq r
    ((e.i, leNat bs) :: l, if bad then some e.va else p, s3)

/-- The bits of the bytes of a word that a mask names. -/
def byteSpread (mask : BitVec 8) : Word :=
  (List.range 8).foldl (fun v i => if mask.getLsbD i then v ||| (255 : Word) <<< (8 * i) else v) 0

/-- A store that follows another of the same instruction to the same word joins it, so that the word's bytes reach SRAM
together (R30, R221); the later element's bytes remain (R193). -/
def Store.join (a b : Store) : Store :=
  { a with mask := a.mask ||| b.mask, val := (a.val &&& ~~~(byteSpread b.mask)) ||| (b.val &&& byteSpread b.mask) }

/-- The last two stores on their way are one when they write one word. -/
def joinLast (l : List Store) : List Store :=
  match l.reverse with
  | b :: a :: r => if a.t = b.t ∧ a.x = b.x ∧ a.key = b.key then (a.join b :: r).reverse else l
  | _ => l

/-- Elements stored in ascending order (R193), from one that follows an element at key `prev`. -/
def State.storeFrom (s : State) (t : Nat) (x : Side) (n : Nat) (rel : List Release) (val : Nat → Nat) (prev : Option Nat) :
    List Elem → State
  | [] => s
  | e :: r =>
    let s := s.storeBytes t x e.g (leBytes n (val e.i)) rel
    let s := if isSram e.g.key && prev == some (wordKey e.g.key) then { s with stores := joinLast s.stores } else s
    s.storeFrom t x n rel val (some (wordKey e.g.key)) r

def State.storeElems (s : State) (t : Nat) (x : Side) (n : Nat) (rel : List Release) (val : Nat → Nat) (l : List Elem) : State :=
  s.storeFrom t x n rel val none l

/-- An accepted load: its results, or the POISON that it consumes (R41, R384). -/
def State.retireLoad (s : State) (la : BitVec 4) (ws : List RegWrite) (poison : Option Word) : State :=
  match poison with
  | none => s.retire la true ws
  | some va =>
    let id := s.my.order
    (s.updMy fun st => st.accept la .plain true []).answerOp s.curT s.curX id [] (some (TrapInfo.at .poison va))

/-! ### Scalar forms (R189) -/

/-- TY of the load and store group (R188). -/
def memTy (t : Ty) : Bool := tyIsInt t || tyIsFloat t || t == .b

def loadDesc (e : Enc) : Desc :=
  { legal := e.fn == 0 && memTy e.ty, gs := .oneOf [0, 1], sw := true, sa := sReg, imm := .role true }
def storeDesc (e : Enc) : Desc :=
  { legal := e.fn == 0 && memTy e.ty, gs := .oneOf [0, 2], sw := true, sa := sReg, imm := .role true, daSrc := true }

/-- Base plus offset (R61). -/
def effAddr (s : State) (e : Enc) : Word := s.my.getS e.sa.idx.toNat + sextImm e.imm

/-- What the description of the row permits. -/
def ldDesc (e : Enc) : Desc :=
  { loadDesc e with da := dstSlot }

/-- `ld` (R189), long. -/
def execLd (e : Enc) (s : State) : Host.Outcome State Fault Refusal :=
  issue (ldDesc e) e s fun s => do
    let n := tyWidth false e.ty / 8
    let _ ← s.needRoom e.da 1 true
    let (l, s) ← s.checkElems s.curT n e.sw.toNat false [(0, effAddr s e, none)]
    let s ← s.touchAll s.curT l
    let s ← s.admitAll 0 l
    let (vs, bad, s) := s.readElems s.curT s.curX n (e.gs == 1) l
    let v := ((vs.head?).map (·.2)).getD 0
    pure (s.retireLoad e.la [destWrite s.my e.da (loadValue e.ty v)] bad)

/-- The releases that a store carries, and the state after its own release when it is `.rel` (R188, R224, R226). -/
def State.storeRelease (s : State) (rel : Bool) : List Release × State :=
  let fence := s.storeRel s.curT s.curX
  if rel then
    let (r, s') := s.release s.curT s.curX 6
    (fence ++ [r], s')
  else (fence, s)

/-- What the description of the row permits. -/
def stDesc (e : Enc) : Desc :=
  { storeDesc e with da := .of [.scalar, .queue] }

/-- `st` (R189): short, or long when it pops a queue (R37). -/
def execSt (e : Enc) (s : State) : Host.Outcome State Fault Refusal :=
  issue (stDesc e) e s fun s => do
    let n := tyWidth false e.ty / 8
    let _ ← s.needEntry e.da
    let (l, s) ← s.checkElems s.curT n e.sw.toNat true [(0, effAddr s e, none)]
    let (v, ws, s) ← s.readScalar e.ty e.imm e.da
    let (rel, s) := s.storeRelease (e.gs == 2)
    let s := s.storeElems s.curT s.curX n rel (fun _ => v.toNat) l
    pure (s.retire e.la (e.da.cls == .queue) ws)

/-! ### Vector forms (R190 to R193) -/

/-- Enabled elements of w bits under the guard, ascending (R62). -/
def enabledElems (st : Strand) (e : Enc) (w : Nat) : List Nat :=
  (List.range (2048 / w)).filter fun i => laneOn (st.guard e) w i

/-- Addresses of the elements of `vld` and `vst` (R190, R192): element number, address, lane. -/
def contiguous (a : Word) (w : Nat) (l : List Nat) : List (Nat × Word × Option Nat) :=
  match l.head? with
  | none => []
  | some i0 =>
    if windowOf (a + wordOf (i0 * w / 8)).toNat = some .lane then
      l.map fun i => (i, wordOf ((a.toNat + i * w / 8 % 4) % 1024), some (i * w / 32))
    else l.map fun i => (i, a + wordOf (i * w / 8), some (i * w / 32))

/-- The range check of `vld` and `vst` from the first enabled element to the last (R190, R26). -/
def rangeCheck (a : Word) (w : Nat) (l : List Nat) (store : Bool) : Except Stop Unit :=
  match l.head?, l.getLast? with
  | some i0, some i1 =>
    let lo := a + wordOf (i0 * w / 8)
    match windowCheck lo.toNat ((i1 - i0 + 1) * w / 8) (w / 8) (if store then .store else .read) store with
    | .error c => .error (.at c lo)
    | .ok _ => .ok ()
  | _, _ => .ok ()

/-- Elements at a signed byte stride (R191). -/
def strided (a st : Word) (w : Nat) (l : List Nat) : List (Nat × Word × Option Nat) :=
  l.map fun i => (i, a + wordOf i * st, some (i * w / 32))

/-- Elements at the sign-extended indices of a vector (R191). -/
def indexed (a : Word) (b : VReg) (w : Nat) (l : List Nat) : List (Nat × Word × Option Nat) :=
  l.map fun i => (i, a + ((BitVec.ofNat w (b.toNat / 2 ^ (w * i))).signExtend 64), some (i * w / 32))

/-- Elements placed in a vector. -/
def packElems (w : Nat) (l : List (Nat × Nat)) : VReg :=
  BitVec.ofNat 2048 (l.foldl (fun a p => a + (p.2 % 2 ^ w) * 2 ^ (w * p.1)) 0)

/-- Mask of the elements that a guard enables. -/
def elemMask (g : PReg) (w : Nat) : VReg :=
  BitVec.ofNat 2048 ((List.range (2048 / w)).foldl (fun a i => if laneOn g w i then a + (2 ^ w - 1) * 2 ^ (w * i) else a) 0)

/-- Element i of a vector at width w (R119). -/
def elemOf (w : Nat) (v : VReg) (i : Nat) : Nat := v.toNat / 2 ^ (w * i) % 2 ^ w

/-- A vector load once its elements' addresses are known. -/
def vectorLoad (e : Enc) (s : State) (range : Except Stop Unit) (l : List (Nat × Word × Option Nat)) : Except Stop State := do
  let w := tyWidth true e.ty
  let _ ← s.needRoom e.da 1 true
  let _ ← range
  let (els, s) ← s.checkElems s.curT (w / 8) e.sw.toNat false l
  let s ← s.touchAll s.curT els
  let s ← s.admitAll 0 els
  let g := s.my.guard e
  let (vs, bad, s) := s.readElems s.curT s.curX (w / 8) (e.gs == 1) els
  pure (s.retireLoad e.la [destWriteV s.my e.da (elemMask g w) (packElems w vs)] bad)

/-- The data source of a vector store: a register or every unread word of a queue entry (R44, R190). -/
def State.readVec (s : State) (o : Operand) : Read VReg :=
  match o.cls with
  | .queue => s.popVector o.idx.toNat
  | _ => .ok (s.me.getV o.idx.toNat, [], s)

def vectorStore (e : Enc) (s : State) (range : Except Stop Unit) (l : List (Nat × Word × Option Nat)) : Except Stop State := do
  let w := tyWidth true e.ty
  let _ ← s.needEntry e.da
  let _ ← range
  let (els, s) ← s.checkElems s.curT (w / 8) e.sw.toNat true l
  let (v, ws, s) ← s.readVec e.da
  let (rel, s) := s.storeRelease (e.gs == 2)
  let s := s.storeElems s.curT s.curX (w / 8) rel (elemOf w v) els
  pure (s.retire e.la (e.da.cls == .queue) ws)

def vDst : Slot := .of [.vector, .queue]

/-- What the description of the row permits. -/
def vldDesc (e : Enc) : Desc :=
  { loadDesc e with da := vDst, vec := true }

/-- `vld` (R190). -/
def execVld (e : Enc) (s : State) : Host.Outcome State Fault Refusal :=
  issue (vldDesc e) e s fun s =>
    let w := tyWidth true e.ty
    let l := enabledElems s.my e w
    vectorLoad e s (rangeCheck (effAddr s e) w l false) (contiguous (effAddr s e) w l)

/-- What the description of the row permits. -/
def vstDesc (e : Enc) : Desc :=
  { storeDesc e with da := vDst, vec := true }

/-- `vst` (R190). -/
def execVst (e : Enc) (s : State) : Host.Outcome State Fault Refusal :=
  issue (vstDesc e) e s fun s =>
    let w := tyWidth true e.ty
    let l := enabledElems s.my e w
    vectorStore e s (rangeCheck (effAddr s e) w l true) (contiguous (effAddr s e) w l)

/-- What the description of the row permits. -/
def vldsDesc (e : Enc) : Desc :=
  { loadDesc e with da := vDst, sb := sReg, vec := true }

/-- `vlds` (R191). -/
def execVlds (e : Enc) (s : State) : Host.Outcome State Fault Refusal :=
  issue (vldsDesc e) e s fun s =>
    let w := tyWidth true e.ty
    vectorLoad e s (.ok ()) (strided (effAddr s e) (s.my.getS e.sb.idx.toNat) w (enabledElems s.my e w))

/-- What the description of the row permits. -/
def vstsDesc (e : Enc) : Desc :=
  { storeDesc e with da := vDst, sb := sReg, vec := true }

/-- `vsts` (R191). -/
def execVsts (e : Enc) (s : State) : Host.Outcome State Fault Refusal :=
  issue (vstsDesc e) e s fun s =>
    let w := tyWidth true e.ty
    vectorStore e s (.ok ()) (strided (effAddr s e) (s.my.getS e.sb.idx.toNat) w (enabledElems s.my e w))

/-- The indexed forms need a TY of 32 or 64 bits (R191). -/
def indexTy (t : Ty) : Bool := memTy t && (tyWidth true t == 32 || tyWidth true t == 64)

/-- What the description of the row permits. -/
def vldxDesc (e : Enc) : Desc :=
  { loadDesc e with legal := e.fn == 0 && indexTy e.ty, da := vDst, sb := vReg, vec := true }

/-- `vldx` (R191). -/
def execVldx (e : Enc) (s : State) : Host.Outcome State Fault Refusal :=
  issue (vldxDesc e) e s fun s =>
    let w := tyWidth true e.ty
    vectorLoad e s (.ok ()) (indexed (effAddr s e) (s.me.getV e.sb.idx.toNat) w (enabledElems s.my e w))

/-- What the description of the row permits. -/
def vstxDesc (e : Enc) : Desc :=
  { storeDesc e with legal := e.fn == 0 && indexTy e.ty, da := vDst, sb := vReg, vec := true }

/-- `vstx` (R191). -/
def execVstx (e : Enc) (s : State) : Host.Outcome State Fault Refusal :=
  issue (vstxDesc e) e s fun s =>
    let w := tyWidth true e.ty
    vectorStore e s (.ok ()) (indexed (effAddr s e) (s.me.getV e.sb.idx.toNat) w (enabledElems s.my e w))

end Sys2Proof.Machine
end

