-- ==== Sys2Proof/Machine/Sync.lean ====
section
/-! DEFINITION. Synchronisation instructions (R242 to R270): full/empty words, counters, barriers, sequence words,
watches, the arm table. -/

namespace Sys2Proof.Machine

/-! ### Shared -/

/-- The fields that the group shares (R242). -/
def syncDesc (e : Enc) (scope : Bool) : Desc :=
  { legal := e.fn == 0 && e.ty == .none, gs := if scope then .scope [0, 1, 2, 3, 4, 5, 6] else .unused }

/-- Eight words of a 64-byte record at a 64-byte aligned address, read as a plain load (R157, R265, R284, R302). -/
def State.recordLoad (s : State) (va : Word) (sw : Nat) : Except Stop (List Word × State) := do
  match windowCheck va.toNat 64 64 .read false with
  | .error c => .error (.at c va)
  | .ok _ =>
    let (els, s) ← s.checkElems s.curT 8 sw false ((List.range 8).map fun i => (i, va + wordOf (8 * i), none))
    let s ← s.touchAll s.curT els
    let s ← s.admitAll 0 els
    let (vs, bad, s) := s.readElems s.curT s.curX 8 false els
    match bad with
    | some a => .error (.at .poison a)
    | none => .ok (vs.map fun p => wordOf p.2, s)

/-- Whether a target's memory carries FE bits, else PAGE_KIND (R244). -/
def feTarget (g : Target) : Bool := hasFe g.key

/-! ### Full/empty words (R244 to R249) -/

/-- A touch by an `ldsync`, which waits in line once the copy has begun (R303). -/
def State.touchStart (s : State) (t key : Nat) : Except Stop State :=
  match s.touch t key with
  | .error (.waitIn c s') =>
    if ((s'.regionAt (clusterOf t) key).map (·.2.state)) == some .absent then .error (.waitIn c s') else .ok s'
  | r => r

/-- Fields of `ldsync` and `stsync` (R242). -/
def feDesc (e : Enc) (fn : Nat) : Desc :=
  { legal := e.fn.toNat == fn && memTy e.ty, gs := .scope [0, 1, 2, 3, 4, 5, 6], sw := true, da := sReg, sa := sReg
    imm := .role true }

/-- The place of an `ldsync`: `.take` refuses a POD address (R245), a memory without FE bits is PAGE_KIND (R244). -/
def State.fePlace (s : State) (e : Enc) (take store : Bool) : Except Stop (Target × State) := do
  let n := tyWidth false e.ty / 8
  let va := effAddr s e
  match windowCheck va.toNat n 1 .read store with
  | .error c => .error (.at c va)
  | .ok w =>
    if take && w == .pod then .error (.at .notOwner va)
    else
      let (g, s) ← s.resolve s.curT va n n e.sw.toNat (if store then .store else .read) store
      if feTarget g then .ok (g, s) else .error (.at .pageKind va)

/-- `ldsync` in both forms. A request whose condition holds on arrival is served at once; the others wait in line
(R246, log 31). -/
def ldsyncBody (take : Bool) (e : Enc) (s : State) : Except Stop State := do
  let (g, s) ← s.fePlace e take false
  let t := s.curT
  let x := s.curX
  if g.home ≠ clusterOf t then
    s.present (targetDie t g) 0 (.ldsync g.key (effAddr s e) e.ty e.da.idx.toNat e.gs.toNat)
  else
    let s := s.drainStores t x
    let s ← s.touchStart t g.key
    if s.feFull g.key then
      if s.poisoned g.key (tyWidth false e.ty / 8) then .error (.at .poison (effAddr s e)) else
      let (v, s) := s.ldsyncRead t x g.key e.ty take e.gs.toNat
      .ok ((s.retire e.la true [.s e.da.idx.toNat v]).served g.key 1)
    else .error (.waitIn (.word g.key)
      { s with waiters := s.waiters ++ [⟨t, x, g.key, effAddr s e, .load e.ty e.da.idx.toNat take e.gs.toNat, false⟩] })

/-- `ldsync` (R245 to R247), long. -/
def execLdsync (e : Enc) (s : State) : Host.Outcome State Fault Refusal := issue (feDesc e 0) e s (ldsyncBody false e)

/-- `ldsync.take` (R245). -/
def execLdsyncTake (e : Enc) (s : State) : Host.Outcome State Fault Refusal := issue (feDesc e 1) e s (ldsyncBody true e)

/-- What the description of the row permits. -/
def stsyncDesc (e : Enc) : Desc :=
  { feDesc e 0 with daSrc := true }

/-- `stsync` (R245, R246). -/
def execStsync (e : Enc) (s : State) : Host.Outcome State Fault Refusal :=
  issue (stsyncDesc e) e s fun s => do
    let (g, s) ← s.fePlace e false true
    let t := s.curT
    let x := s.curX
    let s := s.drainStores t x
    let v := s.my.getS e.da.idx.toNat
    if !s.feFull g.key then .ok ((s.stsyncWrite t x g.key e.ty v e.gs.toNat).next.served g.key 1)
    else .error (.waitIn (.word g.key)
      { s with waiters := s.waiters ++ [⟨t, x, g.key, effAddr s e, .store e.ty v e.gs.toNat, false⟩] })

/-- A range of a whole number of words checked as R29 lays down, in one SRAM window with FE bits (R244, R248). -/
def State.feRange (s : State) (va : Word) (n sw : Nat) : Except Stop (Window × State) :=
  match spanCheck va.toNat n 8 .store true with
  | .error c => .error (.at c va)
  | .ok w =>
    if n % 8 ≠ 0 then .error (.at .align va)
    else match w with
      | .core | .clus | .cave => .ok (w, s)
      | _ =>
        if n = 0 then .error (.at .pageKind va)
        else match s.place s.curT va.toNat 1 sw w .store with
          | .error c => .error (.at c va)
          | .ok _ => .error (.at .pageKind va)

/-- Key of a byte of an SRAM window of the issuing strand's cluster. -/
def localKey (t : Nat) (w : Window) (sw b : Nat) : Nat :=
  let a := swizzle sw w b
  match w with
  | .core => sramKey (clusterOf t) (t / 8 % 8) (a - 0x100000)
  | .clus => sramKey (clusterOf t) 8 (a - 0x200000)
  | .cave => sramKey (clusterOf t) 9 (a - 0x400000)
  | _ => sramKey (clusterOf t) (16 + t / 8 % 8) a

/-- What the description of the row permits. -/
def fesetDesc (e : Enc) : Desc :=
  { legal := e.fn.toNat ≤ 1 && e.ty == .none, sw := true, sa := sReg, sb := sReg, imm := .role true }

/-- `feset` (R248): the word at `%prog`, in one event. -/
def execFeset (e : Enc) (s : State) : Host.Outcome State Fault Refusal :=
  issue (fesetDesc e) e s fun s => do
    let b := s.my.getS e.sb.idx.toNat
    if b.extractLsb' 32 32 ≠ 0 then .error (.cause .reservedField)
    else
      let va := effAddr s e
      let n := b.toNat
      let (w, s) ← s.feRange va n e.sw.toNat
      let s := s.drainStores s.curT s.curX
      let done := s.my.prog.toNat
      if n ≤ done then s.rangeStep 0 0
      else
        let k := localKey s.curT w e.sw.toNat (va.toNat + done)
        ((if e.fn = 1 then s.setFull k else s.setEmpty k).served k 8).rangeStep n (done + 8)

/-- What the description of the row permits. -/
def festatDesc (e : Enc) : Desc :=
  { syncDesc e false with sw := true, da := sReg, sa := sReg, imm := .role true }

/-- `festat` (R249): the FE bits of the aligned 128-byte line. -/
def execFestat (e : Enc) (s : State) : Host.Outcome State Fault Refusal :=
  issue (festatDesc e) e s fun s => do
    let va := effAddr s e
    let (g, s) ← s.resolve s.curT va 1 1 e.sw.toNat .read false
    if !feTarget g then .error (.at .pageKind va)
    else
      let s ← s.admitReq (targetDie s.curT g) 0
      let s := s.drainStores s.curT s.curX
      let base := g.key / 128 * 128
      let bits := (List.range 16).foldl (fun a i => if s.feFull (base + 8 * i) then a + 2 ^ i else a) 0
      .ok (s.retire e.la false [.s e.da.idx.toNat (wordOf (bits + if bits = 0xFFFF then 0x10000 else 0))])

/-! ### Counters (R250 to R257) -/

def State.counter (s : State) (c k : Nat) : Counter := (tget (s.cluster c).counters k).getD Counter.zero
def State.setCounter (s : State) (c k : Nat) (v : Counter) : State :=
  s.updCluster c fun cl => { cl with counters := tset cl.counters k v }

/-- An arrival of amount m (R251). -/
def Counter.arrive (v : Counter) (m : Nat) : Counter :=
  if !v.pending then
    if v.val.toNat + m > 2 ^ 32 - 1 then { v with val := BitVec.allOnes 32, ovr := true }
    else { v with val := v.val + BitVec.ofNat 32 m }
  else if m < v.val.toNat then { v with val := v.val - BitVec.ofNat 32 m }
  else if m > 0 then { v with ovr := v.ovr || decide (m > v.val.toNat), ph := v.ph + 1, val := v.rld }
  else v

/-- A fault posted to a counter: the first is kept (R250, R256). -/
def Counter.post (v : Counter) (f : FaultRec) : Counter := if v.flt.isSome then v else { v with flt := some f }

/-- An arm entry's condition (R267). -/
def armHolds (r : ArmRec) (v : Counter) : Bool :=
  if r.phase then decide ((v.ph - r.thr.setWidth 16).toNat < 2 ^ 15) else decide (v.val.toNat ≥ r.thr.toNat)

/-- Firing order: value conditions by ascending THR, then phase conditions, ties by the order of arming (R267). -/
def fireBefore (a b : Nat × ArmEntry) : Bool :=
  let key (e : ArmEntry) : Nat × Nat := if e.form.phase then (2 ^ 32, e.seq) else (e.form.thr.toNat, e.seq)
  let x := key a.2
  let y := key b.2
  decide (x.1 < y.1) || (x.1 == y.1 && decide (x.2 ≤ y.2))

def insertFire (a : Nat × ArmEntry) : List (Nat × ArmEntry) → List (Nat × ArmEntry)
  | [] => [a]
  | b :: r => if fireBefore a b then a :: b :: r else b :: insertFire a r

/-- What a counter's value reflects for an action of thread t: the releases that added to it, and those of watched words that
lie within the watch's own scope (R224, R237). -/
def Counter.relFor (v : Counter) (t : Nat) : List Release :=
  v.rel ++ v.seen.flatMap fun p => p.2.filter fun r => inScope p.1.scope t r.tid

/-- ARM_FIRE (R267): every entry of the counter whose condition holds fires once. -/
def State.fireArms (s : State) (c k : Nat) : State :=
  let v := s.counter c k
  let due := ((s.cluster c).arms.filter fun p => p.2.state == .armed && p.2.form.ctr == k && armHolds p.2.form v).foldl
    (fun l p => insertFire p l) []
  due.foldl (fun s p =>
    s.updCluster c fun cl =>
      { cl with arms := tset cl.arms p.1 { p.2 with state := .fired }
                actions := cl.actions ++ [⟨p.1, p.2.form, p.2.t, p.2.ctx, p.2.limit, 0, s.cycleOf (c / 128), .idle, v.relFor p.2.t, none⟩] }) s

/-- Releases that answers brought which read a word with one home and one scope. -/
def seenAt (l : List (Watched × List Release)) (w : Watched) : List Release :=
  ((l.find? fun p => p.1 == w).map (·.2)).getD []

/-- A `cwait` that returns on increments of watches has read their words: each synchronises at its watch's scope, and all are
observed for a later fence (R224, R226, R233). -/
def State.acquireSeen (s : State) (t : Nat) (x : Side) (l : List (Watched × List Release)) : State :=
  l.foldl (fun s p => (s.acquireAll t p.1.scope p.2).updStrand t x fun st => st.observe p.1.home p.2) s

/-- The trap of a fault that a `cwait` delivers (R256, R324): COPY_FAULT of a job, with the token that tracks it, or the
fault that a watch posted. -/
def counterFault (k : Nat) (f : FaultRec) : TrapInfo :=
  if f.job.isSome then ⟨.copyFault, some f.addr, f.cause.code, f.src, f.tok, some (.posted k f)⟩
  else ⟨f.cause, none, BitVec.ofNat 8 k, false, none, some (.posted k f)⟩

/-- One evaluation of a `cwait` by strand (t, x) (R255, R256): overrun, then a posted fault, then its condition. -/
def State.evalCwait (s : State) (t : Nat) (x : Side) (k : Nat) (ph : Bool) (a : Word) (scope pd : Nat) :
    Except Stop State :=
  let c := clusterOf t
  let v := s.counter c k
  if v.ovr then
    .error (.trapIn ⟨.barrierOverrun, none, BitVec.ofNat 8 k, false, none, some (.overrun k)⟩
      (s.setCounter c k { v with ovr := false }))
  else match v.flt with
    | some f => .error (.trapIn (counterFault k f) (s.setCounter c k { v with flt := none }))
    | none =>
      let age := (v.ph - a.setWidth 16).toNat
      let go := if ph then 1 ≤ age ∧ age < 2 ^ 15 else v.val.toNat ≥ a.toNat % 2 ^ 32
      if go then
        let s := ((s.acquireAll t scope v.rel).acquireSeen t x v.seen).acquireEngine t
        .ok (s.finish t x (if ph then [.p pd (BitVec.allOnes 256) (allBits (decide (2 ≤ age)))] else []))
      else .error (.wait (.counter k ph a scope pd))

/-- Strands of a cluster that wait in a `cwait` on a counter. -/
def State.cwaiters (s : State) (c k : Nat) : List (Nat × Side × Cond) :=
  (s.threads.filter fun p => clusterOf p.1 == c).flatMap fun p =>
    [Side.strandA, Side.strandX].filterMap fun x => match (p.2.strand x).status with
      | .waiting (.counter n ph a sc pd) => if n = k then some (p.1, x, .counter n ph a sc pd) else none
      | _ => none

/-- After each event of a counter: entries fire, then every `cwait` on it is tried again (R252). In a HALTED cluster
only a supervisor thread still waits (R338, R339). -/
def State.counterEvent (s : State) (c k : Nat) : State :=
  let s := s.fireArms c k
  (s.cwaiters c k).foldl (fun s w => match w with
    | (t, x, .counter n ph a sc pd) => s.settle t x (s.evalCwait t x n ph a sc pd)
    | _ => s) s

/-- An arrival reaches a counter (R251, R252); its releases are recorded with the counter (R232, R237). -/
def State.arrive (s : State) (c k m : Nat) (watch : Option Watched) (rel : List Release) : State :=
  let v := s.counter c k
  let v' := v.arrive m
  (s.setCounter c k (match watch with
    | some w => { v' with seen := v.seen.filter (fun p => p.1 != w) ++ [(w, rel.foldl addRel (seenAt v.seen w))] }
    | none => { v' with rel := rel.foldl addRel v.rel })).counterEvent c k

/-- A fault is posted to a counter (R252, R256). -/
def State.postFault (s : State) (c k : Nat) (f : FaultRec) : State :=
  (s.setCounter c k ((s.counter c k).post f)).counterEvent c k

/-- An arrival or posted fault on its way to a cluster's counter. -/
def State.sendArrival (s : State) (c : Nat) (a : Arrival) : State :=
  s.updCluster c fun cl => { cl with arrivals := cl.arrivals ++ [a] }

/-- Target of a counter reference (R253): cluster and counter, none when a reserved bit is set. -/
def counterRef (t : Nat) (a : Word) : Option (Nat × Nat) :=
  let k := (a.extractLsb' 0 6).toNat
  if a.extractLsb' 31 33 ≠ 0 ∨ a.extractLsb' 6 6 ≠ 0 then none
  else if a.getLsbD 12 then some ((a.extractLsb' 13 18).toNat, k)
  else if a.extractLsb' 13 18 ≠ 0 then none else some (clusterOf t, k)

/-- Checks of a cluster named by a message or a counter reference (R152 steps 1 to 3, R253). -/
def State.clusterCheck (s : State) (t c : Nat) : Option Cause :=
  if !s.member (deviceOf t) (c / 128) || s.outOfService c then some .unmapped
  else if s.fencedCluster c then some .homeFenced
  else if (s.cluster c).part ≠ (s.cluster (clusterOf t)).part then some .permission
  else none

/-- Where an arrival for a cluster goes (R349). -/
inductive Steer
  | live
  | log (i : Nat)
  | refuse
  | discard
  deriving DecidableEq, Repr

/-- The port's choice for an arrival of a context; messages and `cinc` come from threads (R348, R349). -/
def State.steer (s : State) (c ctx : Nat) (fromThread : Bool) : Steer :=
  let cl := s.cluster c
  let here := cl.run != .empty
  let idx := s.saved.zipIdx.filter fun p => p.1.cluster == c
  if here && s.ctxOf c == ctx then .live
  else match idx.find? (fun p => p.1.ctx == ctx) with
    | some p => .log p.2
    | none =>
      if fromThread then
        (if here then .live else match idx.getLast? with
          | some p => .log p.2
          | none => .refuse)
      else .discard

/-- Where an arrival on its way goes; one of a strand of the cluster itself for its own context passes no port (R349). -/
def State.steerArrival (s : State) (c : Nat) (a : Arrival) : Steer := s.steer c a.ctx a.sender.isSome

/-- Records for which a log has room (R348). -/
def Saved.space (sv : Saved) : Nat := (2 ^ (16 + sv.logn) - sv.logEnd) / 128

/-- Records of the i-th log, which is open on its cluster, for which no arrival on its way has room yet (R348). -/
def State.logSpace (s : State) (i : Nat) : Nat :=
  match s.saved[i]? with
  | none => 0
  | some sv =>
    sv.space - ((s.cluster sv.cluster).arrivals.filter fun a => s.steerArrival sv.cluster a == .log i).length

/-- The port refuses arrivals of a context: no place for them, or a log without room (R348, R349). -/
def State.portRefuses (s : State) (c ctx : Nat) (fromThread : Bool) (n : Nat) : Bool :=
  match s.steer c ctx fromThread with
  | .refuse => true
  | .log i => decide (s.logSpace i < n)
  | _ => false

/-- What the description of the row permits. -/
def cincDesc (e : Enc) : Desc :=
  { legal := e.fn == 0 && e.ty == .u32, gs := .scope [0, 1, 2, 3, 4, 5, 6], sa := sReg
    sb := .of [.scalar, .immediate] }

/-- A `cinc` of a strand that has reached the cluster whose counter it names joins the arrivals there (R251, R253). -/
def State.joinCinc (s : State) (t : Nat) (x : Side) : State :=
  match (s.strand t x).flight.bind Flight.here with
  | some (.cinc c k amt rel) => s.sendArrival c ⟨k, amt, none, rel, none, s.ctxOf (clusterOf t), some (t, x)⟩
  | _ => s

/-- `cinc` (R253): an arrival at a counter of its own or of a named cluster, a release at GS. At another cluster it is a request,
which that cluster's port may refuse (R4, R348, R349). -/
def execCinc (e : Enc) (s : State) : Host.Outcome State Fault Refusal :=
  issue (cincDesc e) e s fun s => do
    let t := s.curT
    let x := s.curX
    let (b, _, s) ← s.readScalar e.ty e.imm e.sb
    match counterRef t (s.my.getS e.sa.idx.toNat) with
    | none => .error (.cause .reservedField)
    | some (c, k) =>
      match if c = clusterOf t then none else s.clusterCheck t c with
      | some y => .error (.cause y)
      | none =>
        let (r, s) := s.release t x e.gs.toNat
        let rel := s.storeRel t x ++ [r]
        if c = clusterOf t then
          .ok (s.sendArrival c ⟨k, b.toNat % 2 ^ 32, none, rel, none, s.ctxOf (clusterOf t), some (t, x)⟩).next
        else
          .error (.waitIn .answer ((s.updMy fun st =>
            { st with flight := some (newFlight s t x (c / 32) 0 (some (.cinc c k (b.toNat % 2 ^ 32) rel))) }).joinCinc t x))

/-- IMM that names a counter (R242). -/
def counterImm (e : Enc) : ImmRule := .role (e.imm.extractLsb' 6 18 == 0)
def counterNum (e : Enc) : Nat := (e.imm.extractLsb' 0 6).toNat

/-- What the description of the row permits. -/
def csetCountDesc (e : Enc) : Desc :=
  { syncDesc e false with sa := sReg, imm := counterImm e }

/-- `cset.count` (R254). -/
def execCsetCount (e : Enc) (s : State) : Host.Outcome State Fault Refusal :=
  issue (csetCountDesc e) e s fun s =>
    let c := clusterOf s.curT
    let v := s.counter c (counterNum e)
    let v' := { v with pending := false, val := (s.my.getS e.sa.idx.toNat).setWidth 32, rld := 0, ovr := false }
    .ok ((s.setCounter c (counterNum e) v').next.counterEvent c (counterNum e))

/-- What the description of the row permits. -/
def csetPendDesc (e : Enc) : Desc :=
  { syncDesc e false with legal := e.fn == 1 && e.ty == .none, sa := sReg, sb := sReg, imm := counterImm e }

/-- `cset.pend` (R254). -/
def execCsetPend (e : Enc) (s : State) : Host.Outcome State Fault Refusal :=
  issue (csetPendDesc e) e s
    fun s =>
      let c := clusterOf s.curT
      let v := s.counter c (counterNum e)
      let v' := { v with pending := true, val := (s.my.getS e.sa.idx.toNat).setWidth 32
                         rld := (s.my.getS e.sb.idx.toNat).setWidth 32, ovr := false }
      .ok ((s.setCounter c (counterNum e) v').next.counterEvent c (counterNum e))

/-- What the description of the row permits. -/
def cwaitDesc (e : Enc) : Desc :=
  { syncDesc e true with sa := sReg, imm := counterImm e }

/-- `cwait` (R255, R256). -/
def execCwait (e : Enc) (s : State) : Host.Outcome State Fault Refusal :=
  issue (cwaitDesc e) e s fun s =>
    s.evalCwait s.curT s.curX (counterNum e) false (s.my.getS e.sa.idx.toNat) e.gs.toNat 0

/-- What the description of the row permits. -/
def cwaitPhDesc (e : Enc) : Desc :=
  { syncDesc e true with legal := e.fn == 1 && e.ty == .none, da := pRegSlot, sa := sReg, imm := counterImm e }

/-- `cwait.ph` (R255, R256). -/
def execCwaitPh (e : Enc) (s : State) : Host.Outcome State Fault Refusal :=
  issue (cwaitPhDesc e) e s
    fun s => s.evalCwait s.curT s.curX (counterNum e) true (s.my.getS e.sa.idx.toNat) e.gs.toNat e.da.idx.toNat

/-- The word that `cphase` reads (R257). -/
def Counter.word (v : Counter) : Word :=
  wordOf (v.val.toNat * 2 ^ 32 + (if v.flt.isSome then 2 ^ 18 else 0) + (if v.ovr then 2 ^ 17 else 0) +
    (if v.pending then 2 ^ 16 else 0) + v.ph.toNat)

/-- What the description of the row permits. -/
def cphaseDesc (e : Enc) : Desc :=
  { syncDesc e false with da := sReg, imm := counterImm e }

/-- `cphase` (R257). -/
def execCphase (e : Enc) (s : State) : Host.Outcome State Fault Refusal :=
  issue (cphaseDesc e) e s fun s =>
    .ok (s.retire e.la false [.s e.da.idx.toNat (s.counter (clusterOf s.curT) (counterNum e)).word])

/-! ### Barriers (R55, R258, R259) -/

/-- Key of a barrier: scope, instance, partition where the instances are separate for each, number. -/
def barrierKey (scope t part n : Nat) : Nat :=
  ((scope * 2 ^ 24 + scopeInstance scope t) * 64 + (if scope ≥ 4 then part else 0)) * 16 + n

/-- BARRIER_GENERATION_COMPLETE: every strand that waits on the generation goes on, having observed its arrivals. -/
def State.releaseBarrier (s : State) (key gen : Nat) (rel : List Release) : State :=
  s.threads.foldl (fun s p =>
    [Side.strandA, Side.strandX].foldl (fun s x =>
      if ((s.thread p.1).strand x).status = .waiting (.barrier key gen) then
        (s.updStrand p.1 x fun st => { st with obs := st.obs ++ rel }).finish p.1 x []
      else s) s) s

/-- A saved strand waits on a generation of a barrier (R259). -/
def State.savedWaits (s : State) (key gen : Nat) : Bool :=
  s.saved.any fun sv => sv.threads.any fun p =>
    p.2.a.status == .waiting (.barrier key gen) || p.2.x.status == .waiting (.barrier key gen)

/-- An arrival of the issuing strand at a barrier (R258). -/
def State.barArrive (s : State) (key count : Nat) : Except Stop State :=
  let b := (tget s.barriers key).getD Barrier.zero
  let cnt := if b.arrived = 0 then count else b.count
  let rel := b.rel ++ s.my.fenceRel
  if b.arrived + 1 ≥ cnt then
    let done := if s.savedWaits key b.gen then b.relDone ++ [(b.gen, rel)] else b.relDone
    let s := { s with barriers := tset s.barriers key ⟨b.gen + 1, 0, 0, [], done⟩ }
    let s := s.updMy fun st => { st with obs := st.obs ++ rel }
    .ok (s.next.releaseBarrier key b.gen rel)
  else
    .error (.waitIn (.barrier key b.gen) { s with barriers := tset s.barriers key { b with count := cnt, arrived := b.arrived + 1, rel := rel } })

/-- What the description of the row permits. -/
def barDesc (e : Enc) : Desc :=
  { syncDesc e true with sa := sReg, imm := .role (e.imm.extractLsb' 4 20 == 0) }

/-- `bar` (R258): a count of 0 and scope `ln` complete at once. -/
def execBar (e : Enc) (s : State) : Host.Outcome State Fault Refusal :=
  issue (barDesc e) e s fun s =>
    let count := (s.my.getS e.sa.idx.toNat).toNat % 2 ^ 32
    if count = 0 ∨ e.gs = 0 then .ok s.next
    else s.barArrive (barrierKey e.gs.toNat s.curT (s.cluster (clusterOf s.curT)).part.toNat (e.imm.extractLsb' 0 4).toNat) count

/-! ### Sequence words (R260) -/

/-- The word at its home after the cluster's dirty copies of its line reach it (R260, R273). -/
def State.homeFresh (s : State) (t : Nat) (x : Side) (g : Target) : State :=
  if isSram g.key then (s.drainStores t x).dropOwn (coreOf t) (g.key / 64)
  else (s.writeBackLine (clusterOf t) (g.key / 64)).dropOwn (coreOf t) (g.key / 64)

/-- The value of n bytes at their home, by home and page kind. -/
def State.valueAt (s : State) (key home kind n : Nat) : Nat :=
  if isSram key ∨ kind = 1 ∨ kind ≥ 3 then leNat (memRead s.mem key n)
  else (s.homeLine (homeSlice home key) (key / 64)).toNat / 2 ^ (8 * (key % 64)) % 2 ^ (8 * n)

/-- The value of a word at its home. -/
def State.homeValue (s : State) (g : Target) (n : Nat) : Nat := s.valueAt g.key g.home g.kind n

/-- A write performed at the home of a word: SRAM with its FE bit, the home slice, or memory for SO and AT pages. -/
def State.homeStore (s : State) (t : Nat) (g : Target) (n v : Nat) (rel : List Release) : State :=
  if isSram g.key then s.writeSram g.key (leBytes n v) rel
  else
    let s := s.recordRel g.key rel
    if g.kind = 1 ∨ g.kind ≥ 3 then
      ({ (s.clearPoison g.key n) with mem := memWrite s.mem g.key (leBytes n v) }).watchRange g.key n
    else
      let dm := s.lineDomain t g
      s.writeHome g.home g.key (leBytes n v) dm.1 dm.2.1 dm.2.2

/-- An advance of a sequence word (R260): whether it stored, and the state after. -/
def State.advance (s : State) (t : Nat) (x : Side) (g : Target) (w v scope : Nat) : Bool × State :=
  let s := s.homeFresh t x g
  if v % 2 ^ w > s.homeValue g (w / 8) then
    let (r, s) := s.release t x scope
    (true, s.homeStore t g (w / 8) (v % 2 ^ w) (s.storeRel t x ++ [r]))
  else (false, s)

/-- What the description of the row permits. -/
def advseqDesc (e : Enc) : Desc :=
  { legal := e.fn == 0 && (e.ty == .u32 || e.ty == .u64), gs := .scope [0, 1, 2, 3, 4, 5, 6], sw := true
    da := sReg, daSrc := true, sa := sReg, sb := pRegSlot, imm := .role true }

/-- `advseq` (R260). It reads its word, and so touches it (R303). -/
def execAdvseq (e : Enc) (s : State) : Host.Outcome State Fault Refusal :=
  issue (advseqDesc e) e s fun s => do
    let w := tyWidth false e.ty
    let va := effAddr s e
    let (g, s) ← s.resolve s.curT va (w / 8) (w / 8) e.sw.toNat .store true
    if kindBad g true then .error (.at .pageKind va)
    else if g.kind == 1 && s.soHeld s.curT s.curX none then .error (.wait .ordered)
    else
      let s ← s.touchRange s.curT g
      let (stored, s) := s.advance s.curT s.curX g w (s.my.getS e.da.idx.toNat).toNat e.gs.toNat
      .ok (s.retire e.la false [.p e.sb.idx.toNat (BitVec.allOnes 256) (allBits stored)])

/-! ### Watches (R261 to R264) -/

/-- The slice that holds watches and tickets on a place (R196): cave bank, cluster port, or L2 slice. -/
def holdingSlice (t : Nat) (g : Target) : Nat :=
  if isSram g.key then sliceCode (g.home / 32) (if sramUnit g.key = 9 then 1 else 2) (g.home % 32)
  else sliceCode (targetDie t g) 0 (sliceOf (keyPa g.key))

/-- A word that may not be watched (R261). -/
def watchBad (g : Target) : Bool :=
  if isSram g.key then g.win == .pod && sramUnit g.key ≥ 16
  else g.kind ≥ 3 || g.home == mgmtHome || isHostPa (keyPa g.key)

/-- What the description of the row permits. -/
def watchDesc (e : Enc) : Desc :=
  { legal := e.fn == 0 && (e.ty == .u32 || e.ty == .u64), gs := .scope [0, 1, 2, 3, 4, 5, 6], sw := true
    da := sReg, sa := sReg, sb := sReg, imm := .role true, misuse := e.sb.idx.toNat == 63 }

/-- `watch` (R261, R263): the checks, then the request to the word's home. -/
def execWatch (e : Enc) (s : State) : Host.Outcome State Fault Refusal :=
  issue (watchDesc e) e s fun s => do
    let w := tyWidth false e.ty
    let va := effAddr s e
    let (g, s) ← s.resolve s.curT va (w / 8) (w / 8) e.sw.toNat .read false
    if watchBad g then .error (.at .pageKind va)
    else
      let thr := s.my.getS e.sb.idx.toNat
      let ctl := s.my.getS (e.sb.idx.toNat + 1)
      let mode := ctl.getLsbD 6
      if ctl.extractLsb' 7 25 ≠ 0 ∨ (!mode ∧ ctl.extractLsb' 0 6 ≠ 0) then .error (.cause .reservedField)
      else
        s.present (targetDie s.curT g) 2
          (.watch g.key w thr ((ctl.extractLsb' 32 32).setWidth 64) (if mode then some (ctl.extractLsb' 0 6).toNat else none)
            (holdingSlice s.curT g) e.da.idx.toNat e.gs.toNat)

/-- The entry that a watch handle names, or none when its fields name none (R263). -/
def handleEntry (h : Word) : Option (Nat × BitVec 10) :=
  let cls := (h.extractLsb' 32 3).toNat
  if h.extractLsb' 48 16 ≠ 0 ∨ h.extractLsb' 1 8 ≠ 0 ∨ h.getLsbD 0 ∨ cls > 2 then none
  else some (sliceCode (h.extractLsb' 35 13).toNat cls (h.extractLsb' 27 5).toNat * 256 + (h.extractLsb' 19 8).toNat,
    h.extractLsb' 9 10)

/-- What the description of the row permits. -/
def unwatchDesc (e : Enc) : Desc :=
  { syncDesc e false with da := sReg, sa := sReg }

/-- `unwatch` (R264). A handle with no entry, or of a device that is not there, names no watch: GONE. -/
def execUnwatch (e : Enc) (s : State) : Host.Outcome State Fault Refusal :=
  issue (unwatchDesc e) e s fun s =>
    let h := s.my.getS e.sa.idx.toNat
    let die := (h.extractLsb' 35 13).toNat
    if (handleEntry h).isNone || !s.devices.any (fun p => p.1 == die / 4) then .ok (s.retire e.la false [.s e.da.idx.toNat 1])
    else s.present die 2 (.unwatch h e.da.idx.toNat)

/-! ### The arm table (R265 to R269) -/

/-- A pull control word that R207 accepts, with TEN clear as an armed pull needs; TOK is then no reserved field (R207,
R266). -/
def armControlOk (w : Word) (reduce : Bool) : Bool :=
  w.extractLsb' 47 17 == 0 && w.extractLsb' 32 3 == 0 && w.extractLsb' 0 3 == 0 && !w.getLsbD 39 &&
  !(reduce && w.getLsbD 35)

/-- The destination of an armed copy passes R208 items 1 to 3, an armed sequence word R27; a copy's source is checked when the
action runs (R266). -/
def armRangeOk (dst : Word) (len : Nat) : Bool :=
  match windowOf dst.toNat with
  | none => false
  | some w => w != .lane && (len == 0 || decide (dst.toNat + len ≤ w.limit)) && w.storable

/-- The record of `arm`, or none when R266 calls it BADREC. -/
def armRecord (l : List Word) : Option ArmRec :=
  match l with
  | [w0, w1, w2, w3, w4, w5, w6, w7] =>
    let act := (w0.extractLsb' 6 3).toNat
    let phase := w0.getLsbD 9
    let typ := (w0.extractLsb' 10 2).toNat
    let rm := (w0.extractLsb' 15 2).toNat
    let r : ArmRec := ⟨w1.setWidth 32, phase, act, (w0.extractLsb' 0 6).toNat,
      match rm with | 0 => .rne | 1 => .rtz | 2 => .rdn | _ => .rup, typ, w2, w3, w4⟩
    let fieldsOk := w0.extractLsb' 17 47 == 0 && w0.extractLsb' 12 3 == 0 && w1.extractLsb' 32 32 == 0 &&
      (!phase || w1.extractLsb' 16 16 == 0) && w5 == 0 && w6 == 0 && w7 == 0
    let actOk := match act with
      | 0 => typ == 0 && rm == 0 && armControlOk w4 false && armRangeOk w3 (w4.extractLsb' 0 32).toNat
      | 1 => typ ≤ 2 && (typ != 2 || rm == 0) && armControlOk w4 true && armRangeOk w3 (w4.extractLsb' 0 32).toNat
      | 2 => typ == 0 && rm == 0 && w4 == 0 && w3.extractLsb' 32 32 == 0 && (counterRef 0 w2).isSome
      | 3 => typ ≤ 1 && rm == 0 && w4 == 0 && armRangeOk w2 (if typ = 0 then 4 else 8)
      | 4 => typ == 0 && rm == 0 && w4 == 0 && w2.extractLsb' 28 36 == 0 && w2.extractLsb' 24 4 == 0
      | 5 => typ == 0 && rm == 0 && w4 == 0 && w3 == 0 && w2.extractLsb' 28 36 == 0 && w2.extractLsb' 24 4 == 0
      | _ => false
    if fieldsOk && actOk then some r else none
  | _ => none

def State.armEntry (s : State) (c n : Nat) : ArmEntry := (tget (s.cluster c).arms n).getD ArmEntry.zero
def State.setArm (s : State) (c n : Nat) (a : ArmEntry) : State :=
  s.updCluster c fun cl => { cl with arms := tset cl.arms n a }

/-- The lowest free arm entry (log 18). -/
def State.freeArm (s : State) (c : Nat) : Option Nat := (List.range 128).find? fun n => (s.armEntry c n).state == .free

/-- What the description of the row permits. -/
def armDesc (e : Enc) : Desc :=
  { syncDesc e false with sw := true, da := sReg, sa := sReg, sb := sReg, imm := .role true }

/-- `arm` (R265, R266). The spec gives FULL and BADREC no order: a record that is bad is BADREC whatever the table holds,
DESIGN CHOICE (log 85). An entry whose condition already holds fires at once, no event of the counter being in
progress. -/
def execArm (e : Enc) (s : State) : Host.Outcome State Fault Refusal :=
  issue (armDesc e) e s fun s => do
    let (l, s) ← s.recordLoad (effAddr s e) e.sw.toNat
    let c := clusterOf s.curT
    let put (d b : Word) (s : State) : State := s.retire e.la false [.s e.da.idx.toNat d, .s e.sb.idx.toNat b]
    match armRecord l with
    | none => .ok (put 0 2 s)
    | some r =>
      match s.freeArm c with
      | none => .ok (put 0 1 s)
      | some n =>
        let g := (s.armEntry c n).gen + 1
        let (seq, s) := s.fresh
        let s := s.setArm c n ⟨g, .armed, r, s.curT, s.curX, s.ctxOf c, s.me.syncretry.toNat, seq⟩
        .ok ((put (wordOf (n + g.toNat * 128)) 0 s).fireArms c r.ctr)

/-- What the description of the row permits. -/
def disarmDesc (e : Enc) : Desc :=
  { syncDesc e false with da := sReg, sa := sReg }

/-- `disarm` (R269). -/
def execDisarm (e : Enc) (s : State) : Host.Outcome State Fault Refusal :=
  issue (disarmDesc e) e s fun s =>
    let c := clusterOf s.curT
    let h := s.my.getS e.sa.idx.toNat
    let n := (h.extractLsb' 0 7).toNat
    let a := s.armEntry c n
    let put (v : Word) (s : State) : State := s.retire e.la false [.s e.da.idx.toNat v]
    if h.extractLsb' 16 48 ≠ 0 ∨ h.extractLsb' 7 9 ≠ a.gen then .ok (put 1 s)
    else match a.state with
      | .free | .fired => .ok (put 1 s)
      | .armed => .ok (put 0 (s.setArm c n { a with state := .free }))
      | .failed => .ok (put 2 (s.setArm c n { a with state := .free }))

end Sys2Proof.Machine
end

