-- ==== Sys2Proof/Machine/Message.lean ====
section
/-! DEFINITION. Messages, queue status, parking, spawning and reaping (R42 to R54, R151 to R158), the whey log's
appends (R348 to R350), and the steps by which a request is refused and presented again (R152, R194). -/

namespace Sys2Proof.Machine

/-! ### The whey log (R348 to R350) -/

/-- Bytes of a log record (R350). -/
def WheyRec.bytes (r : WheyRec) : List Byte :=
  leBytes 4 (r.kind + r.tgt * 2 ^ 8 + r.slot * 2 ^ 16 + r.flg.toNat * 2 ^ 24) ++ leBytes 4 r.amt ++ leBytes 8 r.info.toNat ++
  leBytes 48 r.cause ++ leBytes 64 r.data.toNat

/-- Memory key of a save area's byte (R343): its cluster's device, its physical address. -/
def areaKey (sv : Saved) (ofs : Nat) : Nat := physKey (sv.cluster / 128) (sv.area + ofs)

/-- A record appended to the log of the i-th open save area; LOGEND of the header rises (R346, R350). -/
def State.appendLog (s : State) (i : Nat) (r : WheyRec) (rel : List Release) (a : Option Arrival := none)
    (w : Option Watched := none) : State :=
  match s.saved[i]? with
  | none => s
  | some sv =>
    let at_ := areaKey sv (0x940000 + sv.logEnd)
    let s := s.memUpdate at_ 128 fun m => memWrite m at_ r.bytes
    let s := s.memUpdate (areaKey sv 0) 64 fun m => memWrite m (areaKey sv 56) (leBytes 8 (sv.logEnd + 128))
    let sv := { sv with logEnd := sv.logEnd + 128, logRel := sv.logRel ++ [(sv.logEnd, rel, w)]
                        logArr := match a with | some a => sv.logArr ++ [(sv.logEnd, a)] | none => sv.logArr }
    { s with saved := s.saved.set i sv }

/-- Messages already logged for a queue of a saved slot (R348). -/
def State.loggedFor (s : State) (sv : Saved) (slot q : Nat) : Nat :=
  ((List.range (sv.logEnd / 128)).filter fun n =>
    let k := areaKey sv (0x940000 + 128 * n)
    memGet s.mem k == 1 && (memGet s.mem (k + 1)).toNat == q && (memGet s.mem (k + 2)).toNat == slot).length

/-! ### Admission of messages (R47, R152) -/

/-- Whether queue q of a thread accepts from a sender: q0, or a channel bound to the sender's slot. -/
def Thread.accepts (th : Thread) (sender q : Nat) : Bool := q == 0 || tget th.bind (q - 8) == some sender

/-- What a message meets at its receiver. -/
inductive Admission
  | admitted (s : State)
  | refused
  | permission

/-- An entry enters a queue of a thread on the machine (R47). -/
def State.enqueue (s : State) (t q : Nat) (e : QEntry) : State :=
  s.updThread t fun th => th.push q e

/-- Context of a thread: its supervisor's cluster register for a supervisor thread. -/
def State.threadCtx (s : State) (t : Nat) : Nat := if (s.thread t).isSup then s.ctxOf (clusterOf t) else (s.thread t).ctx

/-- Where a message for a slot goes; a supervisor thread is there whatever the cluster's context is (R349). -/
def State.steerMsg (s : State) (sender dst : Nat) : Steer :=
  if ((s.thread? dst).map (·.isSup)).getD false then .live else s.steer (clusterOf dst) (s.threadCtx sender) true

/-- A message presented at its receiver (R47, R152 steps 3 to 5, R348). -/
def State.admitMsg (s : State) (sender : Nat) (m : Msg) : Admission :=
  let c := clusterOf m.dst
  if (s.cluster c).part ≠ (s.cluster (clusterOf sender)).part then .permission
  else match s.steerMsg sender m.dst with
    | .live =>
      (match s.thread? m.dst with
      | none => .refused
      | some th =>
        if th.accepts sender m.queue && decide ((th.getQ m.queue).length < queueCapacity m.queue) then
          .admitted (s.enqueue m.dst m.queue m.entry)
        else .refused)
    | .log i =>
      (match s.saved[i]? with
      | none => .refused
      | some sv =>
        match tget sv.threads m.dst with
        | none => .refused
        | some th =>
          if th.accepts sender m.queue && decide (0 < s.logSpace i) &&
              decide ((th.getQ m.queue).length + s.loggedFor sv (m.dst % 64) m.queue < queueCapacity m.queue) then
            .admitted (s.appendLog i ⟨1, m.queue, m.dst % 64,
              BitVec.ofNat 8 ((if m.entry.eos then 1 else 0) + if m.entry.words = 1 then 2 else 0), 0, wordOf sender, 0,
              m.entry.data.setWidth 512⟩ m.entry.rel)
          else .refused)
    | .refuse | .discard => .refused

/-! ### Sending (R151 to R154) -/

/-- Fields of a target word: queue and slot (R151). -/
def targetQueue (w : Word) : Nat := (w.extractLsb' 24 4).toNat
def targetSlot (w : Word) : Nat := (w.extractLsb' 0 24).toNat

/-- Steps 1 and 2 of R152. -/
def State.sendCheck (s : State) (t : Nat) (w : Word) : Option Cause :=
  let q := targetQueue w
  let c := clusterOf (targetSlot w)
  if w.extractLsb' 28 36 ≠ 0 ∨ (1 ≤ q ∧ q ≤ 7) then some .unmapped
  else if !s.member (deviceOf t) (c / 128) || s.outOfService c then some .unmapped
  else if s.fencedCluster c then some .homeFenced
  else none

/-- A send of the issuing strand: the checks, its release, the write-back for which the message waits in its cluster (R232),
then its first presentation. -/
def sendBody (e : Enc) (s : State) (entry : QEntry) : Except Stop State :=
  let w := s.my.getS e.sa.idx.toNat
  match s.sendCheck s.curT w with
  | some c => .error (.cause c)
  | none =>
    let (r, s) := s.release s.curT s.curX 6
    let s := s.writeBackMarked (clusterOf s.curT) r.pos
    let entry := { entry with rel := s.storeRel s.curT s.curX ++ [r] }
    s.present (dieOf (targetSlot w)) 3 (.send ⟨targetSlot w, targetQueue w, entry⟩)

/-- What the description of the row permits. -/
def sendDesc (e : Enc) : Desc :=
  { legal := e.fn == 0 && e.ty == .none, sa := sReg, sb := .of [.scalar, .vector] }

/-- `send` (R151, R152). -/
def execSend (e : Enc) (s : State) : Host.Outcome State Fault Refusal :=
  issue (sendDesc e) e s fun s =>
    sendBody e s (match e.sb.cls with
      | .vector => ⟨false, 8, 0, ((s.me.getV e.sb.idx.toNat).setWidth 512).setWidth 2048, [], none⟩
      | _ => QEntry.word (s.my.getS e.sb.idx.toNat))

/-- What the description of the row permits. -/
def sendeosDesc (e : Enc) : Desc :=
  { legal := e.fn == 0 && e.ty == .none, sa := sReg }

/-- `sendeos` (R151, R152). -/
def execSendeos (e : Enc) (s : State) : Host.Outcome State Fault Refusal :=
  issue (sendeosDesc e) e s fun s => sendBody e s QEntry.token

/-- The answer to a send's presentation (R152). -/
def State.answerSend (s : State) (t : Nat) (x : Side) (m : Msg) : State :=
  if s.fencedCluster (clusterOf m.dst) then s.replyTo t x (.trap (TrapInfo.plain .homeFenced))
  else match s.admitMsg t m with
    | .admitted s' => s'.replyTo t x (.done [])
    | .refused => s.refuse t x
    | .permission => s.replyTo t x (.trap (TrapInfo.plain .permission))

/-- MESSAGE_ARRIVAL (R47, R152, R348): the message of strand (t, x) meets its receiver. -/
def execMessageArrival (s : State) : Host.Outcome State Fault Refusal :=
  let t := s.curT
  let x := s.curX
  .next (match (s.strand t x).flight.bind Flight.here with
    | some (.send m) => s.answerSend t x m
    | _ => s)

/-! ### Refusals (R152, R194, R263) -/

/-- The trap of a request whose retries are exhausted. -/
def retryCause : Option Req → Cause
  | some (.watch ..) => .watchRetry
  | _ => .syncRetry

/-- A ticket entry and its update. -/
def State.ticket (s : State) (k : Nat) : Ticket := (tget s.tickets k).getD Ticket.zero
def State.setTicket (s : State) (k : Nat) (e : Ticket) : State := { s with tickets := tset s.tickets k e }

/-- A ticket dropped: the span's entries are FREE with END DROPPED (R197). -/
def State.freeTicket (s : State) (k : Nat) (last : TicketEnd) : State :=
  let e := s.ticket k
  let one (s : State) (j : Nat) : State :=
    s.setTicket (k + j) { s.ticket (k + j) with state := .free, last := last, freed := s.cycleOf (sliceDie (k / 1024) / 4), lines := [], data := [], fault := none, redeems := [] }
  (List.range (max e.span 1)).foldl one s

/-- Entries that a `tld` or `vtld` has allocated so far are dropped when it is abandoned (R201). -/
def State.dropAllocated (s : State) : Option Req → State
  | some (.ticket _ _ _ got) => got.foldl (fun s p => s.freeTicket p.1 .dropped) s
  | _ => s

/-- REFUSAL_RECEIVED: the refusal reaches the strand; after 1 + `%syncretry` refused presentations it traps, having
had no effect, else it is presented again 64 cycles later (R152, R194). -/
def execRefusalReceived (s : State) : Host.Outcome State Fault Refusal :=
  let t := s.curT
  let x := s.curX
  .next (match (s.strand t x).flight with
    | some f =>
      if f.phase = .refused then
        if f.refusals + 1 ≥ 1 + f.limit then
          (s.dropAllocated f.req).raise t x (TrapInfo.plain (retryCause f.req))
        else s.updStrand t x fun st =>
          { st with flight := some { f with phase := .backoff (s.now t + 64), refusals := f.refusals + 1 } }
      else s
    | none => s)

/-- A refused request is steered (R360) and presented again once its time has come. -/
def State.represent (s : State) (t : Nat) (x : Side) (send : Bool) : State :=
  match (s.strand t x).flight with
  | some f =>
    let isSend := match f.req with | some (.send _) => true | _ => false
    match f.phase with
    | .backoff n =>
      if n ≤ s.now t ∧ isSend = send then
        (s.updStrand t x fun st =>
          { st with flight := some { f with
              phase := if crossesLink t f.die then .atLink (s.elapsedOf (deviceOf t)) else .arrived
              since := s.now t, bound := 0, bounces := 0, gen := s.steerGen (deviceOf t) } }).joinCinc t x
      else s
    | _ => s
  | none => s

/-- REQUEST_REPRESENT (R194). -/
def execRequestRepresent (s : State) : Host.Outcome State Fault Refusal :=
  let t := s.curT
  let x := s.curX
  .next (s.represent t x false)
/-- SEND_REPRESENT (R152). -/
def execSendRepresent (s : State) : Host.Outcome State Fault Refusal :=
  let t := s.curT
  let x := s.curX
  .next (s.represent t x true)

/-! ### Queue status and parking (R155, R156) -/

/-- The status word of a queue (R155). -/
def queueStatus (q : Nat) (l : List QEntry) : Word :=
  let head := l.head?
  let part := (head.map fun e => decide (e.taken > 0)).getD false
  let heos := (head.map (·.eos)).getD false
  wordOf ((if part then 2 ^ 17 else 0) + (if heos then 2 ^ 16 else 0) + (queueCapacity q - l.length) * 256 + l.length)

/-- What the description of the row permits. -/
def qstatDesc (e : Enc) : Desc :=
  { legal := e.fn == 0 && e.ty == .none, da := sReg, imm := .role (e.imm.extractLsb' 4 20 == 0) }

/-- `qstat` (R155). -/
def execQstat (e : Enc) (s : State) : Host.Outcome State Fault Refusal :=
  issue (qstatDesc e) e s fun s =>
    let q := (e.imm.extractLsb' 0 4).toNat
    .ok (s.retire e.la false [.s e.da.idx.toNat (queueStatus q (s.me.getQ q))])

/-- A mask bit names a coupling queue that the strand pushes (R156). -/
def parkWrong (th : Thread) (x : Side) (mask : BitVec 16) : Bool :=
  (List.range 16).any fun q => mask.getLsbD q && decide (1 ≤ q ∧ q ≤ 7) && th.pusher q == x

/-- What the description of the row permits. -/
def parkDesc (e : Enc) : Desc :=
  { legal := e.fn == 0 && e.ty == .none, imm := .role (e.imm.extractLsb' 16 8 == 0) }

/-- `park` (R52, R156). R156 gives STRAND for a mask bit of a coupling queue that the strand pushes, and the order of R69 names
no step for it, as the strand check of step 4 is R33's list of instructions and operands: DEDUCED, it is a check of the
instruction's own description, made at step 8 after the wait mask and the guard (log 88). -/
def execPark (e : Enc) (s : State) : Host.Outcome State Fault Refusal :=
  issue (parkDesc e) e s fun s =>
    let mask := e.imm.extractLsb' 0 16
    if parkWrong s.me s.curX mask then .error (.cause .strand)
    else if parkedHead s.me mask then .ok s.next
    else .ok (s.updMy fun st => { st with status := .parked mask })

/-! ### Spawning (R48 to R51, R157) -/

/-- The record that eight words hold (R48), and whether R49 step 5 calls it BADREC for its own fields. -/
def spawnRecord (l : List Word) : SpawnRec × Bool :=
  let w (i : Nat) : Word := (l[i]?).getD 0
  let c := w 2
  let all := (w 7 ++ w 6 ++ w 5).toNat
  let r : SpawnRec :=
    { aPc := w 0, xPc := w 1, a1 := w 3, a2 := w 4, chb := c.extractLsb' 32 8, cdir := c.extractLsb' 25 7
      ntl := (c.extractLsb' 21 4).toNat, pri := (c.extractLsb' 19 2).toNat, scp := (c.extractLsb' 16 3).toNat
      pcl := (c.extractLsb' 9 7).toNat, cor := (c.extractLsb' 6 3).toNat, slt := (c.extractLsb' 3 3).toNat
      qd := (c.extractLsb' 2 1).toNat, bind := (List.range 8).map fun i => all / 2 ^ (24 * i) % 2 ^ 24 }
  (r, c.extractLsb' 40 24 != 0 || c.extractLsb' 0 2 != 0 || decide (r.scp ≥ 4) || decide (r.ntl > 8) ||
    r.aPc.extractLsb' 0 2 != 0 || r.xPc.extractLsb' 0 2 != 0)

/-- What the description of the row permits. -/
def spawnDesc (e : Enc) : Desc :=
  { legal := e.fn == 0 && e.ty == .none, sw := true, da := sReg, sa := sReg, sb := sReg, imm := .role true }

/-- The target cluster or core of a record is out of service, or the cluster is lent (R49 step 5). -/
def State.targetOut (s : State) (c : Nat) (r : SpawnRec) : Bool :=
  (s.cluster c).service == .offline || (s.cluster c).service == .lent || (decide (r.scp ≤ 1) && s.coreOut (c * 8 + r.cor))

/-- `spawn` (R49 steps 1 to 5, R157), whose results of BADREC are written at acceptance; steps 6 to 8 are
SPAWN_RECORD_ADMIT's. -/
def execSpawn (e : Enc) (s : State) : Host.Outcome State Fault Refusal :=
  issue (spawnDesc e) e s
    fun s => do
      let t := s.curT
      if !(s.cluster (clusterOf t)).ctxReg.getLsbD 17 then .error (.cause .permission)
      else
        let (l, s) ← s.recordLoad (effAddr s e) e.sw.toNat
        let (r, bad) := spawnRecord l
        let c := deviceOf t * 128 + r.pcl
        if (s.cluster c).part ≠ (s.cluster (clusterOf t)).part then .error (.cause .permission)
        else if s.fencedCluster c then .error (.cause .homeFenced)
        else if bad || s.targetOut c r then .ok (s.retire e.la false [.s e.da.idx.toNat 0, .s e.sb.idx.toNat 2])
        else s.present (c / 32) 0 (.spawn r e.da.idx.toNat e.sb.idx.toNat e.la)

/-- User threads of a cluster. -/
def State.userThreads (s : State) (c : Nat) : List (Nat × Thread) :=
  s.threads.filter fun p => clusterOf p.1 == c && !p.2.isSup

/-- SPAWN_CLAIM_END (R49): no user thread and no record of the claiming context. -/
def State.endClaim (s : State) (c : Nat) : State :=
  let cl := s.cluster c
  match cl.claim with
  | none => s
  | some x => if (s.userThreads c).isEmpty && !(cl.spawnQ.any fun r => r.ctx == x) then
      s.updCluster c fun cl => { cl with claim := none } else s

/-- R49 step 6: a thread of another context on the cluster, or a claim for one. -/
def State.otherCtx (s : State) (c ctx : Nat) : Bool :=
  ((s.userThreads c).any fun p => p.2.ctx != ctx) || ((s.cluster c).claim.any fun x => x != ctx)

/-- SPAWN_RECORD_ADMIT (R49 steps 6 to 8): the record of strand (t, x) reaches the spawn queue, and the `spawn` is accepted
(R39); its results come when the record is placed. -/
def execSpawnRecordAdmit (s : State) : Host.Outcome State Fault Refusal :=
  let t := s.curT
  let x := s.curX
  .next (match (s.strand t x).flight.bind Flight.here with
    | some (.spawn r da sb la) =>
      let c := deviceOf t * 128 + r.pcl
      let ctx := s.threadCtx t
      if s.otherCtx c ctx then s.replyTo t x (.done [.s da 0, .s sb 3])
      else if (s.cluster c).spawnQ.length ≥ 64 then s.replyTo t x (.done [.s da 0, .s sb 1])
      else
        let id := (s.strand t x).order
        let q : QueuedSpawn := ⟨s.nextId, r, t, some (x, id), ctx, (s.cluster c).part.toNat, s.cycleOf (c / 128), 0, none⟩
        let s := { s with nextId := s.nextId + 1 }
        let s := s.updCluster c fun cl =>
          { cl with spawnQ := cl.spawnQ ++ [q], claim := if cl.run == .empty then some ctx else cl.claim }
        let far := (s.strand t x).flight.bind (s.farOf t)
        s.updStrand t x fun st => st.acceptFar la (.spawn da sb) far
    | _ => s)

/-- Current priority (R50). -/
def QueuedSpawn.priority (q : QueuedSpawn) : Nat := min 3 (q.form.pri + q.aged)

/-- SPAWN_PRIORITY_AGE (R50): one step for every 4,096 cycles of waiting. -/
def execSpawnPriorityAge (s : State) : Host.Outcome State Fault Refusal :=
  let c := s.actor
  let n := s.item
  let age (q : QueuedSpawn) : QueuedSpawn :=
    if q.id = n ∧ q.priority < 3 ∧ q.since + 4096 * (q.aged + 1) ≤ s.cycleOf (c / 128) then { q with aged := q.aged + 1 } else q
  .next (s.updCluster c fun cl => { cl with spawnQ := cl.spawnQ.map age })

/-- Records by current priority, ties by arrival (R50). -/
def insertSpawn (q : QueuedSpawn) : List QueuedSpawn → List QueuedSpawn
  | [] => [q]
  | p :: r => if q.priority > p.priority then q :: p :: r else p :: insertSpawn q r

def spawnOrder (l : List QueuedSpawn) : List QueuedSpawn := l.foldl (fun a q => insertSpawn q a) []

/-- Slots of a core that are free, ascending; a core removed from service has none (R17). -/
def State.freeSlots (s : State) (k : Nat) : List Nat :=
  if s.coreOut k then [] else (List.range 8).filter fun j => (s.thread? (k * 8 + j)).isNone

/-- Tiles of a core allocated to its threads. -/
def State.tilesHeld (s : State) (k : Nat) : BitVec 8 :=
  (s.threads.filter fun p => coreOf p.1 == k).foldl (fun a p => a ||| p.2.acc) 0

def freeTiles (held : BitVec 8) : List Nat := (List.range 8).filter fun n => !held.getLsbD n

/-- Cores of a record's target within its cluster (R48, R50). -/
def targetCores (r : SpawnRec) : List Nat :=
  if r.scp ≤ 1 then [r.cor] else if r.scp = 2 then (List.range 4).map (· + 4 * r.qd) else List.range 8

/-- What waiting records reserve (R50): whole cores, slots, and cores whose tiles are kept. -/
structure Reserve where
  cores : List Nat
  slots : List Nat
  tiles : List Nat

/-- The place of a record, or none while it does not fit (R50). -/
def State.spawnPlace (s : State) (c : Nat) (rv : Reserve) (r : SpawnRec) : Option Nat :=
  let fits (k : Nat) : Bool :=
    let core := c * 8 + k
    !rv.cores.contains core && decide ((freeTiles (s.tilesHeld core)).length ≥ r.ntl) &&
    (r.ntl == 0 || !rv.tiles.contains core)
  let slotsOf (k : Nat) : List Nat := (s.freeSlots (c * 8 + k)).filter fun j => !rv.slots.contains ((c * 8 + k) * 8 + j)
  if r.scp = 0 then
    if fits r.cor && (slotsOf r.cor).contains r.slt then some ((c * 8 + r.cor) * 8 + r.slt) else none
  else
    let ks := (targetCores r).filter fun k => fits k && !(slotsOf k).isEmpty
    let best := ks.foldl (fun a k => match a with
      | none => some k
      | some b => if (s.freeSlots (c * 8 + k)).length > (s.freeSlots (c * 8 + b)).length then some k else some b) none
    best.bind fun k => ((slotsOf k).head?).map fun j => (c * 8 + k) * 8 + j

/-- What the first record that cannot be placed reserves (R50). -/
def State.reserveFor (s : State) (c : Nat) (r : SpawnRec) : Reserve :=
  if r.scp = 0 then
    let core := c * 8 + r.cor
    let free := (s.freeSlots core).contains r.slt
    ⟨[], [core * 8 + r.slt], if free then [core] else []⟩
  else ⟨(targetCores r).map (c * 8 + ·), [], []⟩

/-- The first record in the order that can be placed, with its slot (R50). -/
def State.firstPlace (s : State) (c : Nat) : List QueuedSpawn → Option Reserve → Option (QueuedSpawn × Nat)
  | [], _ => none
  | q :: r, rv =>
    match s.spawnPlace c (rv.getD ⟨[], [], []⟩) q.form with
    | some t => some (q, t)
    | none => s.firstPlace c r (some (rv.getD (s.reserveFor c q.form)))

/-- The record that the scheduler of a cluster places next; an OFFLINE, LENT or fenced cluster, or one that is HALTED
or whose SRAM still belongs to another context, places none (R337, R344, R385). -/
def State.nextPlacement (s : State) (c : Nat) : Option (QueuedSpawn × Nat) :=
  let cl := s.cluster c
  if cl.service != .inService || cl.run == .halted then none else s.firstPlace c (spawnOrder cl.spawnQ) none

/-- A cleared tile (R51). -/
def Tile.zero : Tile := ⟨List.replicate 4096 0, false, 0⟩

/-- The child of a record (R51). -/
def childThread (q : QueuedSpawn) (t : Nat) (acc : BitVec 8) (cycle : Nat) : Thread :=
  let r := q.form
  let strand (pc : Word) : Strand :=
    let st := { Strand.zero with pc := pc, nextIssue := cycle + 1 }
    ((st.setS 1 r.a1).setS 2 r.a2).setS 3 (wordOf q.parent)
  let _ := t
  { Thread.zero with
    a := strand r.aPc, x := strand r.xPc, prio := r.pri, acc := acc, cdir := r.cdir
    bind := ((r.bind.zipIdx).filter fun p => r.chb.getLsbD p.2).map fun p => (p.2, p.1)
    parent := q.parent, ctx := q.ctx }

def maskOf (l : List Nat) : BitVec 8 := l.foldl (fun a n => a ||| (1#8 <<< n)) 0

/-- A record placed in a slot: the child, its tiles cleared, the cluster RUNNING under its context (R50, R51, R336,
R337). A context starts on an EMPTY cluster with every counter zero (R250), and takes the context registers of the
parent's cluster (log 17). -/
def State.placeChild (s : State) (c : Nat) (q : QueuedSpawn) (t : Nat) : State :=
  let k := coreOf t
  let tiles := (freeTiles (s.tilesHeld k)).take q.form.ntl
  let s := s.setThread t (childThread q t (maskOf tiles) (s.now t))
  let s := s.updCore k fun co => { co with tiles := tiles.foldl (fun l n => tset l n Tile.zero) co.tiles }
  let from_ := s.cluster (clusterOf q.parent)
  s.updCluster c fun cl =>
    let cl := { cl with spawnQ := cl.spawnQ.filter (fun p => p.id != q.id), run := .running, sramCtx := some q.ctx
                        counters := if cl.run == .empty then [] else cl.counters }
    if (s.cluster c).run == .empty && clusterOf q.parent != c && q.result.isNone then
      { cl with ptroot := from_.ptroot, ctxReg := from_.ctxReg, watchdog := from_.watchdog } else cl

/-- Offset of a strand's part in a save area (R345, R347). -/
def strandOfs (t : Nat) (x : Side) : Nat := 0x20000 + t % 64 * 40960 + (match x with | .strandA => 0 | .strandX => 0x800)

/-- The results of `spawn` written into the image of a saved parent; the operation is no longer outstanding (R340). -/
def State.placedSaved (s : State) (q : QueuedSpawn) (x : Side) (id t : Nat) : State :=
  match s.saved.zipIdx.find? (fun p => p.1.ctx == q.ctx && (tget p.1.threads q.parent).isSome) with
  | none => s
  | some (sv, i) =>
    match tget sv.threads q.parent with
    | none => s
    | some th =>
      let st := th.strand x
      (match st.pend.find? (fun o => o.id == id) with
      | some ⟨_, _, _, .spawn da sb, _, _, _, _⟩ =>
        let put (m : List Host.Cell) (n : Nat) (v : Word) : List Host.Cell :=
          if n = 0 then m else memWrite m (areaKey sv (strandOfs q.parent x + 8 * n)) (leBytes 8 v.toNat)
        let th := th.setStrand x { st with pend := st.pend.filter fun o => o.id != id }
        let s := s.memUpdate (areaKey sv (strandOfs q.parent x)) 512 fun m => put (put m da (wordOf t)) sb 0
        { s with saved := s.saved.set i { sv with threads := tset sv.threads q.parent th } }
      | _ => s)

/-- A child of a load is placed: the load knows its name and goes on with the next record (R98). -/
def Device.childPlaced (dv : Device) (c id t : Nat) : Device :=
  { dv with loading := dv.loading.map fun l =>
      if l.wait = some (c, id) then { l with wait := none, recs := l.recs.drop 1, names := l.names ++ [t] } else l }

/-- The results of `spawn`, written at placement, or of the loader's result buffer (R157, R392). -/
def State.placed (s : State) (q : QueuedSpawn) (t : Nat) : State :=
  let s := match q.strand with
    | some (x, id) =>
      if (s.thread? q.parent).any fun th => th.isSup || th.ctx == q.ctx then
        (match (s.strand q.parent x).pend.find? (fun o => o.id == id) with
        | some ⟨_, _, _, .spawn da sb, _, _, _, _⟩ =>
          let s := s.result q.parent x (dieOf t) id [.s da (wordOf t), .s sb 0] none
          if crossesLink q.parent (dieOf t) then s else s.complete q.parent x id
        | _ => s)
      else s.placedSaved q x id t
    | none => s
  match q.result with
  | some key =>
    (s.physWrite (keyDevice key) (keyPa key) (leBytes 8 t) q.part 0 q.ctx).updDevice (keyDevice key) fun dv =>
      dv.childPlaced (clusterOf t) q.id t
  | none => s

/-- SPAWN_PLACEMENT (R50, R51): record n of cluster c is placed when it is the one that the scheduler places next; a
cluster whose SRAM belongs to another context waits for its scrub (R344). -/
def execSpawnPlacement (s : State) : Host.Outcome State Fault Refusal :=
  let c := s.actor
  let n := s.item
  .next (match s.nextPlacement c with
    | some (q, t) =>
      if q.id = n ∧ ((s.cluster c).sramCtx = none ∨ (s.cluster c).sramCtx = some q.ctx) then
        ((s.placeChild c q t).placed q t).endClaim c
      else s
    | none => s)

/-! ### The scrub (R344) -/

/-- Cells of memory outside a cluster's SRAM. -/
def State.clearSram (s : State) (c : Nat) : State :=
  let mine (k : Nat) : Bool := isSram k && sramCluster k == c
  { s with mem := s.mem.filter (fun p => !mine p.1), feEmpty := s.feEmpty.filter (fun k => !mine k)
           poison := s.poison.filter (fun k => !mine k), stores := s.stores.filter (fun st => !mine st.key)
           rel := s.rel.filter (fun p => !mine p.1) }

/-- Ticket entries at the port and cave bank of a cluster are freed with END DROPPED (R344). -/
def State.freePortTickets (s : State) (c : Nat) : State :=
  { s with tickets := s.tickets.map fun p =>
      if sliceCluster (p.1 / 1024) = some c ∧ p.2.state ≠ .free then
        (p.1, { p.2 with state := .free, last := .dropped, freed := s.cycleOf (c / 128), lines := [], data := [], fault := none, redeems := [] })
      else p }

/-- Scrub of a cluster: SRAM zero with every FE bit full, region table cleared, port and cave tickets freed. -/
def State.scrub (s : State) (c : Nat) : State :=
  ((s.clearSram c).freePortTickets c).updCluster c fun cl =>
    { cl with regions := cl.regions.map fun p => (p.1, { Region.zero with gen := p.2.gen }) }

/-- CLUSTER_SCRUB (R344): an EMPTY cluster whose SRAM belongs to another context scrubs itself for the context of the
record that is placed next. A load and the loader scrub where they need it. -/
def execClusterScrub (s : State) : Host.Outcome State Fault Refusal :=
  let c := s.actor
  let ctx := s.item
  let waits := (s.nextPlacement c).any fun p => p.1.ctx == ctx
  .next (if waits ∧ (s.cluster c).sramCtx ≠ none ∧ (s.cluster c).sramCtx ≠ some ctx ∧ (s.userThreads c).isEmpty then
    (s.scrub c).updCluster c fun cl => { cl with sramCtx := some ctx } else s)

/-! ### Reaping (R54, R158) -/

/-- Watches that pass a test are cancelled, at their homes and in saved tables (R54, R262). -/
def State.cancelWatches (s : State) (mine : Watch → Bool) : State :=
  let cancel (p : Nat × Watch) : Nat × Watch := if p.2.held && mine p.2 then (p.1, { p.2 with held := false }) else p
  { s with watches := s.watches.map cancel, saved := s.saved.map fun sv => { sv with watches := sv.watches.map cancel } }

/-- Message answers to a thread of a context go nowhere once it is reaped (R54). -/
def State.cancelAnswers (s : State) (t ctx : Nat) : State :=
  { s with answers := s.answers.filter (fun a => !(a.t == t && a.ctx == ctx && a.counter.isNone)) }

/-- Children of a thread of a context pass to another parent: those on the machine, in saved contexts and in spawn queues
(R54). -/
def State.passChildren (s : State) (t ctx parent : Nat) : State :=
  let pass (p : Nat × Thread) : Nat × Thread := if p.2.parent = t ∧ p.2.ctx = ctx then (p.1, { p.2 with parent := parent }) else p
  let passQ (q : QueuedSpawn) : QueuedSpawn := if q.parent = t ∧ q.ctx = ctx then { q with parent := parent, strand := none } else q
  { s with threads := s.threads.map pass, saved := s.saved.map fun sv => { sv with threads := sv.threads.map pass }
           clusters := s.clusters.map fun p => (p.1, { p.2 with spawnQ := p.2.spawnQ.map passQ }) }

/-- A cluster that holds no user thread is EMPTY (R337). -/
def State.settleRun (s : State) (c : Nat) : State :=
  if (s.userThreads c).isEmpty then (s.updCluster c fun cl => { cl with run := .empty }).endClaim c else s

/-- The slot of a thread freed: queues, registers and tiles discarded, watches cancelled, held jobs discarded,
children passed to its parent (R54, R352); a job that still runs has no token any more. -/
def State.freeSlot (s : State) (t : Nat) : State :=
  let th := s.thread t
  let c := clusterOf t
  let s := (s.cancelWatches fun w => w.t == t && w.ctx == th.ctx).cancelAnswers t th.ctx
  let s := { s with threads := tdel s.threads t, waiters := s.waiters.filter (fun w => w.t != t) }.passChildren t th.ctx th.parent
  let s := s.updCore (coreOf t) fun co => { co with tiles := co.tiles.filter (fun p => !th.acc.getLsbD p.1) }
  let keep (l : List Job) : List Job := (l.filter fun j => !(j.held && j.t == t)).map fun j =>
    if j.t == t then { j with tok := none } else j
  let s := s.updCluster c fun cl => { cl with copyQ := keep cl.copyQ, msQ := keep cl.msQ }
  s.settleRun c

/-- What the description of the row permits. -/
def reapDesc (e : Enc) : Desc :=
  { legal := e.fn == 0 && e.ty == .none, da := sReg, sa := sReg }

/-- A thread is the child of thread t: one of its own context, or of any for a supervisor thread (R54). -/
def State.childOf (s : State) (t : Nat) (th : Thread) : Bool :=
  !th.isSup && th.parent == t && ((s.thread t).isSup || th.ctx == (s.thread t).ctx)

/-- `reap` (R54, R158), long: it waits, leaving the rotation, until the child is drained. Its request to another die is
admitted as R194 lays down. -/
def execReap (e : Enc) (s : State) : Host.Outcome State Fault Refusal :=
  issue (reapDesc e) e s fun s =>
    let a := s.my.getS e.sa.idx.toNat
    let n := (a.extractLsb' 0 24).toNat
    let put (v : Word) (s : State) : State := s.retire e.la true [.s e.da.idx.toNat v]
    if a.extractLsb' 24 40 ≠ 0 ∨ deviceOf n ≠ deviceOf s.curT then .ok (put 1 s)
    else match s.admitReq (dieOf n) 0 with
      | .error x => .error x
      | .ok s =>
        match s.thread? n with
        | none => .ok (put 2 s)
        | some th =>
          if !s.childOf s.curT th then .ok (put 1 s)
          else if th.drained then .ok (put 0 (s.freeSlot n))
          else .error (.wait (.drained n))

end Sys2Proof.Machine
end

