-- ==== Sys2Proof/Machine/SyncEvents.lean ====
section
/-! DEFINITION. The steps of the synchronisation units: events at an SRAM word, remote `ldsync` requests, arrivals at
counters, placement, answer and cancellation of watches (R244 to R264, R348 to R350). -/

namespace Sys2Proof.Machine

/-! ### Full/empty words (R245 to R247) -/

/-- The oldest pending store of each strand, of those on a word. -/
def State.nextStoreAt (s : State) (key : Nat) : Option Store :=
  (s.stores.zipIdx.find? fun p =>
    wordKey p.1.key == wordKey key && !((s.stores.take p.2).any fun q => q.t == p.1.t && q.x == p.1.x)).map (·.1)

/-- FE_WORD_EVENT (R246): a store that is on its way to the word, if there is one, reaches it; then the waiting
requests are served in order. -/
def execFeWordEvent (s : State) : Host.Outcome State Fault Refusal :=
  let a := s.actor
  let s := match s.nextStoreAt a with
    | some st => s.performOne st.t st.x
    | none => s
  .next (s.serveWord a (s.waiters.length + 1))

/-- Waiting requests of a cluster's port (its units 0 to 8) or of its cave bank (unit 9) (R247). -/
def State.portWaiters (s : State) (key : Nat) : Nat :=
  (s.waiters.filter fun w =>
    w.remote && sramCluster w.key == sramCluster key && (sramUnit w.key == 9) == (sramUnit key == 9)).length

/-- REMOTE_LDSYNC_REQUEST (R247): the `ldsync` of strand (t, x) reaches the owner's port. -/
def execRemoteLdsyncRequest (s : State) : Host.Outcome State Fault Refusal :=
  let t := s.curT
  let x := s.curX
  .next (match (s.strand t x).flight.bind Flight.here with
    | some (.ldsync key va ty da scope) =>
      if (s.strand t x).status ≠ .waiting .answer then s
      else if s.fencedCluster (sramCluster key) then s.replyTo t x (.trap (TrapInfo.at .homeFenced va))
      else if s.feFull key then
        s.serveOne (⟨t, x, key, va, .load ty da false scope, true⟩ : Waiter)
      else if s.portWaiters key ≥ 256 then s.refuse t x
      else
        ({ s with waiters := s.waiters ++ [(⟨t, x, key, va, .load ty da false scope, true⟩ : Waiter)] }).updStrand t x
          fun st => { st with status := .waiting (.word key) }
    | _ => s)

/-! ### Counters (R251, R252, R348, R349) -/

/-- The log record of an arrival or a posted fault (R350). -/
def Arrival.record (a : Arrival) : WheyRec :=
  match a.fault with
  | some f => ⟨3, a.ctr, 0, 0, 0, f.addr, f.cause.code.toNat, 0⟩
  | none => ⟨2, a.ctr, 0, 0, a.amt, 0, 0, 0⟩

/-- The i-th log has room for an arrival, after those that came before it (R348). -/
def State.logHolds (s : State) (c i : Nat) (a : Arrival) : Bool :=
  let before := (s.cluster c).arrivals.takeWhile (· != a)
  decide ((before.filter fun b => s.steerArrival c b == .log i).length < ((s.saved[i]?).map Saved.space).getD 0)

/-- An arrival leaves the list of those on their way. -/
def State.dropArrival (s : State) (c : Nat) (a : Arrival) : State :=
  s.updCluster c fun cl => { cl with arrivals := cl.arrivals.erase a }

/-- An arrival on its way to a cluster is made, logged or discarded; none when the port refuses it (R348, R349). -/
def State.makeArrival (s : State) (c : Nat) (a : Arrival) : Option State :=
  let rest := s.dropArrival c a
  match s.steerArrival c a with
  | .live => some (match a.fault with
    | some f => rest.postFault c a.ctr f
    | none => rest.arrive c a.ctr a.amt a.watch a.rel)
  | .log i => if s.logHolds c i a then some (rest.appendLog i a.record a.rel (some a) a.watch) else none
  | .refuse => none
  | .discard => some rest

/-- The strand of a `cinc` from another cluster has its answer. -/
def State.replyCinc (s : State) (c : Nat) (a : Arrival) (r : Reply) : State :=
  match a.sender with
  | some (t, x) => (match (s.strand t x).flight.bind Flight.here with
    | some (.cinc ..) => if clusterOf t = c then s else s.replyTo t x r
    | _ => s)
  | none => s

/-- COUNTER_ARRIVAL (R251, R348, R349): the first arrival on its way to counter k of cluster c is made, logged, discarded or
refused. An armed increment, a watch answer, a credit or an end of a job finds room in the log, as it is on its way only once
the log has room for it (log 86). -/
def execCounterArrival (s : State) : Host.Outcome State Fault Refusal :=
  let c := s.actor
  let k := s.item
  .next (match (s.cluster c).arrivals.find? (fun a => a.ctr == k) with
    | none => s
    | some a =>
      match s.makeArrival c a with
      | some s' => s'.replyCinc c a (.done [])
      | none => if a.sender.isSome then (s.dropArrival c a).replyCinc c a .refused else s)

/-! ### Watches (R261 to R264) -/

/-- The handle of a watch that was answered when it was placed: only NOW is set (R263). -/
def handleNow : Word := 1

/-- The answer, from a die, of a watch that holds no entry. -/
def State.answerNow (s : State) (die t key : Nat) (tag : Word) (counter : Option Nat) (scope : Nat) (value : Word)
    (fenced : Bool) : State :=
  { s with answers := s.answers ++ [⟨s.nextId, die, t, s.threadCtx t, counter, value, tag, handleNow, fenced,
             s.relOf key, ⟨watchHome key, scope⟩, s.now t, false, .idle⟩]
           nextId := s.nextId + 1 }

def State.watchEntry (s : State) (k : Nat) : Watch := (tget s.watches k).getD Watch.zero

/-- The lowest free entry of a slice's watch table (R261, log 18). -/
def State.freeWatch (s : State) (sl : Nat) : Option Nat :=
  (List.range 256).find? fun n => !(s.watchEntry (sl * 256 + n)).held

/-- WATCH_PLACE_REQUEST (R261, R263): the watch of strand (t, x) reaches the word's home, and is answered, held or
refused. -/
def execWatchPlaceRequest (s : State) : Host.Outcome State Fault Refusal :=
  let t := s.curT
  let x := s.curX
  .next (match (s.strand t x).flight.bind Flight.here with
    | some (.watch key width thr tag counter sl da scope) =>
      let v := s.watchValue sl key width
      if s.fencedCluster (watchHome key) then
        (s.answerNow (sliceDie sl) t key tag counter scope 0 true).replyTo t x (.done [.s da handleNow])
      else if v ≥ thr.toNat % 2 ^ width then
        (s.answerNow (sliceDie sl) t key tag counter scope (wordOf v) false).replyTo t x (.done [.s da handleNow])
      else match s.freeWatch sl with
        | none => s.refuse t x
        | some n =>
          let k := sl * 256 + n
          let g := (s.watchEntry k).gen + 1
          let w : Watch := ⟨g, true, key, width, thr, tag, counter, t, s.threadCtx t,
            (s.cluster (clusterOf t)).part.toNat, scope⟩
          ({ s with watches := tset s.watches k w }).replyTo t x (.done [.s da (watchHandle k g.toNat)])
    | _ => s)

/-- Bytes of a message answer (R262). -/
def Answer.entry (a : Answer) : QEntry :=
  let body : BitVec 256 := (if a.fenced then (1 : BitVec 64) else 0) ++ a.handle ++ a.tag ++ a.value
  ⟨false, 8, 0, body.setWidth 2048, a.rel, some a.watch⟩

/-- An answer leaves the list of those on their way. -/
def State.dropAnswer (s : State) (id : Nat) : State := { s with answers := s.answers.filter (fun a => a.id != id) }

/-- An answer that is refused is offered again 64 cycles later (R262). -/
def State.refuseAnswer (s : State) (id : Nat) : State :=
  let set (a : Answer) : Answer := if a.id = id then { a with after := s.now a.t + 64, refused := true, net := .idle } else a
  { s with answers := s.answers.map set }

def State.setAnswerNet (s : State) (id : Nat) (n : Net) : State :=
  { s with answers := s.answers.map fun a => if a.id = id then { a with net := n } else a }

/-- A message answer is offered to the watcher's q0, or to the log of its context; none when it is refused (R262, R348, R349). -/
def State.offerAnswer (s : State) (a : Answer) : Option State :=
  let steer := if ((s.thread? a.t).map (·.isSup)).getD false then Steer.live else s.steer (clusterOf a.t) a.ctx false
  match steer with
  | .live =>
    (match s.thread? a.t with
    | none => some s
    | some th => if (th.getQ 0).length < queueCapacity 0 then some (s.enqueue a.t 0 a.entry) else none)
  | .log i =>
    (match s.saved[i]? with
    | none => some s
    | some sv =>
      let used := ((tget sv.threads a.t).map fun th => (th.getQ 0).length).getD 0
      if decide (0 < s.logSpace i) && decide (used + s.loggedFor sv (a.t % 64) 0 < queueCapacity 0) then
        let (info, s) := s.freeValue
        some (s.appendLog i ⟨1, 0, a.t % 64, 0, 0, info, 0, a.entry.data.setWidth 512⟩ a.rel none (some a.watch))
      else none)
  | .refuse | .discard => some s

/-- A counter answer becomes an arrival of 1; a FENCED one posts HOME_FENCED too (R261). A full log refuses it (R348). -/
def State.countAnswer (s : State) (a : Answer) (k : Nat) : Option State :=
  let c := clusterOf a.t
  if s.portRefuses c a.ctx false (if a.fenced then 2 else 1) then none
  else
    let s := s.sendArrival c ⟨k, 1, none, a.rel, some a.watch, a.ctx, none⟩
    some (if a.fenced then s.sendArrival c ⟨k, 0, some ⟨.homeFenced, 0, false, none, none, none⟩, [], some a.watch, a.ctx, none⟩ else s)

/-- An answer at its watcher; none when it is refused. -/
def State.takeAnswer (s : State) (a : Answer) : Option State :=
  match a.counter with
  | some k => s.countAnswer a k
  | none => s.offerAnswer a

/-- An answer is offered to its watcher: at once within a die, else as a packet of class WCH, which its first link admits or
refuses as a request (R262, R354, R356). Before it leaves, the releasing clusters have written back what they marked for the
releases of its word (R232). -/
def State.offer (s : State) (n : Nat) (again : Bool) : State :=
  match s.answers.find? (fun a => a.id == n) with
  | none => s
  | some a =>
    if a.refused = again ∧ a.after ≤ s.now a.t then
      let s := a.rel.foldl (fun s r => s.writeBackMarked (clusterOf r.tid) r.pos) s
      match s.ask a.die (dieOf a.t) 2 (s.partOf a.t) (.answer n) a.net with
      | .granted =>
        if crossesLink a.t a.die then s.dropAnswer n
        else match s.takeAnswer a with
          | some s' => s'.dropAnswer n
          | none => s.refuseAnswer n
      | .waits net s' => s'.setAnswerNet n net
      | .refused => s.refuseAnswer n
      | .failed _ s' => s'.refuseAnswer n
    else s

/-- WATCH_ANSWER_DELIVERY (R262): an answer reaches its watcher. -/
def execWatchAnswerDelivery (s : State) : Host.Outcome State Fault Refusal :=
  let n := s.actor
  .next (s.offer n false)
/-- WATCH_ANSWER_REOFFER (R262): an answer that q0 refused is offered again. -/
def execWatchAnswerReoffer (s : State) : Host.Outcome State Fault Refusal :=
  let n := s.actor
  .next (s.offer n true)

/-- UNWATCH_REQUEST (R264): the handle of strand (t, x) reaches its home. The spec does not say what it meets where the watch lies
in a port table that is saved: DESIGN CHOICE (log 111), GONE. -/
def execUnwatchRequest (s : State) : Host.Outcome State Fault Refusal :=
  let t := s.curT
  let x := s.curX
  .next (match (s.strand t x).flight.bind Flight.here with
    | some (.unwatch h da) =>
      (match handleEntry h with
      | none => s.replyTo t x (.done [.s da 1])
      | some (k, g) =>
        let w := s.watchEntry k
        if w.held && w.gen == g && w.part == (s.cluster (clusterOf t)).part.toNat then
          ({ s with watches := tset s.watches k { w with held := false } }).replyTo t x (.done [.s da 0])
        else s.replyTo t x (.done [.s da 1]))
    | _ => s)

end Sys2Proof.Machine
end

