-- ==== Sys2Proof/Machine/Tickets.lean ====
section
/-! DEFINITION. Tickets (R195 to R206, R238): `tld`, `vtld`, `rdm`, `rdmm`, `tstat`, `tdrop` and the steps at the
holding slice. -/

namespace Sys2Proof.Machine

/-! ### Ticket values (R195) -/

/-- Bits [47:5] of a ticket. -/
def ticketBits (slice ent span gen : Nat) : BitVec 43 :=
  BitVec.ofNat 43 (((sliceDie slice * 8 + sliceClass slice) * 32 + sliceIndex slice) * 2 ^ 22 + ent * 2 ^ 12 +
    (span - 1) * 2 ^ 10 + gen)

/-- The ticket of an entry (R195). -/
def State.ticketValue (s : State) (part slice ent span : Nat) (gen : BitVec 10) : Word :=
  let b := ticketBits slice ent span gen.toNat
  Config.ticketCheck part (s.keyGen part) b ++ b ++ (0 : BitVec 5)

def ticketSpan (w : Word) : Nat := (w.extractLsb' 15 2).toNat + 1
def ticketEnt (w : Word) : Nat := (w.extractLsb' 17 10).toNat
def ticketGen (w : Word) : BitVec 10 := w.extractLsb' 5 10
/-- Code of the holding slice. -/
def ticketSlice (w : Word) : Nat := sliceCode (w.extractLsb' 35 13).toNat (w.extractLsb' 32 3).toNat (w.extractLsb' 27 5).toNat
/-- Key of the first entry in the table of entries. -/
def ticketKey (w : Word) : Nat := ticketSlice w * 1024 + ticketEnt w

/-- Entries of a slice's ticket table (R196). -/
def ticketTable (slice : Nat) : Nat := if sliceClass slice = 0 then 1024 else 256

/-! ### `tld` and `vtld` (R200, R201) -/

/-- The eight words of line j of a range, in memory (R64, R200). -/
def State.lineTargets (s : State) (t va sw : Nat) (w : Window) : List Nat → Except Stop (List Target × State)
  | [] => .ok ([], s)
  | i :: r =>
    match s.place t (va + 8 * i) 8 sw w .read with
    | .error c => .error (.at c (wordOf (va + 8 * i)))
    | .ok (g, s1) =>
      match s1.lineTargets t va sw w r with
      | .error x => .error x
      | .ok (l, s2) => .ok (g :: l, s2)

/-- The lines of a chunk: range checks, translation and the page kinds that tickets refuse (R196, R200). -/
def State.chunkLines (s : State) (t : Nat) (va : Word) (span sw : Nat) : Except Stop (Nat × List TLine × State) :=
  match windowCheck va.toNat (64 * span) 64 .read false with
  | .error c => .error (.at c va)
  | .ok w =>
    if va.toNat % 65536 + 64 * span > 65536 then .error (.at .align va)
    else
      match s.lineTargets t va.toNat sw w (List.range (8 * span)) with
      | .error x => .error x
      | .ok (l, s) =>
        match l with
        | [] => .error (.at .unmapped va)
        | g :: _ =>
          if g.kind = 4 ∨ g.home = mgmtHome then .error (.at .pageKind va)
          else if g.kind == 1 && s.soHeld s.curT s.curX none then .error (.wait .ordered)
          else
            .ok (holdingSlice t g,
              (List.range span).map fun j => ⟨j, (((l.drop (8 * j)).take 8).map (·.key)), g.home, g.kind,
                isSram g.key && g.home == clusterOf t, List.range 8, 0, none⟩, s)

/-- Every chunk is checked before any ticket is made; the first that fails decides the trap (R201). -/
def State.allChunks (s : State) (t : Nat) (span sw : Nat) : List Word → Except Stop (List (Nat × List TLine) × State)
  | [] => .ok ([], s)
  | va :: r =>
    match s.chunkLines t va span sw with
    | .error x => .error x
    | .ok (h, ls, s1) =>
      match s1.allChunks t span sw r with
      | .error x => .error x
      | .ok (l, s2) => .ok ((h, ls) :: l, s2)

/-! ### Reading the lines (R197, R198, R200, R238) -/

/-- What the strand itself wrote to a line reaches its home, where the ticket reads it, and the core keeps no older copy of
it (R200, R222, R238). -/
def State.flushLine (s : State) (t : Nat) (x : Side) (l : TLine) : State :=
  let s := match l.keys.head? with
    | none => s
    | some k => if isSram k then s.drainStores t x else s.writeBackLine (clusterOf t) (k / 64)
  l.keys.foldl (fun s k => s.dropOwn (coreOf t) (k / 64)) s

/-- Whether the words of a line that are still to be read meet a fenced home, or poison. -/
def State.lineFault (s : State) (l : TLine) : Option Cause :=
  let sl (k : Nat) : Option Nat := if isSram k then none else homeSlice l.home k
  let bad (i : Nat) : Bool := (l.keys[i]?).any fun k => s.linePoisoned (sl k) k 8
  if l.home < hostHome && s.fencedCluster l.home then some .homeFenced else if l.todo.any bad then some .poison else none

/-- A strand of a context, on the machine or saved, observes the releases recorded with words that are read for it (R226,
R233, R238). -/
def State.observeWords (s : State) (t : Nat) (x : Side) (ctx home : Nat) (keys : List Nat) : State :=
  let see (st : Strand) : Strand := keys.foldl (fun st k => st.observe home (s.relOf k)) st
  if (s.thread? t).any fun th => th.isSup || th.ctx == ctx then s.updStrand t x see
  else
    let look (p : Nat × Thread) : Nat × Thread := if p.1 = t then (t, p.2.setStrand x (see (p.2.strand x))) else p
    { s with saved := s.saved.map fun sv => if sv.ctx = ctx then { sv with threads := sv.threads.map look } else sv }

/-- Word i of a line is read, or waits as a touch, or the line records the cause of a region copy (R198, R303). -/
def State.readWord (s : State) (t : Nat) (l : TLine) (i : Nat) : TLine × State :=
  let k := (l.keys[i]?).getD 0
  match (if l.touch then s.touchWord t k else .clear s) with
  | .wait s' => (l, s')
  | .fault c n f s' => ({ l with todo := [], fault := some (f.regionTrap c n) }, s')
  | .clear s' => ({ l with todo := l.todo.filter (· != i)
                           data := l.data ||| (BitVec.ofNat 512 (s'.valueAt k l.home l.kind 8) <<< (64 * i)) },
      if isSram k then s' else s'.touchHome (homeSlice l.home k) (k / 64))

/-- The words of a line that can be read now are read, or the line records why it cannot be read. -/
def State.readLine (s : State) (t : Nat) (x : Side) (ctx : Nat) (l : TLine) : TLine × State :=
  match s.lineFault l with
  | some c => ({ l with todo := [], fault := some (TrapInfo.plain c) }, s)
  | none =>
    let (l, s) := l.todo.foldl (fun p i => if p.1.todo.contains i then p.2.readWord t p.1 i else p) (l, s)
    (l, s.observeWords t x ctx l.home l.keys)

/-- The lines of a chunk are read at the instruction's place in its strand's program order, but for words of absent windows
that are still empty (R238, R303). -/
def State.readLines (s : State) (t : Nat) (x : Side) : List TLine → List TLine × State
  | [] => ([], s)
  | l :: r =>
    let (l, s) := (s.flushLine t x l).readLine t x (s.threadCtx t) l
    let (r, s) := s.readLines t x r
    (l :: r, s)

/-- The chunks' requests leave for their holding slices. -/
def ticketBody (e : Enc) (s : State) (n : Nat) : Except Stop State := do
  let span := e.fn.toNat + 1
  let _ ← s.needRoom e.da n false
  let base := effAddr s e
  let (l, s) ← s.allChunks s.curT span e.sw.toNat ((List.range n).map fun i => base + wordOf (64 * span * i))
  match l with
  | [] => .ok (s.retire e.la true [])
  | (h, _) :: _ => s.present (sliceDie h) 0 (.ticket l e.gs.toNat e.da [])

def tldDesc (e : Enc) : Desc :=
  { legal := e.fn.toNat ≤ 3 && e.ty == .none, gs := .oneOf [0, 1, 2, 3, 4, 5, 6, 7], sw := true, da := dstSlot, sa := sReg
    imm := .role true }

/-- `tld` (R200), long. -/
def execTld (e : Enc) (s : State) : Host.Outcome State Fault Refusal :=
  issue (tldDesc e) e s fun s => ticketBody e s 1

/-- What the description of the row permits. -/
def vtldDesc (e : Enc) : Desc :=
  { tldDesc e with sb := sReg }

/-- `vtld` (R201), long. -/
def execVtld (e : Enc) (s : State) : Host.Outcome State Fault Refusal :=
  issue (vtldDesc e) e s fun s =>
    let n := (s.my.getS e.sb.idx.toNat).toNat
    if n > 8 ∨ (e.da.cls = .scalar ∧ n > 0 ∧ e.da.idx.toNat + n > 64) then .error (.cause .operandClass)
    else ticketBody e s n

/-- An entry is free for allocation: FREE for 4,096 cycles or more, or never allocated (R197). -/
def State.entryFree (s : State) (k : Nat) : Bool :=
  let e := s.ticket k
  e.state == .free && (e.part.isNone || decide (e.freed + 4096 ≤ s.cycleOf (sliceDie (k / 1024) / 4)))

/-- The lowest run of free entries (log 18). -/
def State.freeRun (s : State) (slice span : Nat) : Option Nat :=
  (List.range (ticketTable slice)).find? fun i =>
    decide (i + span ≤ ticketTable slice) && (List.range span).all fun j => s.entryFree (slice * 1024 + i + j)

/-- The entries of a ticket taken by a chunk: each advances its generation, the first holds the state (R197). -/
def State.takeEntries (s : State) (t : Nat) (x : Side) (slice ent lease : Nat) (lines : List TLine) : State :=
  let part := (s.cluster (clusterOf t)).part.toNat
  (List.range lines.length).foldl (fun s j =>
    let k := slice * 1024 + ent + j
    let e := s.ticket k
    s.setTicket k { e with gen := e.gen + 1, state := .filling, part := some part, ctx := s.threadCtx t
                           span := if j = 0 then lines.length else 0, lease := lease, ends := 0
                           lines := if j = 0 then lines else [], data := [], fault := none, t := t, x := x, redeems := [] }) s

/-- Writes of finished tickets, in order (R200, R201). -/
def ticketWrites (dst : Operand) (l : List Word) : List RegWrite :=
  match dst.cls with
  | .queue => l.map fun v => .push dst.idx.toNat (QEntry.word v)
  | _ => (l.zipIdx).map fun p => .s (dst.idx.toNat + p.2) p.1

/-- TICKET_ALLOCATE (R197, R200, R201): the first chunk of strand (t, x) that still needs entries is given them, and its
lines are read, or is refused; once every chunk has them the tickets are written. -/
def execTicketAllocate (s : State) : Host.Outcome State Fault Refusal :=
  let t := s.curT
  let x := s.curX
  let first (f : Flight) (h : Nat) (lines : List TLine) (rest : List (Nat × List TLine)) (lease : Nat) (dst : Operand)
      (got : List (Nat × Word)) : State :=
    match s.freeRun h lines.length with
    | none => s.refuse t x
    | some ent =>
      let (lines, s) := s.readLines t x lines
      let s := s.takeEntries t x h ent lease lines
      let k := h * 1024 + ent
      let w := s.ticketValue ((s.cluster (clusterOf t)).part.toNat) h ent lines.length (s.ticket k).gen
      let got := got ++ [(k, w)]
      match rest with
      | [] => s.replyTo t x (.done (ticketWrites dst (got.map (·.2))))
      | (h', _) :: _ =>
        let req : Req := .ticket rest lease dst got
        (s.setFlight t x { f with req := some req }).replyTo t x (.next (sliceDie h') req)
  .next (match (s.strand t x).flight with
    | some f =>
      (match f.phase, f.req with
      | .arrived, some (.ticket ((h, lines) :: rest) lease dst got) => first f h lines rest lease dst got
      | _, _ => s)
    | none => s)

/-- TICKET_LEASE_EXPIRY (R199): a READY entry whose lease has run out. -/
def execTicketLeaseExpiry (s : State) : Host.Outcome State Fault Refusal :=
  let k := s.actor
  let e := s.ticket k
  .next (if e.state = .ready ∧ e.ends ≤ s.cycleOf (sliceDie (k / 1024) / 4) then s.freeTicket k .expired else s)

/-! ### Presenting a ticket (R198, R202 to R206) -/

/-- Step 1 of R198. -/
def State.ticketForm (s : State) (d : Nat) (w : Word) : Bool :=
  let sl := ticketSlice w
  w.extractLsb' 0 5 == 0 && decide (sliceClass sl ≤ 2) &&
  decide (ticketEnt w + ticketSpan w ≤ ticketTable sl) && (s.device d).members.contains (sliceDie sl / 4)

/-- Step 4 of R198. -/
def State.ticketCheckOk (s : State) (part : Nat) (w : Word) : Bool :=
  let e := s.ticket (ticketKey w)
  let owner := e.part.getD part
  owner == part && w.extractLsb' 48 16 == Config.ticketCheck part (s.keyGen part) (w.extractLsb' 5 43)

/-- What the holding slice answers (R198). -/
inductive TicketAnswer
  | ok
  | spent
  | expired
  | pending
  | fails
  | fenced
  deriving DecidableEq, Repr

def State.ticketAnswer (s : State) (d part : Nat) (w : Word) : TicketAnswer :=
  let sl := ticketSlice w
  let owner := sliceCluster sl
  if !s.ticketForm d w then .fails
  else if owner.any s.outOfService then .expired
  else if owner.any s.fencedCluster then .fenced
  else if !s.ticketCheckOk part w then .fails
  else
    let e := s.ticket (ticketKey w)
    if ticketGen w ≠ e.gen then .expired
    else match e.state, e.last with
      | .filling, _ => if e.span = 0 then .expired else .pending
      | .ready, _ => if e.ends ≤ s.cycleOf (sliceDie sl / 4) then .expired else .ok
      | .free, .redeemed => .spent
      | .free, _ => .expired

/-- The data of an entry, from byte 0 upward (R202). -/
def Ticket.bytes (e : Ticket) : VReg :=
  e.data.foldl (fun (v : VReg) (p : Nat × BitVec 512) => v ||| (p.2.setWidth 2048 <<< (512 * p.1))) 0

/-- Writes of a redeem into registers on OK (R202). -/
def redeemWrites (st : Strand) (da : Operand) (imm : BitVec 24) (sb : Nat) (e : Ticket) : List RegWrite :=
  (match da.cls with
  | .scalar => [.s da.idx.toNat ((e.bytes >>> (64 * (imm.extractLsb' 0 5).toNat)).setWidth 64)]
  | .vector => [.v da.idx.toNat (BitVec.allOnes 2048) e.bytes]
  | _ => [.push da.idx.toNat { QEntry.vector e.bytes with rel := st.pushRel }]) ++ [.s sb 0]

/-- The words of a redeem into memory, written as stores of the strand (R203), which are performed before
the status is written (R223). -/
def State.redeemStore (s : State) (t : Nat) (x : Side) (va : Word) (sw : Nat) (data : VReg) : List Nat → Except Stop State
  | [] => .ok s
  | i :: r =>
    match s.resolve t (va + wordOf (8 * i)) 8 8 sw .store true with
    | .error c => .error c
    | .ok (g, s1) =>
      let w := ((data >>> (64 * i)).setWidth 64).toNat
      (s1.storeBytes t x g (leBytes 8 w) (s1.storeRel t x)).redeemStore t x va sw data r

/-- The status of an answer (R198). -/
def TicketAnswer.code : TicketAnswer → Word
  | .ok => 0 | .spent => 1 | .expired => 2 | _ => 3

/-- A redeem that the slice answers OK: the entry becomes FREE with END REDEEMED and the data is delivered, or the
recorded cause is raised in place of OK (R198, R206). -/
def State.redeemOk (s : State) (t : Nat) (x : Side) (w : Word) (f : Ticket → State → State) : State :=
  let k := ticketKey w
  let e := s.ticket k
  let s := s.freeTicket k .redeemed
  match e.fault with
  | some i => s.replyTo t x (.trap i)
  | none => f e s

/-- The data of a redeem into memory at its core: its words are stored and performed, and its status is written (R203, R223). -/
def State.storeRedeemed (s : State) (t : Nat) (x : Side) (va : Word) (sw : BitVec 3) (sb span : Nat) (data : VReg) : State :=
  match s.redeemStore t x va sw.toNat data (List.range (8 * span)) with
  | .ok s' => (s'.drainStores t x).finish t x [.s sb 0]
  | .error (.trap i) => s.raise t x i
  | .error _ => s

/-- The strand goes on waiting for a FILLING ticket, after those that wait for it already (R206). -/
def State.awaitTicket (s : State) (t : Nat) (x : Side) (k : Nat) : State :=
  let e := s.ticket k
  (s.setTicket k { e with redeems := if e.redeems.contains (t, x) then e.redeems else e.redeems ++ [(t, x)] }).updStrand t x
    fun st => { st with status := .waiting .ticket }

def State.presentTicket (s : State) (t : Nat) (x : Side) (w : Word) (how : Present) : State :=
  let ans := s.ticketAnswer (deviceOf t) ((s.cluster (clusterOf t)).part.toNat) w
  match ans, how with
  | .fails, _ => s.replyTo t x (.trap (TrapInfo.plain .ticketCheck))
  | .fenced, _ => s.replyTo t x (.trap (TrapInfo.plain .homeFenced))
  | .pending, .redeem _ _ _ true => s.awaitTicket t x (ticketKey w)
  | .pending, .redeemMem _ _ _ true => s.awaitTicket t x (ticketKey w)
  | .ok, .redeem da imm sb _ => s.redeemOk t x w fun e s => s.replyTo t x (.done (redeemWrites (s.strand t x) da imm sb e))
  | .ok, .redeemMem va sw sb _ => s.redeemOk t x w fun e s =>
      if crossesLink t (sliceDie (ticketSlice w)) then s.replyTo t x (.next (dieOf t) (.redeemed va sw sb e.span e.bytes))
      else s.storeRedeemed t x va sw sb e.span e.bytes
  | a, .redeem _ _ sb _ => s.replyTo t x (.done [.s sb a.code])
  | a, .redeemMem _ _ sb _ => s.replyTo t x (.done [.s sb a.code])
  | a, .stat dst =>
    let e := s.ticket (ticketKey w)
    let left := if a = .ok then e.ends - s.cycleOf (sliceDie (ticketSlice w) / 4) else 0
    s.replyTo t x (.done [.s dst (a.code ||| wordOf (left * 2 ^ 32))])

/-- The redeems that wait for a ticket are answered, in their order of arrival (R206). -/
def State.serveRedeems (s : State) (k : Nat) (l : List (Nat × Side)) : State :=
  l.foldl (fun s p => match (s.strand p.1 p.2).status, (s.strand p.1 p.2).flight.bind Flight.here with
    | .waiting .ticket, some (.present _ w how) =>
      if ticketKey w = k then s.presentTicket p.1 p.2 w how else s
    | _, _ => s) s

/-- A line of a ticket is done: READY after the last, when the lease starts and the first redeem that waits has the data
(R197, R199, R206). -/
def State.lineDone (s : State) (k : Nat) (l : TLine) : State :=
  let e := s.ticket k
  let rest := e.lines.filter fun q => q.j != l.j
  let e' := { e with lines := rest, data := e.data ++ [(l.j, l.data)], fault := e.fault.or l.fault }
  if rest.isEmpty then
    (s.setTicket k { e' with state := .ready, ends := s.cycleOf (sliceDie (k / 1024) / 4) + 2 ^ (12 + e.lease), redeems := [] }).serveRedeems
      k e.redeems
  else s.setTicket k e'

/-- TICKET_LINE_FILL (R197, R200): line j of the ticket whose first entry is k is written to its entry, once every word of
it has been read. -/
def execTicketLineFill (s : State) : Host.Outcome State Fault Refusal :=
  let k := s.actor
  let j := s.item
  let e := s.ticket k
  .next (if e.state = .filling then
      (match e.lines.find? (fun l => l.j == j) with
      | none => s
      | some l =>
        let (l, s) := if l.todo.isEmpty then (l, s) else s.readLine e.t e.x e.ctx l
        if l.todo.isEmpty then s.lineDone k l
        else
          let set (q : TLine) : TLine := if q.j = l.j then l else q
          s.setTicket k { s.ticket k with lines := (s.ticket k).lines.map set })
    else s)

/-- A `tdrop` reaches its holding slice; redeems that wait for the ticket receive EXPIRED (R205, R206). -/
def State.dropTicket (s : State) (d part : Nat) (w : Word) : State :=
  let k := ticketKey w
  match s.ticketAnswer d part w with
  | .ok | .pending => (s.freeTicket k .dropped).serveRedeems k (s.ticket k).redeems
  | _ => s

/-- TICKET_PRESENT (R198): the oldest `tdrop` of strand (t, x) that is on its way reaches its slice, or else the redeem
or `tstat` for which the strand waits does, or the data of a redeem into memory reaches its core. -/
def execTicketPresent (s : State) : Host.Outcome State Fault Refusal :=
  let t := s.curT
  let x := s.curX
  .next (match s.drops.find? (fun p => p.1 == t && p.2.1 == x) with
    | some p => ({ s with drops := s.drops.erase p }).dropTicket (deviceOf t) p.2.2.2 p.2.2.1
    | none =>
      match (s.strand t x).flight.bind Flight.here with
      | some (.present _ w how) => s.presentTicket t x w how
      | some (.redeemed va sw sb span data) => s.storeRedeemed t x va sw sb span data
      | _ => s)

/-- The request leaves for the holding slice; a ticket that step 1 of R198 fails traps at once, as no slice is named. -/
def presentBody (s : State) (w : Word) (how : Present) : Except Stop State :=
  if s.ticketForm (deviceOf s.curT) w then s.present (sliceDie (ticketSlice w)) 0 (.present (ticketSlice w) w how)
  else .error (.cause .ticketCheck)

/-- What the description of the row permits. -/
def rdmDesc (e : Enc) : Desc :=
  { legal := e.fn == 0 && e.ty == .none, gs := .bit, da := .of [.scalar, .vector, .queue], sa := sReg, sb := sReg
    imm := .role (if e.da.cls == .scalar then e.imm.extractLsb' 5 19 == 0 else e.imm == 0) }

/-- `rdm` (R202), long. -/
def execRdm (e : Enc) (s : State) : Host.Outcome State Fault Refusal :=
  issue (rdmDesc e) e s fun s => do
    let _ ← s.needRoom e.da 1 false
    presentBody s (s.my.getS e.sa.idx.toNat) (.redeem e.da e.imm e.sb.idx.toNat (e.gs == 0))

/-- What the description of the row permits. -/
def rdmmDesc (e : Enc) : Desc :=
  { legal := e.fn == 0 && e.ty == .none, gs := .bit, sw := true, da := sReg, daSrc := true, sa := sReg, sb := sReg
    imm := .role true }

/-- `rdmm` (R203), long: its destination is checked as a store before the ticket is presented. -/
def execRdmm (e : Enc) (s : State) : Host.Outcome State Fault Refusal :=
  issue (rdmmDesc e) e s fun s => do
    let w := s.my.getS e.da.idx.toNat
    let n := 64 * ticketSpan w
    let va := effAddr s e
    match windowCheck va.toNat n 8 .store true with
    | .error c => .error (.at c va)
    | .ok _ =>
      let (_, s) ← s.checkElems s.curT 8 e.sw.toNat true ((List.range (n / 8)).map fun i => (i, va + wordOf (8 * i), none))
      presentBody s w (.redeemMem va e.sw e.sb.idx.toNat (e.gs == 0))

/-- What the description of the row permits. -/
def tstatDesc (e : Enc) : Desc :=
  { legal := e.fn == 0 && e.ty == .none, da := sReg, sa := sReg }

/-- `tstat` (R204), long. -/
def execTstat (e : Enc) (s : State) : Host.Outcome State Fault Refusal :=
  issue (tstatDesc e) e s fun s =>
    presentBody s (s.my.getS e.sa.idx.toNat) (.stat e.da.idx.toNat)

/-- What the description of the row permits. -/
def tdropDesc (e : Enc) : Desc :=
  { legal := e.fn == 0 && e.ty == .none, sa := sReg }

/-- `tdrop` (R205): once its link admits it, if it crosses one (R194), the drop leaves and the strand goes on. A ticket
that step 1 of R198 fails names no slice and has no effect. -/
def execTdrop (e : Enc) (s : State) : Host.Outcome State Fault Refusal :=
  issue (tdropDesc e) e s fun s => do
    let w := s.my.getS e.sa.idx.toNat
    let die := sliceDie (ticketSlice w)
    if !s.ticketForm (deviceOf s.curT) w then .ok s.next
    else if crossesLink s.curT die then s.present die 0 (.drop (s.partOf s.curT) w)
    else .ok ({ s with drops := s.drops ++ [(s.curT, s.curX, w, s.partOf s.curT)] }).next

end Sys2Proof.Machine
end

