-- ==== Sys2Proof/Machine/Copy.lean ====
section
/-! DEFINITION. Jobs of the copy unit and of the memory-side engine: acceptance, blocks, faults, tokens and credits
(R207 to R210, R283 to R288, R290, R307, R308, R352), and the region table (R302 to R306). -/

namespace Sys2Proof.Machine

/-! ### Tokens (R290) -/

def State.updTok (s : State) (t tok : Nat) (f : Token → Token) : State :=
  match s.thread? t with
  | none => s
  | some th => s.setThread t (th.setTok tok (f (th.getTok tok)))

/-- A job that names the token is accepted. -/
def Token.add (k : Token) : Token := { k with count := k.count + 1 }
/-- It completes or faults; the first fault is recorded. -/
def Token.done (k : Token) (f : Option FaultRec) : Token :=
  { count := k.count - 1, fault := if k.fault.isSome then k.fault else f }

/-! ### Addresses of a job -/

/-- The place of an address in a page that the job has entered, whose checks have been made (R210): the pages of OWN and
GLOBAL, and the memories that POD addresses name. -/
def Job.inPage (j : Job) (src : Bool) (w : Window) (va : Nat) : Option Target :=
  match w with
  | .own | .global | .pod => (enteredPage j.pages src va).map fun p => ⟨p.key + va % 65536, w, p.leaf, p.home⟩
  | _ => none

/-- The page of a place, for a job that enters it. -/
def Target.pageIn (g : Target) (src : Bool) (va : Nat) : PageIn := ⟨src, va / 65536, g.key - va % 65536, g.leaf, g.home⟩

/-- Translation, permission and page kind of n bytes for a job, page by page (R29 step 5, R188, R208). -/
def State.jobPlace (s : State) (c : Nat) (j : Job) (va n sw : Nat) (store : Bool) : Except Cause (Target × State) :=
  match windowOf va with
  | none => .error .unmapped
  | some w =>
    match j.inPage (!store) w va with
    | some g => .ok (g, s)
    | none =>
    match (s.withRoots c j).place j.t va n sw w (if store then .store else .read) with
    | .error x => .error x
    | .ok (g, s') => if kindBad g store then .error .pageKind else .ok (g, { s' with clusters := s.clusters })

/-- A read by an engine at the home of n bytes, with the cluster's own dirty copies of the line written there first
(R209): the value, whether it is poisoned, the state. -/
def State.engineRead (s : State) (t : Nat) (g : Target) (n : Nat) : Nat × Bool × State :=
  if g.home = mgmtHome then (leNat (s.mgmtBytes g.key n), false, s)
  else if isSram g.key then (leNat (memRead s.mem g.key n), s.poisoned g.key n, s)
  else
    let s := s.writeBackLine (clusterOf t) (g.key / 64)
    let sl := homeSlice g.home g.key
    (s.homeValue g n, s.linePoisoned sl g.key n, s.touchHome sl (g.key / 64))

/-- A source read of a job, which is a plain load of the issuing strand (R209, R219): what releasers of the word marked is
written back (R232), the strand observes their releases and the home (R226, R233), and its core keeps no older copy of the line
(R222). -/
def State.sourceRead (s : State) (j : Job) (g : Target) (n : Nat) : Nat × Bool × State :=
  let (v, bad, s) := ((s.readReleased g.key).observeWords j.t j.x j.ctx g.home [g.key]).engineRead j.t g n
  (v, bad, s.dropOwn (coreOf j.t) (g.key / 64))

/-- A read of a line from another die counts for its page (R234). -/
def State.countSource (s : State) (t : Nat) (g : Target) : State :=
  if isSram g.key || !(g.kind == 0 || g.kind == 2) || decide (g.home ≥ hostHome) || g.home / 32 == dieOf t then s
  else (s.countPage (g.home / 32) (g.key / 65536) false).pageMode (g.home / 32) (g.key / 65536)

/-- An engine write of n bytes at their home (R209, R236); a poisoned word poisons its word or line (R384). -/
def State.engineWrite (s : State) (c : Nat) (j : Job) (g : Target) (n v : Nat) (bad : Bool) : State :=
  if isSram g.key then
    let s := s.writeSram g.key (leBytes n v) []
    if bad then s.setPoison g.key else s
  else if g.kind = 1 then
    let s := { (s.clearPoison g.key n) with mem := memWrite s.mem g.key (leBytes n v) }
    (if bad then s.setPoison g.key else s).watchRange g.key n
  else
    let dm := (s.withRoots c j).lineDomain j.t g
    s.writeHome g.home g.key (leBytes n v) dm.1 dm.2.1 dm.2.2 bad

/-! ### Acceptance (R207, R208) -/

/-- The fields of a control word. -/
def ctlCtr (w : Word) : Option Nat := if w.getLsbD 46 then some (w.extractLsb' 40 6).toNat else none
def ctlTok (w : Word) : Option Nat := if w.getLsbD 39 then some (w.extractLsb' 36 3).toNat else none
def ctlEmp (w : Word) : Bool := w.getLsbD 35
def ctlLen (w : Word) : Nat := (w.extractLsb' 0 32).toNat
def ctlLease (w : Word) : Option Nat := if w.getLsbD 51 then some (w.extractLsb' 48 3).toNat else none

/-- Reserved bits of a pull's control word, or of a `cpy`'s, which has the lease fields (R207, R307). -/
def ctlReserved (w : Word) (lease : Bool) : Bool :=
  (if lease then w.extractLsb' 52 12 != 0 || w.getLsbD 47 else w.extractLsb' 47 17 != 0) || w.extractLsb' 32 3 != 0

/-- One range of a job (R208 items 1 to 4). -/
def copyRange (va : Word) (n : Nat) (store : Bool) (align : Nat) : Except Stop Window :=
  match windowOf va.toNat with
  | none => .error (.at .unmapped va)
  | some .lane => .error (.at .unmapped va)
  | some w =>
    if n ≠ 0 ∧ va.toNat + n > w.limit then .error (.at .windowSpan va)
    else if store && !w.storable then .error (.at .notOwner va)
    else if va.toNat % align ≠ 0 then .error (.at .align va)
    else .ok w

/-- A held job of the token is discarded when a new job on it is accepted (R352). -/
def dropHeld (l : List Job) (t : Nat) (tok : Option Nat) : List Job :=
  l.filter fun q => !(q.held && q.t == t && q.tok == tok && tok.isSome)

/-- The cluster without the held jobs of the token, in either queue. -/
def Cluster.dropHeld (cl : Cluster) (t : Nat) (tok : Option Nat) : Cluster :=
  { cl with copyQ := Machine.dropHeld cl.copyQ t tok, msQ := Machine.dropHeld cl.msQ t tok }

/-- The queue has an entry for a job of the token, whose held job makes room (R208, R285, R352). -/
def Cluster.jobRoom (cl : Cluster) (ms : Bool) (t : Nat) (tok : Option Nat) : Bool :=
  let cl := cl.dropHeld t tok
  if ms then decide (cl.msQ.length < 16) else decide (cl.copyUsed < 64)

/-- A job is accepted: held jobs of its token go, the token is busy, and it takes a queue entry, unless it has nothing
to do and completes at once (R208, R285, R352). -/
def State.acceptJob (s : State) (c : Nat) (ms : Bool) (j : Job) : State :=
  let s := s.updCluster c fun cl => cl.dropHeld j.t j.tok
  if j.len = 0 then s
  else
    let s := match j.tok with
      | some k => s.updTok j.t k Token.add
      | none => s
    let j := { j with id := s.nextId }
    { (s.updCluster c fun cl => if ms then { cl with msQ := cl.msQ ++ [j] } else { cl with copyQ := cl.copyQ ++ [j] }) with
      nextId := s.nextId + 1 }

/-- The job that an instruction of thread t describes. -/
def State.newJob (s : State) (t : Nat) (x : Side) (kind : JobKind) (dst : Word) (sw : BitVec 3) (src : Word) (len : Nat)
    (ctl : Word) (lease : Option Nat) (limit : Nat) (armed : Bool) : Job :=
  let cl := s.cluster (clusterOf t)
  { id := 0, kind := kind, t := t, x := x, ctx := s.threadCtx t, dst := dst, sw := sw, src := src, len := len, ofs := 0
    ctr := ctlCtr ctl, tok := ctlTok ctl, lease := lease, limit := limit, refusals := 0, after := s.now t, pages := [], net := .idle
    fault := none, held := false, armed := armed, ptroot := cl.ptroot, ownroot := cl.ownroot, ctxReg := cl.ctxReg }

/-- Destination words that carry FE bits are set empty, and requests that wait for them are tried again (R208, R246). -/
def State.emptyWords (s : State) (t : Nat) (w : Window) (sw va n : Nat) : State :=
  match w with
  | .core | .clus | .cave => (List.range (n / 8)).foldl (fun s i =>
      let k := localKey t w sw (va + 8 * i)
      (s.setEmpty k).served k 8) s
  | _ => s

/-- Acceptance by the issuing strand: room in the queue, its own stores performed, then the job (R208, R209). -/
def acceptBody (s : State) (ms : Bool) (j : Job) (empty : State → State) : Except Stop State :=
  let c := clusterOf s.curT
  if !(s.cluster c).jobRoom ms j.t j.tok then .error (.wait (.jobSpace ms j.tok))
  else .ok ((empty (s.drainStores s.curT s.curX)).acceptJob c ms j).next

/-- `pull`, `pullr` and `cpy` once their fields are checked. -/
def copyBody (e : Enc) (s : State) (kind : JobKind) (lease reduce : Bool) : Except Stop State := do
  let ctl := s.my.getS e.sb.idx.toNat
  let dst := effAddr s e
  let src := s.my.getS e.da.idx.toNat
  let n := ctlLen ctl
  if ctlReserved ctl lease || n % 8 != 0 || (reduce && ctlEmp ctl) then .error (.cause .reservedField)
  else
    let w ← copyRange dst n true 8
    let _ ← copyRange src n false 8
    let j := s.newJob s.curT s.curX kind dst e.sw src n ctl (if lease then ctlLease ctl else none)
      s.me.syncretry.toNat false
    acceptBody s false j fun s => if ctlEmp ctl then s.emptyWords s.curT w e.sw.toNat dst.toNat n else s

def pullDesc (e : Enc) : Desc :=
  { legal := e.fn == 0 && e.ty == .none, sw := true, da := sReg, daSrc := true, sa := sReg, sb := sReg, imm := .role true }

/-- `pull` (R207 to R210). -/
def execPull (e : Enc) (s : State) : Host.Outcome State Fault Refusal :=
  issue (pullDesc e) e s fun s => copyBody e s .pull false false

/-- What the description of the row permits. -/
def pullrDesc (e : Enc) : Desc :=
  let fl := e.ty == .fp32 || e.ty == .bf16
  { pullDesc e with legal := e.fn == 0 && (fl || e.ty == .s32), rmOk := fl, ftzOk := fl }

/-- `pullr` (R207 to R210). -/
def execPullr (e : Enc) (s : State) : Host.Outcome State Fault Refusal :=
  issue (pullrDesc e) e s fun s =>
    copyBody e s (.reduce e.ty e.rm e.ftz) false true

/-- What the description of the row permits: a GS value that is not listed is unassigned (R289). -/
def cpyDesc (e : Enc) : Desc :=
  { pullDesc e with gs := .oneOf [0] }

/-- `cpy` (R307). -/
def execCpy (e : Enc) (s : State) : Host.Outcome State Fault Refusal :=
  issue (cpyDesc e) e s fun s => copyBody e s .pull true false

/-- What the description of the row permits. -/
def cpyL2Desc (e : Enc) : Desc :=
  { legal := e.fn == 1 && e.ty == .none, gs := .oneOf [0], da := sReg, daSrc := true, sb := sReg }

/-- The source range of `cpy.l2`: R208 items 1, 2 and 4, then a window other than OWN or GLOBAL is PAGE_KIND, LANE among them
(R307). -/
def l2Range (va : Word) (n : Nat) : Except Stop Unit :=
  match windowOf va.toNat with
  | none => .error (.at .unmapped va)
  | some w =>
    if n ≠ 0 ∧ va.toNat + n > w.limit then .error (.at .windowSpan va)
    else if va.toNat % 8 ≠ 0 then .error (.at .align va)
    else if w ≠ .own ∧ w ≠ .global then .error (.at .pageKind va)
    else .ok ()

/-- `cpy.l2` (R307). -/
def execCpyL2 (e : Enc) (s : State) : Host.Outcome State Fault Refusal :=
  issue (cpyL2Desc e) e s fun s => do
    let ctl := s.my.getS e.sb.idx.toNat
    let src := s.my.getS e.da.idx.toNat
    let n := ctlLen ctl
    if ctlReserved ctl true || ctlEmp ctl || (ctlLease ctl).isNone || n % 64 != 0 then .error (.cause .reservedField)
    else
      let _ ← l2Range src n
      acceptBody s false (s.newJob s.curT s.curX (.pin ((ctlLease ctl).getD 0)) 0 0 src n ctl (ctlLease ctl)
        s.me.syncretry.toNat false) fun s => s

/-- Lowest address and length of n rows at a signed stride (R308); an address below zero wraps. -/
def rowSpan (a : Word) (stride : Word) (rowb n : Nat) : Word × Nat :=
  let far := (n - 1) * stride.toInt.natAbs
  (if stride.toInt < 0 then a - wordOf far else a, if n = 0 then 0 else far + rowb)

/-- What the description of the row permits. -/
def cpysDesc (e : Enc) : Desc :=
  { cpyDesc e with misuse := decide (e.sb.idx.toNat > 61) }

/-- `cpys` (R308). -/
def execCpys (e : Enc) (s : State) : Host.Outcome State Fault Refusal :=
  issue (cpysDesc e) e s fun s => do
    let ctl := s.my.getS e.sb.idx.toNat
    let sstr := s.my.getS (e.sb.idx.toNat + 1)
    let dstr := s.my.getS (e.sb.idx.toNat + 2)
    let dst := effAddr s e
    let src := s.my.getS e.da.idx.toNat
    let rowb := (ctl.extractLsb' 0 16).toNat
    let nrow := (ctl.extractLsb' 16 16).toNat
    if ctlReserved ctl false || (rowb == 0 && nrow != 0) then .error (.cause .reservedField)
    else
      let d := rowSpan dst dstr rowb nrow
      let w ← copyRange d.1 d.2 true 8
      if rowb % 8 ≠ 0 ∨ dst.toNat % 8 ≠ 0 ∨ dstr.toNat % 8 ≠ 0 then .error (.at .align dst)
      else
        let f := rowSpan src sstr rowb nrow
        let _ ← copyRange f.1 f.2 false 8
        if src.toNat % 8 ≠ 0 ∨ sstr.toNat % 8 ≠ 0 then .error (.at .align src)
        else
          let j := s.newJob s.curT s.curX (.rows rowb nrow sstr dstr) dst e.sw src nrow ctl none s.me.syncretry.toNat false
          acceptBody s false j fun s =>
            if ctlEmp ctl then
              (List.range nrow).foldl (fun s r => s.emptyWords s.curT w e.sw.toNat (dst + wordOf r * dstr).toNat rowb) s
            else s

/-! ### Memory-side commands (R283 to R285) -/

/-- The codes of the commands: 0 add, 1 mul, 2 fma, 3 scale, 4 copy, 5 fill, 6 row copy, 7 row zero. -/
def msUses (op : Nat) : List Nat :=
  match op with
  | 0 | 1 => [1, 2] | 2 => [1, 2, 3] | 3 | 4 | 6 => [1] | _ => []

/-- Words and fields of a record that must be zero (R284). -/
def msRecordBad (op : Nat) (ty : Ty) (l : List Word) : Bool :=
  let w (i : Nat) : Word := (l[i]?).getD 0
  let scalar := op == 3 || op == 5
  ([1, 2, 3].any fun i => !(msUses op).contains i && w i != 0) || w 5 != 0 || w 6 != 0 || w 7 != 0 ||
  (if scalar then (w 4).extractLsb' 32 32 != 0 || (ty == .bf16 && (w 4).extractLsb' 16 16 != 0) else w 4 != 0)

/-- A named range (R285 step 3). -/
def msRange (va : Word) (n align : Nat) : Except Stop Unit :=
  match windowOf va.toNat with
  | none => .error (.at .unmapped va)
  | some w =>
    if n ≠ 0 ∧ va.toNat + n > w.limit then .error (.at .windowSpan va)
    else if w = .global ∨ w = .pod then .error (.at .notOwner va)
    else if va.toNat % align ≠ 0 then .error (.at .align va)
    else if w ≠ .own then .error (.at .pageKind va)
    else .ok ()

def msRanges (n align : Nat) : List Word → Except Stop Unit
  | [] => .ok ()
  | va :: r =>
    match msRange va n align with
    | .error x => .error x
    | .ok _ => msRanges n align r

def msBody (op : Nat) (e : Enc) (s : State) : Except Stop State := do
  let (l, s) ← s.recordLoad (effAddr s e) e.sw.toNat
  let w (i : Nat) : Word := (l[i]?).getD 0
  let ctl := s.my.getS e.sb.idx.toNat
  let n := ctlLen ctl
  let align := if op = 6 ∨ op = 7 then 1024 else 64
  if msRecordBad op e.ty l || ctlReserved ctl false || ctlEmp ctl || n % align != 0 then .error (.cause .reservedField)
  else
    let _ ← msRanges n align (w 0 :: (msUses op).map w)
    let j := s.newJob s.curT s.curX (.ms op e.ty e.rm e.sat e.ftz (w 2) (w 3) ((w 4).setWidth 32)) (w 0) 0 (w 1) n ctl none
      s.me.syncretry.toNat false
    acceptBody s true j fun s => s

def msDesc (e : Enc) (typed mode : Bool) : Desc :=
  let fl := e.ty == .bf16 || e.ty == .fp32
  { legal := e.fn == 0 && (if typed then fl || e.ty == .s32 else e.ty == .none)
    rmOk := mode && fl, ftzOk := mode && fl, satOk := mode, sw := true, sa := sReg, sb := sReg, imm := .role true }

/-- `msadd` (R283 to R286). -/
def execMsadd (e : Enc) (s : State) : Host.Outcome State Fault Refusal := issue (msDesc e true true) e s (msBody 0 e)
/-- `msmul` (R283 to R286). -/
def execMsmul (e : Enc) (s : State) : Host.Outcome State Fault Refusal := issue (msDesc e true true) e s (msBody 1 e)
/-- `msfma` (R283 to R286). -/
def execMsfma (e : Enc) (s : State) : Host.Outcome State Fault Refusal := issue (msDesc e true true) e s (msBody 2 e)
/-- `msscale` (R283 to R286). -/
def execMsscale (e : Enc) (s : State) : Host.Outcome State Fault Refusal := issue (msDesc e true true) e s (msBody 3 e)
/-- `mscopy` (R283 to R286). -/
def execMscopy (e : Enc) (s : State) : Host.Outcome State Fault Refusal := issue (msDesc e false false) e s (msBody 4 e)
/-- `msfill` (R283 to R286). -/
def execMsfill (e : Enc) (s : State) : Host.Outcome State Fault Refusal := issue (msDesc e true false) e s (msBody 5 e)
/-- `msrow` (R283 to R287). -/
def execMsrow (e : Enc) (s : State) : Host.Outcome State Fault Refusal := issue (msDesc e false false) e s (msBody 6 e)
/-- `mszero` (R283 to R287). -/
def execMszero (e : Enc) (s : State) : Host.Outcome State Fault Refusal := issue (msDesc e false false) e s (msBody 7 e)

/-! ### What a job does next (R209, R210) -/

/-- The outcome of a job's next unit. -/
inductive JobStep
  /-- It waits for a touched word, or a request was refused. -/
  | hold (s : State)
  /-- n more bytes, or rows, are done. -/
  | done (n : Nat) (s : State)
  /-- It faults here. -/
  | fault (f : FaultRec) (s : State)

/-- A word of a job: address and place of its source, and of its destination. -/
structure WordPair where
  a : Word
  g : Target
  b : Word
  h : Target

/-- The record of a fault of a job. -/
def Job.faultAt (j : Job) (x : Cause) (a : Word) (src : Bool) : FaultRec :=
  ⟨x, a, src, some j.id, j.tok.map (BitVec.ofNat 3), none⟩

/-- Words placed one after the other until the first that fails. Where both words of a pair fail, the model takes the source:
DESIGN CHOICE (log 108). -/
def State.jobPairs (s : State) (c : Nat) (j : Job) (src dst : Word) : List Nat → List WordPair × Option FaultRec × State
  | [] => ([], none, s)
  | i :: r =>
    let a := src + wordOf (8 * i)
    let b := dst + wordOf (8 * i)
    match s.jobPlace c j a.toNat 8 0 false with
    | .error x => ([], some (j.faultAt x a true), s)
    | .ok (g, s1) =>
      match s1.jobPlace c j b.toNat 8 j.sw.toNat true with
      | .error x => ([], some (j.faultAt x b false), s1)
      | .ok (h, s2) =>
        let q := s2.jobPairs c j src dst r
        (⟨a, g, b, h⟩ :: q.1, q.2.1, q.2.2)

/-- Touches of words of a job's source, or of the destination of a reduce, that lie in the job's own cluster (R303, R305). -/
def State.jobTouch (s : State) (c : Nat) (j : Job) (src : Bool) : List Target → JobStep
  | [] => .done 0 s
  | g :: r =>
    if isSram g.key && g.home == c then
      match s.touchWord j.t g.key with
      | .clear s' => s'.jobTouch c j src r
      | .wait s' => .hold s'
      | .fault d n f s' => .fault { j.faultAt f.cause f.addr src with region := some (d, n) } s'
    else s.jobTouch c j src r

/-- `Op` of a reduce on one 8-byte word (R209). -/
def reduceWord (ty : Ty) (rm : Rm) (ftz : Bool) (a b : Nat) : Nat :=
  let w := tyWidth true ty
  (List.range (64 / w)).foldl (fun v k =>
    let x := a / 2 ^ (w * k) % 2 ^ w
    let y := b / 2 ^ (w * k) % 2 ^ w
    let r := if ty == .s32 then (x + y) % 2 ^ 32 else (FOp.add.eval (fmtOf ty) rm ftz false x y).1
    v + r * 2 ^ (w * k)) 0

/-- Words copied, or reduced at their destination, in ascending order. -/
def State.jobWords (s : State) (c : Nat) (j : Job) : List WordPair → State
  | [] => s
  | p :: r =>
    let (v, bad, s1) := s.sourceRead j p.g 8
    let (v, bad, s2) := match j.kind with
      | .reduce ty rm ftz =>
        let (o, bo, s') := s1.engineRead j.t p.h 8
        (reduceWord ty rm ftz o v, bad || bo, s')
      | _ => (v, bad, s1)
    (s2.engineWrite c j p.h 8 v bad).jobWords c j r

/-- Pinned lines of a lease in a slice (R320). -/
def State.pinnedIn (s : State) (slice ctx lid : Nat) : Nat :=
  (s.rind.filter fun r => r.slice == slice && r.pin && r.ctx == ctx && r.lid == lid).length

/-- A source line that a copy with a lease brings in, or that is there already: pinned while its lease has room in the slice
(R307, R320). -/
def State.pinLine (s : State) (c : Nat) (j : Job) (lid : Nat) (g : Target) : State :=
  let die := c / 32
  if (g.kind = 0 ∨ g.kind = 2) ∧ !isSram g.key ∧ g.home / 32 = die ∧ keyPa g.key < hbmEnd then
    let sl := die * 32 + sliceOf (keyPa g.key)
    let line := g.key / 64
    let s := s.writeBackLine (clusterOf j.t) (g.key / 64)
    let held := s.leases.find? fun l => l.die == die && l.ctx == j.ctx && l.lid == lid
    let room := held.any fun l => decide (s.pinnedIn sl j.ctx lid < l.entries)
    match s.findRind sl line with
    | some r => if room && !r.pin then s.pinRind sl line j.ctx lid else s
    | none =>
      let dm := (s.withRoots c j).lineDomain j.t g
      s.install ⟨sl, line, g.home, s.homeLine none line, dm.1, dm.2.1, j.ctx, false, s.poisoned (line * 64) 64⟩
        (if room then some lid else none)
  else s

/-- The words of a job's source, or of its destination, that it has not done yet and that lie in a page. -/
def Job.wordsIn (j : Job) (src : Bool) (page : Nat) : List Word :=
  let here (a : Word) : Bool := a.toNat / 65536 == page
  let base := if src then j.src else j.dst
  match j.kind with
  | .rows rowb nrow sstr dstr =>
    ((List.range nrow).filter (j.ofs ≤ ·)).flatMap fun r =>
      ((List.range (rowb / 8)).map fun i => base + wordOf r * (if src then sstr else dstr) + wordOf (8 * i)).filter here
  | _ =>
    let lo := max (base.toNat + j.ofs) (page * 65536)
    (List.range ((min (base.toNat + j.len) (page * 65536 + 65536) - lo) / 8)).map fun i => wordOf (lo + 8 * i)

/-- The places of those of them that lie in the job's own cluster, which it touches as it enters the page (R303). -/
def State.pageReads (s : State) (c : Nat) (j : Job) (src : Bool) (g : Target) (page : Nat) : List Target :=
  if isSram g.key && g.home == c then
    (j.wordsIn src page).filterMap fun b =>
      match s.jobPlace c j b.toNat 8 (if src then 0 else j.sw.toNat) (!src) with | .ok (h, _) => some h | .error _ => none
  else []

/-- A page that a job has entered is one that it has still to do something in; a strided copy keeps its pages to its end. -/
def Job.pageLive (j : Job) (p : PageIn) : Bool :=
  let at_ (a : Word) : Bool := (a.toNat + j.ofs) / 65536 == p.page
  match j.kind with
  | .rows .. => true
  | .ms _ _ _ _ _ b d _ => if p.src then at_ j.src || at_ b || at_ d else at_ j.dst
  | _ => if p.src then at_ j.src else at_ j.dst

def Cluster.setJob (cl : Cluster) (ms : Bool) (j : Job) : Cluster :=
  let set (q : Job) : Job := if q.id = j.id then j else q
  if ms then { cl with msQ := cl.msQ.map set } else { cl with copyQ := cl.copyQ.map set }

def Cluster.dropJob (cl : Cluster) (ms : Bool) (id : Nat) : Cluster :=
  let keep (q : Job) : Bool := q.id != id
  if ms then { cl with msQ := cl.msQ.filter keep } else { cl with copyQ := cl.copyQ.filter keep }

/-- A refusal of a job's request, at an address of its source or destination: presented again 64 cycles later, SYNC_RETRY once
the count is exhausted (R194). -/
def State.refuseJob (s : State) (c : Nat) (ms : Bool) (j : Job) (a : Word) (src : Bool) : JobStep :=
  if j.refusals + 1 ≥ 1 + j.limit then .fault (j.faultAt .syncRetry a src) s
  else
    .hold (s.updCluster c fun cl =>
      cl.setJob ms { j with refusals := j.refusals + 1, after := s.cycleOf (c / 128) + 64, net := .idle })

/-- A job enters the source page of a place: an SO page once the strand's earlier pulls have read theirs (R228), its touches
made and its request granted. -/
def State.enterSource (s : State) (c : Nat) (j : Job) (a : Word) (g : Target) : JobStep × Job :=
  if (enteredPage j.pages true a.toNat).isSome then (.done 0 s, j)
  else if g.kind == 1 && !j.armed && s.soHeld j.t j.x (some j.id) then (.hold s, j)
  else match s.jobTouch c j true (s.pageReads c j true g (a.toNat / 65536)) with
    | .done _ s =>
      (match s.ask (c / 32) (targetDie j.t g) 0 (s.partOf j.t) (.job c j.id) j.net with
      | .granted => (.done 0 s, { j with pages := g.pageIn true a.toNat :: j.pages, net := .idle, refusals := 0 })
      | .waits n s => (.hold (s.updCluster c fun cl => cl.setJob false { j with net := n }), j)
      | .refused => (s.refuseJob c false j a true, j)
      | .failed x s => (.fault (j.faultAt x a true) s, j))
    | o => (o, j)

/-- A job enters the destination page of a place; a reduce reads it and so touches its words (R303). -/
def State.enterDest (s : State) (c : Nat) (j : Job) (b : Word) (h : Target) : JobStep × Job :=
  let reads := match j.kind with | .reduce .. => s.pageReads c j false h (b.toNat / 65536) | _ => []
  if (enteredPage j.pages false b.toNat).isSome then (.done 0 s, j)
  else match s.jobTouch c j false reads with
    | .done _ s => (.done 0 s, { j with pages := h.pageIn false b.toNat :: j.pages })
    | o => (o, j)

/-- The pages of a unit, each entered once: its checks and touches are made and its requests granted before any word of it is
copied, so that a fault of any of them leaves the whole page unwritten, and nothing faults in it afterwards (R210, R303). -/
def State.enterPages (s : State) (c : Nat) (j : Job) : List WordPair → JobStep × Job
  | [] => (.done 0 s, j)
  | p :: r =>
    match s.enterSource c j p.a p.g with
    | (.done _ s, j) =>
      (match s.enterDest c j p.b p.h with
      | (.done _ s, j) => s.enterPages c j r
      | o => o)
    | o => o

/-- Lines of source places, each once. -/
def sourceLines (l : List Target) : List Target :=
  l.foldl (fun a p => if a.any fun g => g.key / 64 == p.key / 64 then a else a ++ [p]) []

/-- The words of a unit, once placed: the pages, the words, the pins. -/
def State.runWords (s : State) (c : Nat) (j : Job) (l : List WordPair) (n : Nat) : JobStep :=
  match s.enterPages c j l with
  | (.done _ s, j) =>
    let s := s.updCluster c fun cl => cl.setJob false j
    let s := ((sourceLines (l.map (·.g))).foldl (fun s g => s.countSource j.t g) s).jobWords c j l
    .done n (match j.lease with
      | some lid => l.foldl (fun s p => s.pinLine c j lid p.g) s
      | none => s)
  | (o, _) => o

/-- The next unit of a pull, reduce or copy: up to the end of its 64-byte destination block or of its source page (R209,
R210). -/
def State.blockStep (s : State) (c : Nat) (j : Job) : JobStep :=
  let n := min (min (64 - (j.dst.toNat + j.ofs) % 64) (65536 - (j.src.toNat + j.ofs) % 65536)) (j.len - j.ofs)
  let (l, bad, s) := s.jobPairs c j (j.src + wordOf j.ofs) (j.dst + wordOf j.ofs) (List.range (n / 8))
  match bad with
  | some f => .fault f s
  | none => s.runWords c j l n

/-- The next row of a strided copy (R308). -/
def State.rowStep (s : State) (c : Nat) (j : Job) (rowb : Nat) (sstr dstr : Word) : JobStep :=
  let (l, bad, s) := s.jobPairs c j (j.src + wordOf j.ofs * sstr) (j.dst + wordOf j.ofs * dstr) (List.range (rowb / 8))
  match bad with
  | some f => .fault f s
  | none => s.runWords c j l 1

/-- The next source line of `cpy.l2` (R307). -/
def State.pinStep (s : State) (c : Nat) (j : Job) (lid : Nat) : JobStep :=
  let a := j.src + wordOf j.ofs
  match s.jobPlace c j a.toNat 8 0 false with
  | .error x => .fault (j.faultAt x a true) s
  | .ok (g, s) =>
    if (g.kind = 0 ∨ g.kind = 2) ∧ g.home / 32 = c / 32 ∧ keyPa g.key < hbmEnd then
      let enter (q : Job) : Job :=
        if (enteredPage q.pages true a.toNat).isSome then q else { q with pages := g.pageIn true a.toNat :: q.pages }
      let s := s.updCluster c fun cl => cl.setJob false (enter j)
      .done (min (64 - a.toNat % 64) (j.len - j.ofs)) (s.pinLine c j lid g)
    else .fault (j.faultAt .pageKind a true) s

/-- A place in DRAM for a memory-side command, page by page (R285): kinds AT and RS and host frames fault with PAGE_KIND. -/
def State.msPlace (s : State) (c : Nat) (j : Job) (a : Word) (store : Bool) : Except FaultRec (Target × State) :=
  match windowOf a.toNat with
  | none => .error (j.faultAt .unmapped a !store)
  | some w =>
    match j.inPage (!store) w a.toNat with
    | some g => .ok (g, s)
    | none =>
    match (s.withRoots c j).place j.t a.toNat 8 0 w (if store then .store else .read) with
    | .error x => .error (j.faultAt x a !store)
    | .ok (g, s') =>
      if g.kind ≥ 3 ∨ keyPa g.key ≥ hbmEnd then .error (j.faultAt .pageKind a !store)
      else .ok (g, { s' with clusters := s.clusters })

def State.msPlaces (s : State) (c : Nat) (j : Job) (ofs : Nat) : List Word → Except FaultRec (List Target × State)
  | [] => .ok ([], s)
  | a :: r =>
    match s.msPlace c j (a + wordOf ofs) false with
    | .error x => .error x
    | .ok (g, s1) =>
      match s1.msPlaces c j ofs r with
      | .error x => .error x
      | .ok (l, s2) => .ok (g :: l, s2)

/-- One element of a range command (R283). -/
def msElem (op : Nat) (ty : Ty) (rm : Rm) (sat ftz : Bool) (a b c : Nat) : Nat :=
  if ty == .s32 then
    let x := intOf true 32 a
    let y := intOf true 32 b
    let t := match op with
      | 0 => x + y | 1 | 3 => x * y | 2 => x * y + intOf true 32 c | _ => y
    narrowInt sat true 32 t
  else match op with
    | 0 => (FOp.add.eval (fmtOf ty) rm ftz sat a b).1
    | 1 | 3 => (FOp.mul.eval (fmtOf ty) rm ftz sat a b).1
    | 2 => (fmaBits (fmtOf ty) rm ftz sat a b c).1
    | _ => b

/-- A line of a range command from the lines of its sources (R283, R286). -/
def msLine (op : Nat) (ty : Ty) (rm : Rm) (sat ftz : Bool) (scalar : Nat) (l : List Nat) : Nat :=
  let src (i : Nat) : Nat := (l[i]?).getD 0
  match op with
  | 4 | 6 => src 0
  | 7 => 0
  | _ =>
    let w := tyWidth true ty
    let el (v k : Nat) : Nat := v / 2 ^ (w * k) % 2 ^ w
    (List.range (512 / w)).foldl (fun v k =>
      let b := if op = 3 ∨ op = 5 then scalar else el (src 1) k
      v + msElem op ty rm sat ftz (el (src 0) k) b (el (src 2) k) * 2 ^ (w * k)) 0

/-- The next 64-byte line of a memory-side command, read from DRAM and written to DRAM; no cached copy changes
(R241, R286, R288). The pages of the line are checked with the destination's first: where it and a source both fault, the
model records the destination's fault, DESIGN CHOICE (log 108). A source word that the command itself has written is read
after that write, DESIGN CHOICE (log 107): R286 allows either. -/
def State.msStep (s : State) (c : Nat) (j : Job) (op : Nat) (ty : Ty) (rm : Rm) (sat ftz : Bool) (b d : Word)
    (scalar : BitVec 32) : JobStep :=
  match s.msPlace c j (j.dst + wordOf j.ofs) true with
  | .error f => .fault f s
  | .ok (g, s) =>
    let srcs := (msUses op).map fun i => if i = 1 then j.src else if i = 2 then b else d
    match s.msPlaces c j j.ofs srcs with
    | .error f => .fault f s
    | .ok (l, s) =>
      let enter (ps : List PageIn) (src : Bool) (a : Word) (g : Target) : List PageIn :=
        if (enteredPage ps src a.toNat).isSome then ps else g.pageIn src a.toNat :: ps
      let pages := ((srcs.map (· + wordOf j.ofs)).zip l).foldl (fun ps p => enter ps true p.1 p.2)
        (enter j.pages false (j.dst + wordOf j.ofs) g)
      let s := s.updCluster c fun cl => cl.setJob true { j with pages := pages }
      let v := msLine op ty rm sat ftz scalar.toNat (l.map fun q => leNat (memRead s.mem q.key 64))
      let bad := l.any fun q => s.poisoned q.key 64
      let s := { (s.clearPoison g.key 64) with mem := memWrite s.mem g.key (leBytes 64 v) }
      .done 64 (if bad then (List.range 8).foldl (fun s i => s.setPoison (g.key + 8 * i)) s else s)

/-- A job's next unit. -/
def State.jobStep (s : State) (c : Nat) (j : Job) : JobStep :=
  match j.kind with
  | .pull | .reduce .. => s.blockStep c j
  | .pin lid => s.pinStep c j lid
  | .rows rowb _ sstr dstr => s.rowStep c j rowb sstr dstr
  | .ms op ty rm sat ftz b d scalar => s.msStep c j op ty rm sat ftz b d scalar

/-! ### Progress and end (R209, R210, R290, R348, R352) -/

/-- Bytes with which a unit of n credits the counter: those of a row, of a line, or of the 64-byte destination block that it
completes (R209, R286, R308). -/
def Job.credit (j : Job) (n : Nat) : Nat :=
  let last := j.ofs + n
  match j.kind with
  | .rows rowb .. => n * rowb
  | .pull | .reduce .. =>
    if last ≥ j.len ∨ (j.dst.toNat + last) % 64 = 0 then min last ((j.dst.toNat + last - 1) % 64 + 1) else 0
  | _ => n

/-- Where the effects of a job on its thread and counter go (R349). -/
def State.steerJob (s : State) (c : Nat) (j : Job) : Steer :=
  if ((s.thread? j.t).map (·.isSup)).getD false then .live else s.steer c j.ctx false

/-- The log record of a job's end (R350). -/
def Job.record (j : Job) (tok : Nat) (f : Option FaultRec) : WheyRec :=
  ⟨4, tok, j.t % 64, if f.isSome then 1 else 0, 0, (f.map (·.addr)).getD 0, (f.map fun r => r.cause.code.toNat).getD 0, 0⟩

/-- No fault of a saved thread's token is recorded, in its image or by an end in its context's log (R290, R352). -/
def Saved.unfaulted (sv : Saved) (t : Nat) (tok : Nat) : Bool :=
  (((tget sv.threads t).map fun th => (th.getTok tok).fault.isNone).getD true) &&
  !sv.jobs.any fun q => q.t == t && q.tok == some tok && q.fault.isSome

/-- The end of a job waits while the log of its context has no room for the records that it takes: its token's, and that of the
fault posted to its counter (R348). -/
def State.endWaits (s : State) (c : Nat) (j : Job) (f : Option FaultRec) : Bool :=
  match s.steerJob c j with
  | .log i => decide (s.logSpace i < (if j.tok.isSome then 1 else 0) + if j.ctr.isSome && f.isSome then 1 else 0)
  | _ => false

/-- A job completes or faults: its token, the fault posted to its counter, and the job held when the token records
its fault (R290, R352). A saved context's log takes the end; a job whose log has no room ends later (R348). -/
def State.endJob (s : State) (c : Nat) (ms : Bool) (j : Job) (f : Option FaultRec) : State :=
  let post (s : State) : State := match j.ctr, f with
    | some k, some r => s.sendArrival c ⟨k, 0, some r, [], none, j.ctx, none⟩
    | _, _ => s
  let gone := post (s.updCluster c fun cl => cl.dropJob ms j.id)
  if s.endWaits c j f then s.updCluster c fun cl => cl.setJob ms { j with after := s.cycleOf (c / 128) + 64 }
  else match j.tok with
  | none => gone
  | some k =>
    let heldJob := { j with held := true, fault := f, refusals := 0, pages := [] }
    match s.steerJob c j with
    | .live =>
      let recorded := f.isSome && (((s.thread? j.t).map fun th => (th.getTok k).fault.isNone)).getD false
      let s' := if recorded then post (s.updCluster c fun cl => cl.setJob ms heldJob) else gone
      s'.updTok j.t k fun tk => tk.done f
    | .log i =>
      (match s.saved[i]? with
      | none => gone
      | some sv =>
        let s' := gone.appendLog i (j.record k f) []
        if f.isSome && sv.unfaulted j.t k then
          { s' with saved := s'.saved.modify i fun sv => { sv with jobs := sv.jobs ++ [heldJob] } }
        else s')
    | .refuse | .discard => gone

/-- A unit done: the offset advances, the counter is credited, and the last unit ends the job (R209). -/
def State.jobDone (s : State) (c : Nat) (ms : Bool) (j : Job) (n : Nat) : State :=
  let j := (((if ms then (s.cluster c).msQ else (s.cluster c).copyQ).find? fun q => q.id == j.id)).getD j
  let s := match j.ctr with
    | some k => if j.credit n = 0 then s else s.sendArrival c ⟨k, j.credit n, none, [], none, j.ctx, none⟩
    | none => s
  let j := { j with ofs := j.ofs + n, refusals := 0 }
  let j := { j with pages := j.pages.filter j.pageLive }
  if j.ofs ≥ j.len then s.endJob c ms j none else s.updCluster c fun cl => cl.setJob ms j

/-- A job that may take its next unit now. -/
def State.runnable (s : State) (c n : Nat) (ms : Bool) : Option Job :=
  ((if ms then (s.cluster c).msQ else (s.cluster c).copyQ).find? fun j => j.id == n && !j.held && decide (j.after ≤ s.cycleOf (c / 128)))

/-- A job's next unit; one whose credit the counter's port refuses, for want of room in the log, is presented again (R194,
R348). -/
def State.jobTry (s : State) (c : Nat) (ms : Bool) (j : Job) : JobStep :=
  match s.jobStep c j with
  | .done k s' =>
    if j.ctr.isSome && decide (j.credit k ≠ 0) && s.portRefuses c j.ctx false 1 then
      s.refuseJob c ms j (j.dst + wordOf j.ofs) false
    else .done k s'
  | o => o

/-- A unit of job n, unless it faults. -/
def State.jobProgress (s : State) (c n : Nat) (ms : Bool) : State :=
  match s.runnable c n ms with
  | none => s
  | some j =>
    if j.ofs ≥ j.len then s.endJob c ms j none
    else match s.jobTry c ms j with
      | .hold s' => s'
      | .done k s' => s'.jobDone c ms j k
      | .fault .. => s

/-- The fault of job n, if its next unit faults. It is the first unit in a page whose checks, touches or requests fail, so that
the job's offset is that of the page boundary below the faulting byte, or of the first row that touches the page (R210,
R308). -/
def State.jobFault (s : State) (c n : Nat) (ms : Bool) : State :=
  match s.runnable c n ms with
  | none => s
  | some j =>
    if j.ofs ≥ j.len then s
    else match s.jobTry c ms j with
      | .fault f s' => s'.endJob c ms j (some f)
      | _ => s

/-- COPY_BLOCK_COMPLETE (R209): job n of the cluster's copy unit completes its next block, row or line. -/
def execCopyBlockComplete (s : State) : Host.Outcome State Fault Refusal :=
  let c := s.actor
  let n := s.item
  .next (s.jobProgress c n false)

/-- MS_LINE_COMPLETE (R286): command n completes its next line. -/
def execMsLineComplete (s : State) : Host.Outcome State Fault Refusal :=
  let c := s.actor
  let n := s.item
  .next (s.jobProgress c n true)

/-- COPY_JOB_FAULT (R210): job or command n faults at its next unit. -/
def execCopyJobFault (s : State) : Host.Outcome State Fault Refusal :=
  let c := s.actor
  let n := s.item
  .next (s.jobFault c n (s.runnable c n false).isNone)

/-! ### The region table (R302 to R306) -/

/-- A region record, or none when R302 calls it BADREC: window, first byte, length, bytes per row, source, stride,
counter. -/
def regionRecord (l : List Word) : Option (Window × Nat × Nat × Nat × Word × Word × Option Nat) :=
  let w (i : Nat) : Word := (l[i]?).getD 0
  let len := ((w 1).extractLsb' 0 32).toNat
  let rowb := ((w 1).extractLsb' 32 32).toNat
  let zeros := (w 4).extractLsb' 47 17 == 0 && (w 4).extractLsb' 0 40 == 0 && w 5 == 0 && w 6 == 0 && w 7 == 0
  let sizes := decide (len ≥ 128) && len % 128 == 0 && decide (rowb ≥ 8) && rowb % 8 == 0 && len % rowb == 0
  let srcOk := match windowOf (w 2).toNat with
    | some .own | some .global | some .pod => (w 2).toNat % 8 == 0
    | _ => false
  match windowOf (w 0).toNat with
  | some win =>
    if (win = .core ∨ win = .clus ∨ win = .cave) ∧ (w 0).toNat % 128 = 0 ∧ (w 0).toNat + len ≤ win.limit ∧
        (w 3).toNat % 8 = 0 ∧ (zeros && sizes && srcOk) then
      some (win, (w 0).toNat, len, rowb, w 2, w 3, ctlCtr (w 4))
    else none
  | none => none

def State.region (s : State) (c n : Nat) : Region := (tget (s.cluster c).regions n).getD Region.zero

/-- The window overlaps that of an occupied entry. -/
def State.regionOverlap (s : State) (c key len : Nat) : Bool :=
  (s.cluster c).regions.any fun p => p.2.state != .free && decide (p.2.win < key + len) && decide (key < p.2.win + p.2.len)

/-- What the description of the row permits. -/
def rgsetDesc (e : Enc) : Desc :=
  { legal := e.fn == 0 && e.ty == .none, gs := .oneOf [0], sw := true, da := sReg, sa := sReg, sb := sReg
    imm := .role true }

/-- `rgset` (R302). The lowest free entry is taken (log 18). -/
def execRgset (e : Enc) (s : State) : Host.Outcome State Fault Refusal :=
  issue (rgsetDesc e) e s fun s => do
    let (l, s) ← s.recordLoad (effAddr s e) e.sw.toNat
    let t := s.curT
    let c := clusterOf t
    let put (d b : Word) (s : State) : State := s.retire e.la false [.s e.da.idx.toNat d, .s e.sb.idx.toNat b]
    match regionRecord l with
    | none => .ok (put 0 2 s)
    | some (win, va, len, rowb, src, sstr, ctr) =>
      let key := localKey t win 0 va
      if s.regionOverlap c key len then .ok (put 0 3 s)
      else match (List.range 64).find? fun n => (s.region c n).state == .free with
        | none => .ok (put 0 1 s)
        | some n =>
          let g := (s.region c n).gen + 1
          let r : Region := { gen := g, state := .absent, win := key, len := len, rowb := rowb, src := src, sstr := sstr
                              ctr := ctr, rows := 0, fault := none, core := coreOf t, t := t, ctx := s.threadCtx t
                              touched := [], refusals := 0, after := 0, pages := [], net := .idle }
          let s := (s.drainStores t s.curX).setRegion c n r
          let s := (List.range (len / 8)).foldl (fun s i => (s.setEmpty (key + 8 * i)).served (key + 8 * i) 8) s
          .ok (put (wordOf (n + g.toNat * 64)) 0 s)

/-- The entry that a handle names, when it is occupied. -/
def State.regionHandle (s : State) (c : Nat) (h : Word) : Option (Nat × Region) :=
  let n := (h.extractLsb' 0 6).toNat
  let r := s.region c n
  if h.extractLsb' 15 49 ≠ 0 ∨ h.extractLsb' 6 9 ≠ r.gen ∨ r.state = .free then none else some (n, r)

/-- What the description of the row permits. -/
def rgclrDesc (e : Enc) : Desc :=
  { legal := e.fn == 0 && e.ty == .none, gs := .oneOf [0], da := sReg, sa := sReg }

/-- `rgclr` (R306): a FILLING entry is freed, and the strand goes on, when its copy ends. -/
def execRgclr (e : Enc) (s : State) : Host.Outcome State Fault Refusal :=
  issue (rgclrDesc e) e s fun s =>
    let c := clusterOf s.curT
    match s.regionHandle c (s.my.getS e.sa.idx.toNat) with
    | none => .ok (s.retire e.la false [.s e.da.idx.toNat 1])
    | some (n, r) =>
      if r.state = .filling then .error (.wait (.region n e.da.idx.toNat))
      else .ok ((s.setRegion c n { Region.zero with gen := r.gen }).retire e.la false [.s e.da.idx.toNat 0])

/-- The word that `rgstat` writes (R306). -/
def Region.word (r : Region) : Word :=
  let st := match r.state with
    | .free => 0 | .absent => 1 | .filling => 2 | .present => 3 | .faulted => 4
  let cause := if r.state = .faulted then (r.fault.map fun f => f.cause.code.toNat).getD 0 else 0
  wordOf (r.rows % 2 ^ 16 * 2 ^ 32 + st * 2 ^ 16 + cause * 2 ^ 8)

/-- What the description of the row permits. -/
def rgstatDesc (e : Enc) : Desc :=
  { legal := e.fn == 0 && e.ty == .none, gs := .oneOf [0], da := sReg, sa := sReg }

/-- `rgstat` (R306). -/
def execRgstat (e : Enc) (s : State) : Host.Outcome State Fault Refusal :=
  issue (rgstatDesc e) e s fun s =>
    let h := s.my.getS e.sa.idx.toNat
    let r := s.region (clusterOf s.curT) (h.extractLsb' 0 6).toNat
    let v := if h.extractLsb' 6 9 = r.gen then r.word else 0
    .ok (s.retire e.la false [.s e.da.idx.toNat v])

/-- The copy of a region seen as a job of the thread that made the entry. -/
def State.regionJob (s : State) (c : Nat) (r : Region) : Job :=
  { (s.newJob r.t .strandA (.rows r.rowb (r.len / r.rowb) r.sstr 0) 0 0 r.src r.len 0 none
      ((s.thread? r.t).map (·.syncretry.toNat) |>.getD 64) false) with
    ofs := r.rows, ctx := r.ctx, ptroot := (s.cluster c).ptroot, ownroot := (s.cluster c).ownroot, refusals := r.refusals, pages := r.pages }

/-- Places of the words of a source row, with their addresses. -/
def State.rowPlaces (s : State) (c : Nat) (j : Job) (src : Word) : List Nat → Except FaultRec (List (Word × Target) × State)
  | [] => .ok ([], s)
  | i :: r =>
    let a := src + wordOf (8 * i)
    match s.jobPlace c j a.toNat 8 0 false with
    | .error x => .error ⟨x, a, true, none, none, none⟩
    | .ok (g, s1) =>
      match s1.rowPlaces c j src r with
      | .error x => .error x
      | .ok (l, s2) => .ok ((a, g) :: l, s2)

/-- What the next row of a FILLING entry does (R304, R305). -/
inductive RowStep
  | hold (s : State)
  | done (s : State)
  | fault (f : FaultRec) (s : State)

/-- The source pages of a row, each entered once, before the first row that touches it is copied (R305): the touches of the
rows that are left, and the request. -/
def State.regionPages (s : State) (c n : Nat) (r : Region) (j : Job) (limit : Nat) : List (Word × Target) → RowStep × Region
  | [] => (.done s, r)
  | (a, g) :: l =>
    if (enteredPage r.pages true a.toNat).isSome then s.regionPages c n r j limit l
    else match s.jobTouch c j true (s.pageReads c j true g (a.toNat / 65536)) with
    | .hold s => (.hold s, r)
    | .fault f s => (.fault { f with job := none, tok := none } s, r)
    | .done _ s =>
    match s.ask (c / 32) (targetDie r.t g) 0 (s.partOf r.t) (.region c n) r.net with
      | .granted => s.regionPages c n { r with pages := g.pageIn true a.toNat :: r.pages, net := .idle, refusals := 0 } j limit l
      | .waits m s => (.hold (s.setRegion c n { r with net := m }), r)
      | .failed x s => (.fault ⟨x, a, true, none, none, none⟩ s, r)
      | .refused =>
        (if r.refusals + 1 ≥ 1 + limit then .fault ⟨.syncRetry, a, true, none, none, none⟩ s
        else .hold (s.setRegion c n { r with refusals := r.refusals + 1, after := s.cycleOf (c / 128) + 64, net := .idle }), r)

/-- Strands of a cluster whose wait a test picks, with what it gives of the wait. -/
def State.waitersFor {α : Type} (s : State) (c : Nat) (f : Cond → Option α) : List (Nat × Side × α) :=
  (s.threads.filter fun p => clusterOf p.1 == c).flatMap fun p =>
    [Side.strandA, Side.strandX].filterMap fun x => match (p.2.strand x).status with
      | .waiting w => (f w).map fun a => (p.1, x, a)
      | _ => none

/-- The copy of an entry has ended: an `rgclr` that waits frees the entry, and one behind it finds it gone (R306). -/
def State.endRegion (s : State) (c n : Nat) (r : Region) : State :=
  match s.waitersFor c fun w => match w with | .region m da => if m = n then some da else none | _ => none with
  | [] => s.setRegion c n r
  | (t, x, da) :: l =>
    l.foldl (fun s p => s.finish p.1 p.2.1 [.s p.2.2 1])
      ((s.setRegion c n { Region.zero with gen := r.gen }).finish t x [.s da 0])

def State.regionStep (s : State) (c n : Nat) (r : Region) : RowStep :=
  let j := s.regionJob c r
  match s.rowPlaces c j (r.src + wordOf r.rows * r.sstr) (List.range (r.rowb / 8)) with
  | .error f => .fault f s
  | .ok (l, s) =>
    match s.regionPages c n r j j.limit l with
    | (.done s, r) =>
        let put (s : State) (p : (Word × Target) × Nat) : State :=
          let (v, bad, s) := (s.readReleased p.1.2.key).engineRead r.t p.1.2 8
          let s := s.writeSram (r.win + r.rows * r.rowb + 8 * p.2) (leBytes 8 v) []
          if bad then s.setPoison (r.win + r.rows * r.rowb + 8 * p.2) else s
        let s := ((sourceLines (l.map (·.2))).foldl (fun s g => s.countSource r.t g) s)
        let s := l.zipIdx.foldl put s
        let blocks := (r.rows + 1) * r.rowb / 64 - r.rows * r.rowb / 64
        let s := match r.ctr with
          | some k => (List.range blocks).foldl (fun (s : State) (_ : Nat) => s.sendArrival c ⟨k, 64, none, [], none, r.ctx, none⟩) s
          | none => s
        let r := { r with rows := r.rows + 1, refusals := 0 }
        .done (if r.rows * r.rowb ≥ r.len then s.endRegion c n { r with state := .present } else s.setRegion c n r)
    | (o, _) => o

/-- REGION_COPY_ROW (R304): entry e of the cluster's region table has its next row copied. -/
def execRegionCopyRow (s : State) : Host.Outcome State Fault Refusal :=
  let c := s.actor
  let e := s.item
  let r := s.region c e
  .next (if r.state = .filling ∧ r.after ≤ s.cycleOf (c / 128) then
      (match s.regionStep c e r with
      | .hold s' => s'
      | .done s' => s'
      | .fault .. => s)
    else s)

end Sys2Proof.Machine
end

