-- ==== Sys2Proof/Machine/Arms.lean ====
section
/-! DEFINITION. The arm engine (R237, R267, R268): fired actions run in firing order; one that exhausts its retries or
meets a trap leaves its entry FAILED. -/

namespace Sys2Proof.Machine

/-- What an action does when it is presented. -/
inductive ActionEnd
  /-- It is done and its entry is free. -/
  | done (s : State)
  /-- Its entry is FAILED (R268). -/
  | failed (s : State)
  /-- Its request was refused (R194). -/
  | refused (a : Action) (s : State)
  /-- Its request to another die is on its way (R356). -/
  | net (a : Action) (s : State)
  /-- The engine waits for the copy unit's queue, or for a word of an absent window. -/
  | waits (s : State)

/-- The target at which actions of one engine keep their order (R268). -/
def Action.target (a : Action) : Nat :=
  match a.form.act with
  | 2 => 2 ^ 70 + a.form.w2.toNat
  | 4 | 5 => 2 ^ 71 + targetSlot a.form.w2
  | _ => 2 ^ 72 + a.entry

/-- The first action that is due and not held behind an earlier one to the same target. -/
def nextAction (now : Nat) : List Action → List Action → Option Action
  | _, [] => none
  | seen, a :: r =>
    if a.after ≤ now ∧ !(seen.any fun b => b.target == a.target) then some a else nextAction now (seen ++ [a]) r

/-- An action acquires what the counter's value reflected (R237). -/
def State.actionAcquire (s : State) (a : Action) : State := s.acquireAll a.t 6 a.rel

/-- The release at pod scope of the arm engine, which covers what the counter's value reflected (R224, R237). -/
def State.actionRelease (s : State) (a : Action) : List Release × State :=
  let (r, s) := (s.actionAcquire a).releaseCluster a.t 6
  (a.rel.foldl addRel [] ++ [r], s)

/-- An action that sends or increments releases when it is first presented; what the releases of a send cover is written back
before it leaves its cluster (R224, R232). -/
def State.actionPresent (s : State) (a : Action) : Action × State :=
  match a.out with
  | some _ => (a, s)
  | none =>
    let (r, s) := s.actionRelease a
    ({ a with out := some r }, if a.form.act = 2 then s else r.foldl (fun s p => s.writeBackMarked (clusterOf p.tid) p.pos) s)

/-- An increment or a send of an arm engine, at its target: what it is told (R47, R152, R253, R348). -/
def State.actionArrives (s : State) (c : Nat) (a : Action) : Told × State :=
  let rel := a.out.getD []
  if a.form.act = 2 then
    match counterRef a.t a.form.w2 with
    | none => (.denied, s)
    | some (d, k) =>
      if d ≠ c ∧ (s.clusterCheck a.t d).isSome then (.denied, s)
      else if d ≠ c ∧ s.portRefuses d a.ctx false 1 then (.refused, s)
      else (.granted, s.sendArrival d ⟨k, (a.form.w3.extractLsb' 0 32).toNat, none, rel, none, a.ctx, none⟩)
  else if (s.sendCheck a.t a.form.w2).isSome then (.denied, s)
  else
    let e := if a.form.act = 5 then QEntry.token else QEntry.word a.form.w3
    match s.admitMsg a.t ⟨targetSlot a.form.w2, 0, { e with rel := rel }⟩ with
    | .admitted s' => (.granted, s')
    | .refused => (.refused, s)
    | .permission => (.denied, s)

/-- An increment or a send of an arm engine is presented to a die: within its own at once, else as a packet (R354, R356). -/
def State.actionAsk (s : State) (c : Nat) (a : Action) (die cls : Nat) : ActionEnd :=
  let (a, s) := s.actionPresent a
  match s.ask (c / 32) die cls (s.partOf a.t) (.action c a.entry) a.net with
  | .waits n s => .net { a with net := n } s
  | .refused => .refused a s
  | .failed _ s => .failed s
  | .granted =>
    if die ≠ c / 32 then .done s
    else match s.actionArrives c a with
      | (.granted, s) => .done s
      | (.refused, s) | (.bounced, s) => .refused a s
      | (.denied, s) => .failed s

/-- An armed pull or reduce is issued as the arming thread would issue it, after the action's acquire (R237, R268). -/
def State.runPull (s : State) (c : Nat) (a : Action) : ActionEnd :=
  let ctl := a.form.w4
  let kind : JobKind := if a.form.act = 0 then .pull
    else .reduce (match a.form.typ with | 0 => .fp32 | 1 => .bf16 | _ => .s32) a.form.rm false
  if (s.cluster c).copyUsed ≥ 64 then .waits s
  else match copyRange a.form.w3 (ctlLen ctl) true 8, copyRange a.form.w2 (ctlLen ctl) false 8 with
    | .ok w, .ok _ =>
      let j := { s.newJob a.t .strandA kind a.form.w3 0 a.form.w2 (ctlLen ctl) ctl none a.limit true with ctx := a.ctx }
      let s := if ctlEmp ctl then s.emptyWords a.t w 0 a.form.w3.toNat (ctlLen ctl) else s
      .done ((s.actionAcquire a).acceptJob c false j)
    | _, _ => .failed s

/-- An armed increment (R253, R268). -/
def State.runIncrement (s : State) (c : Nat) (a : Action) : ActionEnd :=
  match counterRef a.t a.form.w2 with
  | none => .failed s
  | some (d, _) =>
    if d ≠ c ∧ a.net = .idle ∧ (s.clusterCheck a.t d).isSome then .failed s else s.actionAsk c a (d / 32) 0

/-- An armed advance of a sequence word (R260, R268), which touches the word that it reads (R303). -/
def State.runAdvance (s : State) (a : Action) : ActionEnd :=
  let w := if a.form.typ = 0 then 32 else 64
  match s.resolve a.t a.form.w2 (w / 8) (w / 8) 0 .store true with
  | .error _ => .failed s
  | .ok (g, s) =>
    if kindBad g true then .failed s
    else match (if isSram g.key && g.home == clusterOf a.t then s.touchWord a.t g.key else .clear s) with
    | .wait s => .waits s
    | .fault _ _ _ s => .failed s
    | .clear s =>
      let s := s.homeFresh a.t .strandA g
      let v := a.form.w3.toNat % 2 ^ w
      if v > s.homeValue g (w / 8) then
        let (rel, s) := s.actionRelease a
        .done (s.homeStore a.t g (w / 8) v rel)
      else .done s

/-- An armed send (R152, R154, R268). -/
def State.runSend (s : State) (c : Nat) (a : Action) : ActionEnd :=
  if a.net = .idle ∧ (s.sendCheck a.t a.form.w2).isSome then .failed s else s.actionAsk c a (dieOf (targetSlot a.form.w2)) 3

def State.runAction (s : State) (c : Nat) (a : Action) : ActionEnd :=
  match a.form.act with
  | 0 | 1 => s.runPull c a
  | 2 => s.runIncrement c a
  | 3 => s.runAdvance a
  | _ => s.runSend c a

def State.dropAction (s : State) (c : Nat) (a : Action) : State :=
  s.updCluster c fun cl => { cl with actions := cl.actions.erase a }

/-- An action goes on waiting as another says. -/
def State.setAction (s : State) (c : Nat) (a b : Action) : State :=
  s.updCluster c fun cl => { cl with actions := cl.actions.map fun q => if q = a then b else q }

/-- The entry of an action that has ended: free, or FAILED (R267, R268). -/
def State.endEntry (s : State) (c : Nat) (a : Action) (st : ArmState) : State :=
  let e := s.armEntry c a.entry
  if e.state = .fired ∧ e.form = a.form ∧ e.t = a.t then s.setArm c a.entry { e with state := st } else s

/-- ARM_ACTION_RUN (R268): the next action of cluster c's arm engine is presented. -/
def execArmActionRun (s : State) : Host.Outcome State Fault Refusal :=
  let c := s.actor
  .next (match nextAction (s.cycleOf (c / 128)) [] (s.cluster c).actions with
    | none => s
    | some a =>
      match s.runAction c a with
      | .done s' => (s'.dropAction c a).endEntry c a .free
      | .failed s' => (s'.dropAction c a).endEntry c a .failed
      | .waits s' => s'
      | .net b s' => s'.setAction c a b
      | .refused b s' =>
        if a.refusals + 1 ≥ 1 + a.limit then (s'.dropAction c a).endEntry c a .failed
        else s'.setAction c a { b with refusals := a.refusals + 1, after := s.cycleOf (c / 128) + 64, net := .idle })

end Sys2Proof.Machine
end

