-- ==== Sys2Proof/Machine/Fence.lean ====
section
/-! DEFINITION. Fences, cache maintenance and L2 leases (R211 to R218, R226, R229), and the steps of the shared cache:
fills, paste errors, capacity snapshots, page counts, acquires at a releaser (R232 to R234, R309 to R321). -/

namespace Sys2Proof.Machine

/-! ### Fences (R211, R212, R226) -/

/-- Jobs whose source reads are accesses of the strand that issued them (R209, R219). -/
def JobKind.reads : JobKind → Bool
  | .pull | .reduce .. | .rows .. => true
  | .pin .. | .ms .. => false

/-- Work of the strand itself that a fence covers: atomics, ticket reads and the source reads of its pulls (R212, R219);
its stores are performed when the fence completes (R235). -/
def State.ownBusy (s : State) (t : Nat) (x : Side) : Bool :=
  ((s.strand t x).pend.any fun o => match o.kind with | .atomic .. => true | _ => false) ||
  (s.tickets.any fun p => p.2.state == .filling && p.2.span != 0 && p.2.t == t && p.2.x == x) ||
  (s.cluster (clusterOf t)).copyQ.any fun j => j.t == t && j.x == x && !j.armed && !j.held && j.kind.reads

/-- A `rdmm` of a strand whose ticket has not been answered, so that its words are still to be written (R203, R211). -/
def Strand.redeeming (st : Strand) : Bool :=
  st.flight.any fun f => match f.req with | some (.present _ _ (.redeemMem ..)) | some (.redeemed ..) => true | _ => false

/-- Copy-unit jobs of a thread and absent-window copies that its accesses started. -/
def State.copyBusy (s : State) (t : Nat) : Bool :=
  let cl := s.cluster (clusterOf t)
  (cl.copyQ.any fun j => j.t == t && !j.held && !j.armed) ||
  cl.regions.any fun p => p.2.state == .filling && p.2.touched.contains t

def State.msBusy (s : State) (t : Nat) : Bool := (s.cluster (clusterOf t)).msQ.any fun j => j.t == t && !j.held

/-- `cld` and `cst` transfers of a thread. -/
def State.matBusy (s : State) (t : Nat) : Bool :=
  (s.core (coreOf t)).queue.any fun q => q.t == t && (match q.op with | .cld .. | .cst .. => true | _ => false)

/-- Actions that the cluster's arm table has fired, and the jobs that they started. -/
def State.armBusy (s : State) (t : Nat) : Bool :=
  let cl := s.cluster (clusterOf t)
  !cl.actions.isEmpty || cl.copyQ.any fun j => j.armed && !j.held

/-- Whether covered work is not complete: the strand's own, and the classes of the mask (R211). -/
def State.covered (s : State) (t : Nat) (x : Side) (mask : BitVec 5) : Bool :=
  s.ownBusy t x || (mask.getLsbD 0 && s.copyBusy t) || (mask.getLsbD 1 && (s.strand t (otherSide x)).redeeming) ||
  (mask.getLsbD 2 && s.msBusy t) ||
  (mask.getLsbD 3 && s.matBusy t) || (mask.getLsbD 4 && s.armBusy t)

/-- Whether a home lies in a cluster of the scope's instance; at scope `pd` every home does (R212). -/
def homeInScope (scope t h : Nat) : Bool :=
  if scope ≥ 6 then true
  else if scope = 5 then h / 128 == deviceOf t && decide (h < hostHome)
  else if scope = 4 then h / 32 == dieOf t && decide (h < hostHome)
  else h == clusterOf t

/-- The release of a fence; later stores and pushes of the strand carry it (R226). -/
def State.fenceRelease (s : State) (t : Nat) (x : Side) (scope : Nat) : State :=
  let (r, s) := s.release t x scope
  s.updStrand t x fun st => { st with fenceRel := addRel st.fenceRel r }

/-- The acquire of a fence: every release that the strand observed, and the clean lines of every home that it
observed, since its previous one (R226, R233). -/
def State.fenceAcquire (s : State) (t : Nat) (x : Side) (scope : Nat) : State :=
  let st := s.strand t x
  let s := (s.acquireAll t scope st.obs).dropClean (coreOf t) (homeIn (deviceOf t) st.homes)
  s.updStrand t x fun st => { st with obs := st.obs.filter (fun r => !synchronises r t scope), homes := [] }

/-- What a `.sc` fence does beside: the core's dirty lines reach their homes, and its clean lines of the instance are
dropped (R212). -/
def State.fenceSc (s : State) (t scope : Nat) : State :=
  let s := (s.l1.filter fun l => l.core == coreOf t && l.dirty != 0).foldl (fun s l => s.writeBackL1 l) s
  s.dropClean (coreOf t) (homeInScope scope t)

/-- A fence completes: form 0 `.acq`, 1 `.rel`, 2 `.ar`, 3 `.sc`; stores of the thread's redeems are performed when
the mask has TKT. -/
def State.fenceEffect (s : State) (t : Nat) (x : Side) (form scope : Nat) (mask : BitVec 5) : State :=
  let s := if mask.getLsbD 1 then s.drainStores t (otherSide x) else s
  let s := if form = 0 then s else s.fenceRelease t x scope
  let s := if form = 1 then s else s.fenceAcquire t x scope
  if form = 3 ∧ scope ≠ 0 then s.fenceSc t scope else s

/-- Whether a fence has to wait: `.acq` never does, nor does scope `ln` (R212). -/
def State.fenceWaits (s : State) (t : Nat) (x : Side) (form scope : Nat) (mask : BitVec 5) : Bool :=
  form != 0 && scope != 0 && s.covered t x mask

/-- What the description of the row permits. -/
def fenceDesc (e : Enc) : Desc :=
  { legal := e.fn.toNat ≤ 3 && e.ty == .none, gs := .scope [0, 1, 2, 3, 4, 5, 6]
    imm := .role (e.imm.extractLsb' 5 19 == 0) }

/-- `fence` (R211, R212). -/
def execFence (e : Enc) (s : State) : Host.Outcome State Fault Refusal :=
  issue (fenceDesc e) e s fun s =>
    let form := e.fn.toNat
    let scope := e.gs.toNat
    let mask := e.imm.extractLsb' 0 5
    if s.fenceWaits s.curT s.curX form scope mask then .error (.wait (.fence form scope mask))
    else .ok (s.fenceEffect s.curT s.curX form scope mask).next

/-- FENCE_COMPLETE (R212): the covered work of strand (t, x)'s fence is complete, and the strand goes on. -/
def execFenceComplete (s : State) : Host.Outcome State Fault Refusal :=
  let t := s.curT
  let x := s.curX
  .next (match s.thread? t with
    | none => s
    | some th =>
      match (th.strand x).status with
      | .waiting (.fence form scope mask) =>
        if s.fenceWaits t x form scope mask then s else (s.fenceEffect t x form scope mask).finish t x []
      | _ => s)

/-! ### Cache maintenance (R213 to R216, R319) -/

inductive Maint | clean | inval | discard | invalI
  deriving DecidableEq, Repr

/-- Translation of every page of a range; one that a load could not reach raises what the load would (R29, R331). -/
def State.checkPages (s : State) (t : Nat) (w : Window) : Nat → Nat → Except Stop State
  | 0, _ => .ok s
  | n + 1, va =>
    match s.place t va 1 0 w .read with
    | .error c => .error (.at c (wordOf va))
    | .ok (_, s') => s'.checkPages t w n (va / 65536 * 65536 + 65536)

/-- The range of a maintenance instruction checked as R29 lays down. -/
def State.maintRange (s : State) (t : Nat) (va : Word) (n : Nat) : Except Stop (Window × State) :=
  match spanCheck va.toNat n 1 .read false with
  | .error c => .error (.at c va)
  | .ok w =>
    if n = 0 then .ok (w, s)
    else match w with
      | .own | .global =>
        (match s.checkPages t w ((va.toNat + n - 1) / 65536 - va.toNat / 65536 + 1) va.toNat with
        | .error x => .error x
        | .ok s' => .ok (w, s'))
      | .pod =>
        (match s.podCheck t va.toNat n with
        | some c => .error (.at c va)
        | none => .ok (w, s))
      | _ => .ok (w, s)

/-- One 64-byte line of a range: the issuing core's L1, and at a die scope the slice of the issuing die. -/
def State.maintLine (s : State) (t : Nat) (op : Maint) (die : Bool) (g : Target) : State :=
  let k := coreOf t
  let sl := dieOf t * 32 + sliceOf (keyPa g.key)
  let dropL1 (s : State) : State := { s with l1 := s.l1.filter (fun l => !(l.core == k && l.line == g.key / 64)) }
  let cleanL1 (s : State) : State := match s.findL1 k (g.key / 64) with
    | some l => s.writeBackL1 l
    | none => s
  let l2 (s : State) (f : State → State) : State := if die && !isSram g.key then f s else s
  match op with
  | .invalI => { s with il1 := s.il1.filter (fun l => !(l.core == k && l.line == g.key / 64)) }
  | .clean => l2 (cleanL1 s) fun s => s.cleanRind sl (g.key / 64)
  | .inval => l2 (dropL1 (cleanL1 s)) fun s => s.evictRind sl (g.key / 64)
  | .discard => l2 (dropL1 s) fun s => s.invalidRind sl (g.key / 64)

/-- The line at an address; AT and RS lines are never cached (R213, R216). -/
def State.maintAt (s : State) (t : Nat) (op : Maint) (die : Bool) (w : Window) (va : Nat) : State :=
  match s.place t va 1 0 w .read with
  | .ok (g, s1) => if g.kind = 0 ∨ g.kind = 2 ∨ op = Maint.invalI then s1.maintLine t op die g else s1
  | .error _ => s

/-- A maintenance instruction: the range is checked, then the line at `%prog` is dealt with; SRAM has none (R213, R216). -/
def maintBody (op : Maint) (e : Enc) (s : State) : Except Stop State := do
  let va := effAddr s e
  let n := (s.my.getS e.sb.idx.toNat).toNat
  let (w, s) ← s.maintRange s.curT va n
  let at_ := va.toNat + s.my.prog.toNat
  match w with
  | .own | .global | .pod =>
    if n ≤ s.my.prog.toNat then s.rangeStep 0 0
    else (s.maintAt s.curT op (decide (e.gs.toNat ≥ 4)) w at_).rangeStep n (at_ / 64 * 64 + 64 - va.toNat)
  | _ => s.rangeStep 0 0

def maintDesc (e : Enc) (fn : Nat) : Desc :=
  { legal := e.fn.toNat == fn && e.ty == .none, gs := .scope [0, 1, 2, 3, 4, 5, 6], sw := true, sa := sReg, sb := sReg
    imm := .role true }

/-- `clean` (R213, R214). -/
def execClean (e : Enc) (s : State) : Host.Outcome State Fault Refusal :=
  issue (maintDesc e 0) e s fun s => maintBody .clean e s
/-- `inval` (R213, R214). -/
def execInval (e : Enc) (s : State) : Host.Outcome State Fault Refusal :=
  issue (maintDesc e 0) e s fun s => maintBody .inval e s
/-- `inval.i` (R213, R214). -/
def execInvalI (e : Enc) (s : State) : Host.Outcome State Fault Refusal :=
  issue (maintDesc e 1) e s fun s => maintBody .invalI e s
/-- `discard` (R213, R215). -/
def execDiscard (e : Enc) (s : State) : Host.Outcome State Fault Refusal :=
  issue (maintDesc e 0) e s fun s => maintBody .discard e s

/-- What the description of the row permits. -/
def prefDesc (e : Enc) : Desc :=
  { maintDesc e 0 with gs := .scope [1, 4] }

/-- `pref` (R217): a hint without effect on architectural state. -/
def execPref (e : Enc) (s : State) : Host.Outcome State Fault Refusal :=
  issue (prefDesc e) e s fun s => .ok s.next

/-! ### Leases (R218, R320) -/

/-- Statuses of `lease`, in the order BADARG, INUSE, NOSPACE (log 26). -/
def State.leaseStatus (s : State) (die ctx : Nat) (a b : Word) : Word :=
  let n := (b.extractLsb' 0 13).toNat
  if a.extractLsb' 3 61 ≠ 0 ∨ n = 0 ∨ n > 4096 ∨ b.extractLsb' 20 44 ≠ 0 ∨ b.extractLsb' 13 3 ≠ 0 ∨ b.getLsbD 19 then 3
  else if s.leases.any fun l => l.die == die && l.ctx == ctx && l.lid == (a.extractLsb' 0 3).toNat then 2
  else if ((s.leases.filter fun l => l.die == die).map (·.entries)).sum + n > 32768 then 1
  else 0

/-- What the description of the row permits. -/
def leaseDesc (e : Enc) : Desc :=
  { legal := e.fn == 0 && e.ty == .none, gs := .scope [4], da := sReg, sa := sReg, sb := sReg }

/-- `lease` (R218). -/
def execLease (e : Enc) (s : State) : Host.Outcome State Fault Refusal :=
  issue (leaseDesc e) e s fun s =>
    let a := s.my.getS e.sa.idx.toNat
    let b := s.my.getS e.sb.idx.toNat
    let die := dieOf s.curT
    let ctx := s.threadCtx s.curT
    let st := s.leaseStatus die ctx a b
    let s := if st = 0 then
        { s with leases := s.leases ++ [⟨die, ctx, (a.extractLsb' 0 3).toNat, (b.extractLsb' 0 13).toNat,
            s.now s.curT + 2 ^ (16 + (b.extractLsb' 16 3).toNat)⟩] }
      else s
    .ok (s.retire e.la false [.s e.da.idx.toNat st])

/-- A lease ends: its reservation goes and the pins of its lines are cleared (R218, R320). -/
def State.endLease (s : State) (die ctx lid : Nat) : State :=
  if s.leases.any fun l => l.die == die && l.ctx == ctx && l.lid == lid then
    let clear (r : Rind) : Rind :=
      if r.slice / 32 == die && r.pin && r.ctx == ctx && r.lid == lid then { r with pin := false } else r
    { s with leases := s.leases.filter (fun l => !(l.die == die && l.ctx == ctx && l.lid == lid))
             rind := s.rind.map clear }
  else s

/-- What the description of the row permits. -/
def unleaseDesc (e : Enc) : Desc :=
  { legal := e.fn == 0 && e.ty == .none, gs := .scope [4], sa := sReg }

/-- `unlease` (R218). -/
def execUnlease (e : Enc) (s : State) : Host.Outcome State Fault Refusal :=
  issue (unleaseDesc e) e s fun s =>
    let a := s.my.getS e.sa.idx.toNat
    .ok (s.endLease (dieOf s.curT) (s.threadCtx s.curT) (a.extractLsb' 0 3).toNat).next

/-- LEASE_EXPIRY (R218): the lifetime of a lease has run out. -/
def execLeaseExpiry (die ctx lid : Nat) (s : State) : Host.Outcome State Fault Refusal :=
  .next (if s.leases.any fun l => l.die == die && l.ctx == ctx && l.lid == lid && decide (l.ends ≤ s.cycleOf (die / 4)) then
    s.endLease die ctx lid else s)

/-! ### Steps of the slices (R234, R317, R318, R321) -/

/-- The contents that a fill brings: the home slice's for a replica, else what home memory holds. -/
def State.fillData (s : State) (f : Fill) : BitVec 512 :=
  match homeSlice f.home (f.line * 64) with
  | some sl => s.homeLine (some sl) f.line
  | none => s.homeLine none f.line

/-- A die that holds a replica of a page joins the sharer mask that the home die keeps (R234). -/
def State.addSharer (s : State) (f : Fill) : State :=
  let die := f.slice / 32
  let add (p : PageUse) : PageUse :=
    if p.die == f.home / 32 && p.page == f.line / 1024 && !p.sharers.contains die then { p with sharers := die :: p.sharers } else p
  if f.home < hostHome ∧ f.home / 32 ≠ die then { s with pages := s.pages.map add } else s

/-- A fill of another die's line is kept only while its page is in replicated mode (R234, R309). -/
def State.fillKept (s : State) (f : Fill) : Bool :=
  decide (f.home ≥ hostHome) || f.home / 32 == f.slice / 32 ||
  s.pages.any fun p => p.die == f.home / 32 && p.page == f.line / 1024 && p.replicated

/-- L2_LINE_INSTALL (R317): fill n, once its data is on the slice's die, reaches its slice and is installed; one of a poisoned line is not kept, nor a replica whose
page has gone back to memory-side mode. -/
def execL2LineInstall (s : State) : Host.Outcome State Fault Refusal :=
  let n := s.actor
  .next (match s.fills.find? (fun f => f.id == n && !f.onWay) with
    | none => s
    | some f =>
      let s := { s with fills := s.fills.filter (fun q => q.id != n) }
      if (s.findRind f.slice f.line).isSome || s.linePoisoned (homeSlice f.home (f.line * 64)) (f.line * 64) 64 || !s.fillKept f then s
      else (s.install ⟨f.slice, f.line, f.home, s.fillData f, f.part, f.dom, f.ctx, false, false⟩ f.pin).addSharer f)

/-- PASTE_ECC_ERROR (R318): entry n of a slice's paste holds uncorrectable data; every CLEAN entry that points at it
is INVALID at once. -/
def execPasteEccError (s : State) : Host.Outcome State Fault Refusal :=
  let slice := s.actor
  let n := s.item
  let mark (p : Paste) : Paste := if p.slice == slice && p.idx == n then { p with psn := true } else p
  let s1 := { s with paste := s.paste.map mark }
  let bad := s.rind.filter fun r => r.slice == slice && r.st == .clean && r.pptr == n
  .next (bad.foldl (fun s r => s.invalidRind r.slice r.line) s1)

/-- The capacity report of a partition on a die (R321). -/
def State.l2Report (s : State) (die part : Nat) : Word :=
  let m := (s.rind.filter fun r => r.slice / 32 == die && r.part == part).length
  let p := (s.paste.filter fun q => q.slice / 32 == die && q.part == part).length
  let ratio := if p = 0 then (if m = 0 then 0x100 else 0xFFFF) else min (256 * m / p) 0xFFFF
  wordOf (m * 2 ^ 42 + p * 2 ^ 20 + ratio)

/-- Partitions that a die's report counts now or counted before. -/
def State.l2Parts (s : State) (die : Nat) : List Nat :=
  let now := (s.rind.filter fun r => r.slice / 32 == die).map (·.part)
  let old := ((s.device (die / 4)).l2stat.filter fun p => p.1 / 64 == die).map fun p => p.1 % 64
  (List.range 64).filter fun p => now.contains p || old.contains p

/-- L2STAT_SNAPSHOT (R321): every 1,024 cycles. -/
def execL2statSnapshot (s : State) : Host.Outcome State Fault Refusal :=
  let die := s.actor
  .next (if s.cycleOf (die / 4) % 1024 = 0 then
    s.updDevice (die / 4) fun d =>
      { d with l2stat := (s.l2Parts die).foldl (fun l p => tset l (die * 64 + p) (s.l2Report die p)) d.l2stat }
    else s)

/-- PAGE_COUNT_PERIOD (R234): every 65,536 cycles the counts of a home die are cleared. -/
def execPageCountPeriod (s : State) : Host.Outcome State Fault Refusal :=
  let die := s.actor
  let clear (p : PageUse) : PageUse := if p.die = die then { p with reads := 0, writes := 0 } else p
  .next (if s.cycleOf (die / 4) % 65536 = 0 then { s with pages := s.pages.map clear } else s)

/-- ACQUIRE_AT_RELEASER (R232, R233): the acquires of strand (t, x)'s pops reach their releasing clusters. -/
def execAcquireAtReleaser (s : State) : Host.Outcome State Fault Refusal :=
  let t := s.curT
  let x := s.curX
  .next (match s.thread? t with
    | none => s
    | some th =>
      let l := (th.strand x).acquire
      let s := l.foldl (fun s p => s.acquireFrom t p.1 p.2) s
      s.updStrand t x fun st => { st with acquire := [] })

end Sys2Proof.Machine
end

