-- ==== Sys2Proof/Machine/Atomic.lean ====
section
/-! DEFINITION. Fetch-and-op atomics (R271 to R276) and reduction slots (R277 to R282). -/

namespace Sys2Proof.Machine

/-! ### Atomics (R271 to R274) -/

/-- TY of the atomics. -/
def atomicTy (t : Ty) : Bool := t == .s32 || t == .u32 || t == .s64 || t == .u64

/-- New value of the target, or none where a compare fails (R271, R274). -/
def AtomicOp.eval (o : AtomicOp) (signed : Bool) (w old b d : Nat) : Option Nat :=
  let pick (c : Bool) : Nat := if c then old else b
  match o with
  | .add => some ((old + b) % 2 ^ w)
  | .and => some (old &&& b)
  | .or => some (old ||| b)
  | .xor => some (old ^^^ b)
  | .min => some (pick (decide (intOf signed w old < intOf signed w b)))
  | .max => some (pick (decide (intOf signed w old > intOf signed w b)))
  | .swp => some b
  | .cas => if old = d then some b else none

/-- Steps 5 to 8 of R272. -/
def atomicPlaceBad (op : AtomicOp) (ty : Ty) (g : Target) : Option Cause :=
  match g.leaf with
  | none => none
  | some w =>
    let pa := leafFrame w * 2 ^ 16
    if isHostPa pa then some .atomicType
    else if isMgmtPa pa then some .pageKind
    else if leafKind w = 4 then some .pageKind
    else if g.win = .global ∧ leafKind w ≠ 3 then some .notOwner
    else if leafKind w = 3 ∧ (op = .min ∨ op = .max) ∧ tyWidth false ty = 32 then some .atomicType
    else none

/-- Die at which an atomic executes: its home's, or the issuing strand's for a page of the host. -/
def AtomicReq.die (r : AtomicReq) (t : Nat) : Nat := if r.home < hostHome then r.home / 32 else dieOf t

/-- An admitted atomic of strand (t, x) is accepted: it makes its release, and executes at ATOMIC_EXECUTE (R224, R275). One for
another die is accepted when its packet has passed that die's check of PART, the last of its access checks (R39, R372). -/
def State.acceptAtomic (s : State) (t : Nat) (x : Side) (a : AtomicWait) : State :=
  let fence := s.storeRel t x
  let (rel, s) := if a.rel then
      let (r, s') := s.release t x 6
      (fence ++ [r], s')
    else (fence, s)
  let far := ((s.strand t x).flight.filter (·.atomic.isSome)).bind (s.farOf t)
  s.updStrand t x fun st => st.acceptFar a.la (.atomic { a.r with rel := rel }) far

/-- The admission of an atomic's request, which the strand's flight carries while it is on its way (R275). -/
def State.admitAtomic (s : State) (die : Nat) (a : AtomicWait) : Except Stop State :=
  match s.admitReq die 0 with
  | .error (.waitIn c s') => .error (.waitIn c (s'.updMy fun st =>
      { st with flight := st.flight.map fun f => { f with atomic := some a } }))
  | o => o

/-- An atomic of the issuing strand: the checks of R272, admission where its page lies on another die (R275), then
acceptance. -/
def atomicBody (op : AtomicOp) (e : Enc) (s : State) : Except Stop State := do
  let w := tyWidth false e.ty
  let va := effAddr s e
  let (g, s) ← s.resolve s.curT va (w / 8) (w / 8) e.sw.toNat .atomic false
  match atomicPlaceBad op e.ty g with
  | some c => .error (.at c va)
  | none =>
    let t := s.curT
    let s ← s.touchRange t g
    let dm := s.lineDomain t g
    let r : AtomicReq := { op := op, ty := e.ty, key := g.key, va := va, home := g.home, kind := g.kind
                           b := s.my.getS e.sb.idx.toNat, d := s.my.getS e.da.idx.toNat, dst := e.da.idx.toNat
                           acq := e.gs.getLsbD 0, rel := [], part := dm.1, dom := dm.2.1, ctx := dm.2.2 }
    let a : AtomicWait := ⟨r, e.gs.getLsbD 1, e.la⟩
    let s ← s.admitAtomic (targetDie t g) a
    .ok (s.acceptAtomic t s.curX a)

def atomicDesc (e : Enc) : Desc :=
  { legal := e.fn == 0 && atomicTy e.ty, gs := .oneOf [0, 1, 2, 3], sw := true, da := sReg, sa := sReg, sb := sReg
    imm := .role true }

/-- `aadd` (R271). -/
def execAadd (e : Enc) (s : State) : Host.Outcome State Fault Refusal :=
  issue (atomicDesc e) e s fun s => atomicBody .add e s
/-- `aand` (R271). -/
def execAand (e : Enc) (s : State) : Host.Outcome State Fault Refusal :=
  issue (atomicDesc e) e s fun s => atomicBody .and e s
/-- `aor` (R271). -/
def execAor (e : Enc) (s : State) : Host.Outcome State Fault Refusal :=
  issue (atomicDesc e) e s fun s => atomicBody .or e s
/-- `axor` (R271). -/
def execAxor (e : Enc) (s : State) : Host.Outcome State Fault Refusal :=
  issue (atomicDesc e) e s fun s => atomicBody .xor e s
/-- `amin` (R271). -/
def execAmin (e : Enc) (s : State) : Host.Outcome State Fault Refusal :=
  issue (atomicDesc e) e s fun s => atomicBody .min e s
/-- `amax` (R271). -/
def execAmax (e : Enc) (s : State) : Host.Outcome State Fault Refusal :=
  issue (atomicDesc e) e s fun s => atomicBody .max e s
/-- `aswp` (R271). -/
def execAswp (e : Enc) (s : State) : Host.Outcome State Fault Refusal :=
  issue (atomicDesc e) e s fun s => atomicBody .swp e s
/-- What the description of the row permits. -/
def acasDesc (e : Enc) : Desc :=
  { atomicDesc e with daSrc := true }

/-- `acas` (R271): D holds the expected value. -/
def execAcas (e : Enc) (s : State) : Host.Outcome State Fault Refusal :=
  issue (acasDesc e) e s fun s => atomicBody .cas e s

/-- A home stack out of service or fenced (R275). -/
def State.stackFenced (s : State) (r : AtomicReq) : Bool :=
  !isSram r.key && decide (r.home < hostHome) && (s.fencedCluster r.home || s.outOfService r.home)

/-- What precedes the operation at its execution point (R273): the strand's own stores, or the cluster's dirty copies
of the line, and the issuing core's copy is gone. -/
def State.atomicFresh (s : State) (t : Nat) (x : Side) (r : AtomicReq) : State :=
  if isSram r.key then (s.drainStores t x).dropOwn (coreOf t) (r.key / 64)
  else if r.kind = 3 then s
  else (s.writeBackLine (clusterOf t) (r.key / 64)).dropOwn (coreOf t) (r.key / 64)

/-- The write of an atomic, with its releases (R224, R274). -/
def State.atomicWrite (s : State) (r : AtomicReq) (n v : Nat) : State :=
  if isSram r.key then s.writeSram r.key (leBytes n v) r.rel
  else
    let s := s.recordRel r.key r.rel
    if r.kind = 1 ∨ r.kind ≥ 3 then
      ({ (s.clearPoison r.key n) with mem := memWrite s.mem r.key (leBytes n v) }).watchRange r.key n
    else s.writeHome r.home r.key (leBytes n v) r.part r.dom r.ctx

/-- The read of an atomic observes or acquires what its location records (R224, R226). -/
def State.atomicObserve (s : State) (t : Nat) (x : Side) (r : AtomicReq) : State :=
  let rs := s.relOf r.key
  if r.acq then s.acquireAll t 6 rs else s.updStrand t x fun st => st.observe r.home rs

/-- One indivisible read-modify-write (R274). -/
def State.atomicRun (s : State) (t : Nat) (x : Side) (id : Nat) (r : AtomicReq) : State :=
  let w := tyWidth false r.ty
  let s := s.atomicFresh t x r
  let slice := if isSram r.key ∨ r.kind = 1 ∨ r.kind ≥ 3 then none else homeSlice r.home r.key
  if s.linePoisoned slice r.key (w / 8) then s.result t x (r.die t) id [] (some (TrapInfo.at .poison r.va))
  else
    let old := s.valueAt r.key r.home r.kind (w / 8)
    let s := s.atomicObserve t x r
    let s := match r.op.eval (tySigned r.ty) w old (r.b.toNat % 2 ^ w) (r.d.toNat % 2 ^ w) with
      | some v => s.atomicWrite r (w / 8) v
      | none => s
    s.result t x (r.die t) id [.s r.dst (extendInt (tySigned r.ty) w old)] none

/-- An admitted atomic is performed, or meets its home stack out of service or fenced (R274, R275). -/
def State.atomicEnd (s : State) (t : Nat) (x : Side) (id : Nat) (r : AtomicReq) : State :=
  if s.stackFenced r then s.result t x (r.die t) id [] (some (TrapInfo.at .homeFenced r.va)) else s.atomicRun t x id r

/-- The first atomic of a list of long operations that has not executed; atomics of one strand execute in program
order (R239, R275). -/
def firstAtomic (l : List LongOp) : Option (Nat × AtomicReq) :=
  l.findSome? fun o => match o.kind with
    | .atomic r => some (o.id, r)
    | _ => none

/-- ATOMIC_EXECUTE (R274): long operation `id` of strand (t, x) executes. -/
def execAtomicExecute (t : Nat) (x : Side) (id : Nat) (s : State) : Host.Outcome State Fault Refusal :=
  .next (match s.thread? t with
    | none => s
    | some th =>
      match firstAtomic (th.strand x).pend with
      | some (i, r) =>
        if i = id then s.atomicEnd t x id r else s
      | none => s)

/-! ### Reduction slots (R277 to R281) -/

def slotTy (t : Ty) : Bool := t == .fp32 || t == .s32 || t == .s64

/-- The place of a location of an RS page: any other place raises PAGE_KIND (R278). The key is that of the first
slot. -/
def State.slotPlace (s : State) (t : Nat) (va : Word) (sw : Nat) (acc : Access) : Except Stop (Target × State) :=
  match s.resolve t va 8 8 sw acc false with
  | .error x => .error x
  | .ok (g, s') => if g.kind = 4 then .ok (g, s') else .error (.at .pageKind va)

/-- What the description of the row permits. -/
def rsstDesc (e : Enc) : Desc :=
  { legal := e.fn == 0 && slotTy e.ty, gs := .oneOf [0, 2], sw := true, da := sReg, daSrc := true, sa := sReg
    imm := .role true }

/-- `rsst` (R279): the issuing core's own slot, zero above a 32-bit value. -/
def execRsst (e : Enc) (s : State) : Host.Outcome State Fault Refusal :=
  issue (rsstDesc e) e s fun s => do
    let (g, s) ← s.slotPlace s.curT (effAddr s e) e.sw.toNat .slotWrite
    let s ← s.admitReq (targetDie s.curT g) 0
    let (rel, s) := s.storeRelease (e.gs == 2)
    let s := s.recordRel g.key rel
    let v := (s.my.getS e.da.idx.toNat).toNat % 2 ^ tyWidth false e.ty
    let k := g.key + 8 * packageCore s.curT
    .ok ({ (s.clearPoison k 8) with mem := memWrite s.mem k (leBytes 8 v), sums := tdel s.sums g.key }).next

/-- Slot values of a location in ascending core order. -/
def State.slots (s : State) (key : Nat) : List Nat := (List.range 1024).map fun k => leNat (memRead s.mem (key + 8 * k) 8)

/-- The fp32 sum in ascending core order, saturated at the end (R280). -/
def slotSumF (rm : Rm) (ftz sat : Bool) : List Nat → FRes
  | [] => (0, 0)
  | v :: r =>
    let acc := r.foldl (fun (a : FRes) b =>
      let q := FOp.add.eval .fp32 rm ftz false a.1 (b % 2 ^ 32)
      (q.1, a.2 ||| q.2)) (flushBits .fp32 ftz v, 0)
    (satBits .fp32 sat acc.1, acc.2)

/-- The integer sum, exact, then clamped or wrapped (R280). -/
def slotSumI (sat : Bool) (w : Nat) (l : List Nat) : Nat := narrowInt sat true w ((l.map fun v => intOf true w v).sum)

/-- The sum of a location for an `rsld`: the one that the bank keeps when type and mode are those that made it, else the
sum of its slots, which the bank then keeps (R280). The third part says that a slot read was poisoned. -/
def State.slotSum (s : State) (key : Nat) (ty : Ty) (rm : Rm) (ftz sat : Bool) : Word × BitVec 5 × Bool × State :=
  let made (k : KeptSum) : Bool := k.ty == ty && k.rm == rm && k.ftz == ftz && k.sat == sat
  match (tget s.sums key).filter made with
  | some k => (k.val, k.flags, false, s)
  | none =>
    let w := tyWidth false ty
    let l := s.slots key
    let r := if ty = .fp32 then slotSumF rm ftz sat l else (slotSumI sat w l, 0)
    let v := extendInt (tySigned ty) w r.1
    if s.poisoned key 8192 then (v, r.2, true, s)
    else (v, r.2, false, { s with sums := tset s.sums key ⟨ty, rm, ftz, sat, v, r.2⟩ })

/-- What the description of the row permits. -/
def rsldDesc (e : Enc) : Desc :=
  let fl := e.ty == .fp32
  { legal := e.fn == 0 && slotTy e.ty, gs := .oneOf [0, 1], rmOk := fl, satOk := true, ftzOk := fl, sw := true
    da := sReg, sa := sReg, imm := .role true }

/-- `rsld` (R280), long. -/
def execRsld (e : Enc) (s : State) : Host.Outcome State Fault Refusal :=
  issue (rsldDesc e) e s fun s => do
    let (g, s) ← s.slotPlace s.curT (effAddr s e) e.sw.toNat .slotRead
    let s ← s.admitReq (targetDie s.curT g) 0
    let rs := s.relOf g.key
    let s := if e.gs == 1 then s.acquireAll s.curT 6 rs else s.updMy fun st => st.observe g.home rs
    let (v, f, bad, s) := s.slotSum g.key e.ty e.rm e.ftz e.sat
    .ok (s.retireLoad e.la [.s e.da.idx.toNat v, .fps f] (if bad then some (effAddr s e) else none))

/-- Memory with every slot of a location zero, and its kept sum gone (R281). -/
def State.clearSlots (s : State) (key : Nat) : State :=
  { (s.clearPoison key 8192) with sums := tdel s.sums key, mem := s.mem.filter (fun c => !(decide (key ≤ c.1) && decide (c.1 < key + 8192))) }

/-- Pages of the range of an `rsclr`, each of kind RS. -/
def State.slotPages (s : State) (t sw : Nat) : Nat → Nat → Except Stop State
  | 0, _ => .ok s
  | n + 1, va =>
    match s.slotPlace t (wordOf va) sw .slotWrite with
    | .error c => .error c
    | .ok (_, s') => s'.slotPages t sw n (va / 65536 * 65536 + 65536)

/-- What the description of the row permits. -/
def rsclrDesc (e : Enc) : Desc :=
  { legal := e.fn == 0 && e.ty == .none, gs := .oneOf [0, 2], sw := true, sa := sReg, sb := sReg
    imm := .role true }

/-- `rsclr` (R281): the location at `%prog`, in one event, with the release of a `.rel` form. -/
def execRsclr (e : Enc) (s : State) : Host.Outcome State Fault Refusal :=
  issue (rsclrDesc e) e s fun s => do
    let b := s.my.getS e.sb.idx.toNat
    let n := b.toNat
    let va := effAddr s e
    if b.extractLsb' 32 32 ≠ 0 then .error (.cause .reservedField)
    else
      match windowCheck va.toNat n 8 .slotWrite false with
      | .error c => .error (.at c va)
      | .ok _ =>
        if n % 8 ≠ 0 then .error (.at .align va)
        else
          let pages := if n = 0 then 0 else (va.toNat + n - 1) / 65536 - va.toNat / 65536 + 1
          let s ← s.slotPages s.curT e.sw.toNat pages va.toNat
          let done := s.my.prog.toNat
          if n ≤ done then s.rangeStep 0 0
          else
            let (g, s) ← s.slotPlace s.curT (va + wordOf done) e.sw.toNat .slotWrite
            let s ← s.admitReq (targetDie s.curT g) 0
            let (rel, s) := s.storeRelease (e.gs == 2)
            ((s.clearSlots g.key).recordRel g.key rel).rangeStep n (done + 8)

end Sys2Proof.Machine
end

