-- ==== Sys2Proof/Machine/Matrix.lean ====
section
/-! DEFINITION. The matrix unit (R289 to R301, R120 to R123): its queue, operand fetches, k-steps, ring groups, tile
instructions. -/

namespace Sys2Proof.Machine

/-! ### Operands (R120, R121, R292) -/

/-- Bytes of a row of A or column of B. -/
def Multiply.rowBytes (m : Multiply) : Nat := if m.ty == .pl then 32 * (m.ks + 1) else 64 * (m.ks + 1)

/-- Addresses of the 4-byte words of row r that k-step s reads, p planes of a plane tensor. -/
def Multiply.words (m : Multiply) (base p r s : Nat) : List Nat :=
  if m.ty == .pl then (List.range p).map fun w => base + m.rowBytes * r + 4 * (w * (m.ks + 1) + s)
  else (List.range 16).map fun i => base + m.rowBytes * r + 64 * s + 4 * i

def addNew (l : List Nat) (a : Nat) : List Nat := if l.contains a then l else l ++ [a]

/-- Lines of one operand that k-step s reads. -/
def Multiply.stepLines (m : Multiply) (base p s : Nat) : List Nat :=
  (List.range 64).foldl (fun l r => (m.words base p r s).foldl (fun l a => addNew l (a / 128)) l) []

def Multiply.linesA (m : Multiply) (s : Nat) : List Nat := m.stepLines m.a.toNat m.pa s
def Multiply.linesB (m : Multiply) (s : Nat) : List Nat := m.stepLines m.b.toNat m.pb s

/-- A 4-byte word of fetched lines. -/
def lineWord (l : List (Nat × BitVec 1024)) (va : Nat) : BitVec 32 :=
  (((tget l (va / 128)).getD 0) >>> (8 * (va % 128))).setWidth 32

/-- Values of the elements of 16 words of bf16 or fp16. -/
def fpRow (ty : Ty) (ftz : Bool) (ws : List (BitVec 32)) : List FVal :=
  ws.flatMap fun w =>
    [fDecode (fmtOf ty) ftz (w.toNat % 65536), fDecode (fmtOf ty) ftz (w.toNat / 65536)]

/-- The reading of element i from the words of p planes (R121). -/
def planeValue (mid : Bool) (ws : List (BitVec 32)) (i : Nat) : Int :=
  let p := ws.length
  let u := ws.foldl (fun a w => 2 * a + (if w.getLsbD i then 1 else 0)) 0
  let t := intOf true p u
  if mid then 2 * t + 1 else t

/-! ### A k-step (R122) -/

/-- One output element with an fp32 accumulator: 32 products and C, rounded once. -/
def dotStep (md : Rm) (ftz : Bool) (a b : List FVal) (c : Nat) : FRes :=
  let cv := fDecode .fp32 ftz c
  let pairs := a.zip b
  let prods := pairs.map fun p => if anyNan [p.1, p.2] then none else mulVal p.1 p.2
  let invalid := (pairs.zip prods).any fun p => !anyNan [p.1.1, p.1.2] && p.2.isNone
  let terms := cv :: prods.filterMap id
  let both := terms.contains (.inf false) && terms.contains (.inf true)
  let snan := (cv :: a ++ b).any fun v => v == .nan true
  let iv := if invalid || both || snan then flIV else 0
  if anyNan [cv] || prods.any Option.isNone || both then (Fmt.fp32.nan, iv)
  else
    let r := sumVals .fp32 md ftz terms
    (r.1, iv ||| r.2)

/-- One output element with an int32 accumulator: the new value and whether it overflowed. -/
def intStep (a b : List Int) (c : Nat) : Nat × Bool :=
  let t := intOf true 32 c + ((a.zip b).map fun p => p.1 * p.2).sum
  (wrapNat 32 t, decide (t < -2147483648) || decide (t > 2147483647))

/-- What a k-step makes of a tile, from the words of every row of A and column of B. -/
def Multiply.step (m : Multiply) (tile : Tile) (aw bw : List (List (BitVec 32))) : Tile × BitVec 5 :=
  if m.ty == .pl then
    let row (mid : Bool) (ws : List (BitVec 32)) : List Int := (List.range 32).map (planeValue mid ws)
    let as := aw.map (row (m.fn % 2 == 1))
    let bs := bw.map (row (m.fn / 2 % 2 == 1))
    let out := ((as.flatMap fun a => bs.map fun b => (a, b)).zip tile.data).map fun p => intStep p.1.1 p.1.2 p.2.toNat
    ({ tile with data := out.map (fun r => BitVec.ofNat 32 r.1), ovf := tile.ovf || out.any (·.2) }, 0)
  else
    let as := aw.map (fpRow m.ty m.ftz)
    let bs := bw.map (fpRow m.ty m.ftz)
    let out := ((as.flatMap fun a => bs.map fun b => (a, b)).zip tile.data).map fun p =>
      dotStep m.rm m.ftz p.1.1 p.1.2 p.2.toNat
    ({ tile with data := out.map (fun r => BitVec.ofNat 32 r.1) }, out.foldl (fun f r => f ||| r.2) 0)

/-- Scale and accumulate of one element (R123). -/
def scaleElem (rm : Rm) (sat ftz : Bool) (er ec : Nat) (i f : BitVec 32) : FRes :=
  let v := intOf true 32 i.toNat
  let x : FVal := .fin (decide (v < 0)) v.natAbs ((er : Int) + ec - 254)
  let r := fAdd .fp32 rm ftz (fDecode .fp32 ftz f.toNat) x
  (satBits .fp32 sat r.1, r.2)

/-! ### Tiles and the queue (R294, R301) -/

def State.tile (s : State) (k n : Nat) : Tile := (tget (s.core k).tiles n).getD Tile.zero
/-- A tile that is allocated is replaced. -/
def State.setTile (s : State) (k n : Nat) (tl : Tile) : State :=
  s.updCore k fun c => if (tget c.tiles n).isSome then { c with tiles := tset c.tiles n tl } else c

/-- Cores of a ring, and the ring position of a core (R14). -/
def ringCores (c key : Nat) : List Nat :=
  if key < 8 then [c * 8, c * 8 + 1, c * 8 + 3, c * 8 + 2]
  else if key < 16 then [c * 8 + 4, c * 8 + 5, c * 8 + 7, c * 8 + 6]
  else [0, 1, 4, 5, 7, 6, 3, 2].map (c * 8 + ·)

def ringSize (key : Nat) : Nat := if key < 16 then 4 else 8
def ringPos (k key : Nat) : Nat := ((ringCores (k / 8) key).findIdx? (· == k)).getD 0

/-- Tiles that an operation works on, whose STATE and KDONE are its own (R301, log 56). -/
def MatOp.tiles : MatOp → List Nat
  | .mma m => [m.d]
  | .mring key m => (List.range (ringSize key)).map (m.d + ·)
  | .scacc _ _ _ d _ _ _ => [d]
  | .cld d _ _ _ | .cst d _ _ _ | .czero d => [d]

def State.updQueue (s : State) (k id : Nat) (f : QueuedMat → QueuedMat) : State :=
  s.updCore k fun c => { c with queue := c.queue.map fun q => if q.id = id then f q else q }

def State.dropQueue (s : State) (k id : Nat) : State :=
  s.updCore k fun c => { c with queue := c.queue.filter fun q => q.id != id }

def State.queued (s : State) (k id : Nat) : Option QueuedMat := (s.core k).queue.find? fun q => q.id == id

/-- Current priority (R294). -/
def QueuedMat.priority (q : QueuedMat) : Nat := min 3 (q.base + q.aged)

/-- Progress of the X-strand that issued an operation (R293). -/
def State.matProg (s : State) (q : QueuedMat) : Nat := ((s.thread? q.t).map fun th => th.x.prog.toNat).getD 0

/-- The group in which an operation takes part, with its part. -/
def State.ringOf (s : State) (k id : Nat) : Option (Ring × RingPart) :=
  (s.cluster (k / 8)).rings.findSome? fun r =>
    if r.formed then (r.parts.find? fun p => p.id == id && p.here).map fun p => (r, p) else none

/-- k-steps applied to tile n by the operation so far (R301). -/
def State.kdone (s : State) (k : Nat) (q : QueuedMat) (n : Nat) : Nat :=
  match q.op with
  | .mma _ => s.matProg q
  | .mring key m =>
    let j := ringPos k key
    let rs := (j + ringSize key - (n - m.d)) % ringSize key
    min (s.matProg q - rs * (m.ks + 1)) (m.ks + 1)
  | _ => 0

/-- The tiles of an operation take its count when it ends or stops: it is then their last one (R301). -/
def State.recordK (s : State) (k : Nat) (q : QueuedMat) : State :=
  q.op.tiles.foldl (fun s n => s.setTile k n { s.tile k n with kdone := s.kdone k q n }) s

/-! ### Operand lines (R18, R293) -/

/-- What fetching one line finds. -/
inductive Fetch
  | wait (s : State)
  | fault (i : TrapInfo) (s : State)
  | data (v : BitVec 1024) (s : State)

/-- Touches of the words of a line (R303), and the recorded cause that one of them meets (R305). -/
def State.touchLine (s : State) (t : Nat) : List Nat → Option TrapInfo × State
  | [] => (none, s)
  | k :: r => match s.touchWord t k with
    | .fault c n f s' => (some (f.regionTrap c n), s')
    | .wait s' | .clear s' => s'.touchLine t r

/-- Keys of the words of the line of an address of the core's scratchpad, cluster memory or cave, after swizzle. -/
def lineKeys (t : Nat) (w : Window) (sw line : Nat) : List Nat :=
  (List.range 16).map fun i => localKey t w sw (128 * line + 8 * i)

/-- A line fetch: its 128-byte summary full, its words read (R236, R293, R384). -/
def State.fetchLine (s : State) (t : Nat) (w : Window) (sw line : Nat) : Fetch :=
  let ks := lineKeys t w sw line
  match s.touchLine t ks with
  | (some i, s) => .fault i s
  | (none, s) =>
    if !ks.all s.feFull then .wait s
    else if ks.any fun k => s.poisoned k 8 then .fault (TrapInfo.at .poison (wordOf (128 * line))) s
    else
      let v : BitVec 1024 := ks.zipIdx.foldl (fun (v : BitVec 1024) (p : Nat × Nat) =>
        v ||| (BitVec.ofNat 1024 (leNat (memRead s.mem p.1 8)) <<< (64 * p.2))) 0
      .data v (s.acquireEngine t)

/-- Window and swizzle of an operation's lines. -/
def MatOp.place : MatOp → Window × Nat
  | .mma m | .mring _ m => (.core, m.sw.toNat)
  | .cld _ a _ sw | .cst _ a _ sw => ((windowOf a.toNat).getD .core, sw.toNat)
  | _ => (.core, 0)

/-- Lines of the rows of `cld`. -/
def rowLines (a st : Word) : List Nat :=
  (List.range 64).flatMap fun i => let va := (a + wordOf i * st).toNat; [va / 128, va / 128 + 1]

/-- Ring step and k-step of a multiply's next k-step. -/
def Multiply.at (m : Multiply) (prog : Nat) : Nat × Nat := (prog / (m.ks + 1), prog % (m.ks + 1))

/-- Lines that the next step of an operation needs. -/
def State.nextLines (s : State) (q : QueuedMat) : List Nat :=
  match q.op with
  | .mma m => if s.matProg q > m.ks then [] else m.linesA (s.matProg q) ++ m.linesB (s.matProg q)
  | .mring key m =>
    let p := m.at (s.matProg q)
    if p.1 ≥ ringSize key then [] else m.linesA p.2 ++ (if p.1 = 0 then m.linesB p.2 else [])
  | .cld _ a st _ => rowLines a st
  | _ => []

/-- Every operand line of an operation. -/
def MatOp.lines : MatOp → List Nat
  | .mma m | .mring _ m => (List.range (m.ks + 1)).flatMap fun i => m.linesA i ++ m.linesB i
  | .cld _ a st _ => rowLines a st
  | _ => []

/-- Every line that an operation has still to read from its progress on. -/
def State.allLines (s : State) (q : QueuedMat) : List Nat :=
  let steps (m : Multiply) (from_ : Nat) (f : Nat → List Nat) : List Nat :=
    ((List.range (m.ks + 1)).filter fun i => from_ ≤ i).flatMap f
  match q.op with
  | .mma m => steps m (s.matProg q) fun i => m.linesA i ++ m.linesB i
  | .mring key m =>
    let p := m.at (s.matProg q)
    if p.1 ≥ ringSize key then []
    else steps m (if p.1 + 1 < ringSize key then 0 else p.2) m.linesA ++ (if p.1 = 0 then steps m p.2 m.linesB else [])
  | .cld _ a st _ => rowLines a st
  | _ => []

def QueuedMat.has (q : QueuedMat) (line : Nat) : Bool := (tget q.fetched line).isSome

/-- Lines of the next step not fetched yet. -/
def State.missing (s : State) (q : QueuedMat) : List Nat := (s.nextLines q).filter fun l => !q.has l

/-- Whether every missing line of the next step is full. -/
def State.linesFull (s : State) (q : QueuedMat) : Bool :=
  let w := q.op.place
  (s.missing q).all fun l => (lineKeys q.t w.1 w.2 l).all s.feFull

/-- Whether the latch of the next ring step is there and its successor has consumed enough (R297). -/
def State.latchReady (s : State) (k : Nat) (q : QueuedMat) : Bool :=
  match q.op with
  | .mring key m =>
    (match s.ringOf k q.id with
    | none => false
    | some (r, p) =>
      let n := ringSize key
      let st := (m.at (s.matProg q)).1
      let succ := ((r.parts.find? fun o => o.pos == (p.pos + 1) % n).map (·.steps)).getD 0
      decide (st ≤ succ) && (st == 0 || r.latches.any fun l => l.pos == p.pos && l.step == st && l.arrived))
  | _ => true

/-! ### Operands consumed (R296) -/

/-- Physical lines that an operation has not fetched. -/
def State.unfetched (s : State) (q : QueuedMat) : List Nat :=
  let w := q.op.place
  ((s.allLines q).filter fun l => !q.has l).map fun l => localKey q.t w.1 w.2 (128 * l) / 128

/-- Physical lines of every operand of an operation: those that it fetched before it was stopped and executed again among
them (R296). -/
def QueuedMat.operandLines (q : QueuedMat) : List Nat :=
  let w := q.op.place
  q.op.lines.map fun l => localKey q.t w.1 w.2 (128 * l) / 128

def MatOp.counter : MatOp → Option Nat
  | .mma m | .mring _ m => m.ctr
  | _ => none

/-- Some operation of a core's queue, but for one, has yet to fetch one of the lines. -/
def State.lineWanted (s : State) (k id : Nat) (lines : List Nat) : Bool :=
  let others := ((s.core k).queue.filter fun o => o.id != id).flatMap s.unfetched
  lines.any others.contains

/-- The operands-consumed arrivals of a core that are due (R296). -/
def State.consumedArrivals (s : State) (k : Nat) : State :=
  let send (s : State) (c ctx : Nat) : State := s.sendArrival (k / 8) ⟨c, 1, none, [], none, ctx, none⟩
  let s := (s.core k).queue.foldl (fun s q =>
    match q.op.counter with
    | none => s
    | some c =>
      if !q.consumed && (s.unfetched q).isEmpty && !s.lineWanted k q.id q.operandLines then
        send (s.updQueue k q.id fun q => { q with consumed := true }) c (s.threadCtx q.t)
      else s) s
  let due := (s.core k).owed.filter fun o => !s.lineWanted k s.nextId o.2.2
  due.foldl (fun s o => send s o.1 o.2.1) (s.updCore k fun co => { co with owed := co.owed.filter fun o => !due.contains o })

/-- A multiply is complete before its arrival is due: the core still owes it (R296). -/
def State.oweArrival (s : State) (k : Nat) (q : QueuedMat) : State :=
  match q.op.counter with
  | some c => if q.consumed then s else s.updCore k fun co => { co with owed := co.owed ++ [(c, s.threadCtx q.t, q.operandLines)] }
  | none => s

/-! ### Ring groups (R297, R298) -/

def State.updRings (s : State) (c : Nat) (f : List Ring → List Ring) : State :=
  s.updCluster c fun cl => { cl with rings := f cl.rings }

/-- A ring with its watchdog counting from now while every participant is there, paused otherwise. -/
def Ring.settle (r : Ring) (cycle : Nat) : Ring :=
  let run := r.parts.all fun p => p.here || decide (p.steps ≥ ringSize r.key)
  match r.since, run with
  | none, true => { r with since := some cycle }
  | some a, false => { r with since := none, counted := r.counted + (cycle - a) }
  | _, _ => r

/-- The cycles that the watchdog has counted. -/
def Ring.elapsed (r : Ring) (cycle : Nat) : Nat := r.counted + (match r.since with | some a => cycle - a | none => 0)

/-- Limit of a ring group's watchdog in cycles: `%watchdog`, where 0 acts as 2^20 (R298, R336). -/
def Cluster.ringLimit (cl : Cluster) : Nat := if cl.watchdog = 0 then 2 ^ 20 else cl.watchdog.toNat

/-- An `mring` of a group waits in a core's queue outside the group's present use. -/
def State.ringWaits (s : State) (c key : Nat) : Bool :=
  (ringCores c key).any fun k => (s.core k).queue.any fun q => match q.op with
    | .mring g _ => g == key && (s.ringOf k q.id).isNone
    | _ => false

/-- The next use of a group, whose watchdog starts at its first participant (R298). -/
def State.nextUse (s : State) (c key : Nat) : State :=
  if s.ringWaits c key && !(s.cluster c).rings.any (fun r => !r.formed && r.key == key) then
    s.updRings c fun l => l ++ [⟨key, [], false, (s.cluster c).ringLimit, 0, some (s.cycleOf (c / 128)), []⟩]
  else s

/-- An `mring` arrives: it rejoins the group that it left, or belongs to the next use, whose watchdog its first
participant starts (R298). -/
def State.joinRing (s : State) (k t key id : Nat) : State :=
  let c := k / 8
  let left (r : Ring) : Bool := r.formed && r.key == key && r.parts.any fun p => p.core == k && p.t == t && !p.here &&
    decide (p.steps < ringSize key)
  let rings := (s.cluster c).rings
  if rings.any left then
    let back (p : RingPart) : RingPart := if p.core = k ∧ p.t = t ∧ !p.here then { p with id := id, here := true } else p
    s.updRings c fun l => l.map fun r => if left r then { r with parts := r.parts.map back }.settle (s.cycleOf (c / 128)) else r
  else s.nextUse c key

/-- An operation is first among those of its thread. -/
def headOfThread (l : List QueuedMat) (q : QueuedMat) : Bool := (l.find? fun o => o.t == q.t).any fun o => o.id == q.id

/-- The `mring` of a core that would take part in the next use of a group. -/
def State.ringCandidate (s : State) (k key : Nat) : Option (QueuedMat × Multiply) :=
  let l := (s.core k).queue
  l.findSome? fun q => match q.op with
    | .mring g m => if g = key ∧ headOfThread l q ∧ (s.ringOf k q.id).isNone then some (q, m) else none
    | _ => none

/-- Participants of a group agree (R297). -/
def sameShape (a b : Multiply) : Bool := a.ty == b.ty && a.fn == b.fn && a.ks == b.ks && a.pa == b.pa && a.pb == b.pb

/-- The operation leaves the queue; the arrivals that this makes due are made. -/
def State.leaveQueue (s : State) (k : Nat) (q : QueuedMat) : State := ((s.recordK k q).dropQueue k q.id).consumedArrivals k

/-- An `mma` or `mring` ends in a trap of its strand, with the flags of its k-steps ORed in (R122, R293, R298). -/
def State.stopMultiply (s : State) (k : Nat) (q : QueuedMat) (i : TrapInfo) (clear : Bool) : State :=
  let s := s.leaveQueue k q
  match s.thread? q.t with
  | none => s
  | some _ =>
    (s.updStrand q.t .strandX fun st =>
      let st := st.orFps q.flags
      if clear then { st with prog := 0 } else st).raise q.t .strandX i

/-- The `mring` of each core of a group that has arrived and takes part in no formed group (R298). -/
def State.ringArrived (s : State) (c key : Nat) : List (Nat × QueuedMat) :=
  (ringCores c key).filterMap fun k => ((s.core k).queue.find? fun q => match q.op with
    | .mring g _ => g == key && (s.ringOf k q.id).isNone
    | _ => false).map fun q => (k, q)

/-- Every participant of a list raises RING_TIMEOUT. -/
def State.ringTimeout (s : State) (l : List (Nat × QueuedMat)) : State :=
  l.foldl (fun s p => s.stopMultiply p.1 p.2 (TrapInfo.plain .ringTimeout) true) s

/-- RING_GROUP_FORM (R297): group g of cluster c forms when every core of the ring has an `mring` of it at the head of
its thread's order; participants that do not agree raise RING_TIMEOUT. -/
def execRingGroupForm (s : State) : Host.Outcome State Fault Refusal :=
  let c := s.actor
  let g := s.item
  let cores := ringCores c g
  let cand := cores.filterMap fun k => (s.ringCandidate k g).map fun q => (k, q)
  let busy := (s.cluster c).rings.any fun r => r.formed && r.key == g
  .next (match (s.cluster c).rings.find? (fun r => !r.formed && r.key == g), cand with
    | some ring, (k0, q0) :: rest =>
      if busy || cand.length != cores.length then s
      else if rest.all fun p => sameShape q0.2 p.2.2 then
        let _ := k0
        let part (p : Nat × QueuedMat × Multiply) : RingPart :=
          ⟨ringPos p.1 g, p.1, p.2.1.t, p.2.1.id, true, min (ringSize g) (p.2.2.at (s.matProg p.2.1)).1⟩
        (s.updRings c fun l => l.filter (fun r => !(r.key == g && !r.formed)) ++ [{ ring with formed := true, parts := cand.map part }]).nextUse
          c g
      else
        ((s.updRings c fun l => l.filter fun r => !(r.key == g && !r.formed)).ringTimeout (cand.map fun p => (p.1, p.2.1))).nextUse c g
    | _, _ => s)

/-- RING_LATCH_ARRIVAL (R297): a latch that the predecessor of core k has passed arrives. -/
def execRingLatchArrival (s : State) : Host.Outcome State Fault Refusal :=
  let k := s.actor
  let hit (r : Ring) : Option Nat := if r.formed then (r.parts.find? fun p => p.core == k &&
    r.latches.any fun l => l.pos == p.pos && !l.arrived).map (·.pos) else none
  let take (r : Ring) : Ring := match hit r with
    | some pos => { r with latches := r.latches.map fun l => if l.pos = pos then { l with arrived := true } else l }
    | none => r
  .next (s.updRings (k / 8) fun l => l.map take)

/-- RING_WATCHDOG_EXPIRY (R298): the watchdog of group g of cluster c has reached its limit. -/
def execRingWatchdogExpiry (s : State) : Host.Outcome State Fault Refusal :=
  let c := s.actor
  let g := s.item
  let due (r : Ring) : Bool := r.key == g && r.since.isSome && decide (r.elapsed (s.cycleOf (c / 128)) ≥ r.limit)
  .next (match (s.cluster c).rings.find? due with
    | none => s
    | some r =>
      let l := if r.formed then r.parts.filterMap fun p => if p.here then (s.queued p.core p.id).map fun q => (p.core, q) else none
        else s.ringArrived c g
      ((s.updRings c fun rs => rs.filter fun q => !(q.key == g && q.formed == r.formed)).ringTimeout l).nextUse c g)

/-! ### Starting operations (R294) -/

/-- Whether an operation may start: first of its thread, and an `mring` only in a group that has formed. -/
def State.eligible (s : State) (k : Nat) (q : QueuedMat) : Bool :=
  headOfThread (s.core k).queue q && (match q.op with
    | .mring .. => (s.ringOf k q.id).isSome
    | _ => true)

/-- Operations that the unit may start: when one has yielded, only those whose lines are full. -/
def State.startable (s : State) (k : Nat) : List QueuedMat :=
  let l := (s.core k).queue
  let yielded := l.any fun q => q.state == .stalled
  l.filter fun q => q.state != .running && s.eligible k q && (!yielded || (s.linesFull q && s.latchReady k q))

/-- The highest current priority, the earliest arrival among equals. -/
def bestOp (l : List QueuedMat) : Option QueuedMat :=
  l.foldl (fun a q => match a with
    | none => some q
    | some b => if q.priority > b.priority then some q else some b) none

/-- MATRIX_OP_START (R294): the free unit of core k starts operation n, which is the best it may start. Its priority is
frozen. -/
def execMatrixOpStart (s : State) : Host.Outcome State Fault Refusal :=
  let k := s.actor
  let n := s.item
  .next (if (s.core k).queue.any fun q => q.state == .running then s
    else match bestOp (s.startable k) with
      | some q => if q.id = n then s.updQueue k n fun q => { q with state := .running, base := q.priority, aged := 0 } else s
      | none => s)

/-- MATRIX_PRIORITY_AGE (R294): operation n of core k has waited another 4,096 cycles. -/
def execMatrixPriorityAge (s : State) : Host.Outcome State Fault Refusal :=
  let k := s.actor
  let n := s.item
  let age (q : QueuedMat) : QueuedMat :=
    if (q.state == .waiting || q.state == .overtaken) && decide (q.priority < 3) &&
        decide (q.since + 4096 * (q.aged + 1) ≤ s.cycleOf (k / 1024)) then { q with aged := q.aged + 1 } else q
  .next (s.updQueue k n age)

/-! ### Fetching (R293, R298, R305) -/

/-- B lines of a position by their place, as a latch of ring step 0 holds them: those that the ring has kept, and lines of
B that the operation has fetched since (R298). -/
def bLines (kept : List (Nat × BitVec 1024)) (q : QueuedMat) (m : Multiply) : List (Nat × BitVec 1024) :=
  let b := m.b.toNat / 128
  let n := (m.b.toNat + 64 * m.rowBytes + 127) / 128
  q.fetched.foldl (fun l p =>
    if b ≤ p.1 ∧ p.1 < n ∧ (tget kept (p.1 - b)).isNone then tset l (p.1 - b) p.2 else l) kept

/-- A participant of a ring leaves it for its trap: the group keeps its B lines as the latch of ring step 0, and the
watchdog pauses (R298). -/
def State.leaveRing (s : State) (k : Nat) (q : QueuedMat) : State :=
  match q.op, s.ringOf k q.id with
  | .mring key m, some (_, p) =>
    let go (r : Ring) : Ring :=
      if r.formed && r.key == key then
        let there (o : RingPart) : RingPart := if o.pos = p.pos then { o with here := false } else o
        let old := ((r.latches.find? fun l => l.pos == p.pos && l.step == 0).map (·.lines)).getD []
        let keep := if p.steps = 0 then [(⟨p.pos, 0, true, bLines old q m⟩ : Latch)] else []
        let r' : Ring := { r with parts := r.parts.map there
                                  latches := r.latches.filter (fun l => !(l.pos == p.pos && l.step == 0)) ++ keep }
        r'.settle (s.cycleOf (k / 1024))
      else r
    s.updRings (k / 8) fun l => l.map go
  | _, _ => s

/-- A fault of an operand fetch: precise at the k-step boundary for a multiply, a fault of the long operation for
`cld`. -/
def State.fetchFault (s : State) (k : Nat) (q : QueuedMat) (i : TrapInfo) : State :=
  match q.op with
  | .mma _ | .mring .. => (s.leaveRing k q).stopMultiply k q i false
  | _ =>
    let s := s.leaveQueue k q
    if (s.thread? q.t).isSome then s.answerOp q.t .strandX q.longId [] (some i) else s

/-- The first line of a list that is full is fetched; the empty ones before it are touched. -/
def State.fetchFirst (s : State) (k : Nat) (q : QueuedMat) : List Nat → State
  | [] =>
    let yields : Bool := match q.op with | .mma _ | .mring .. => true | _ => false
    if q.state = .running ∧ yields then s.updQueue k q.id fun q => { q with state := .stalled } else s
  | l :: r =>
    let w := q.op.place
    match s.fetchLine q.t w.1 w.2 l with
    | .wait s' => s'.fetchFirst k q r
    | .fault i s' => s'.fetchFault k q i
    | .data v s' => (s'.updQueue k q.id fun q => { q with fetched := tset q.fetched l v }).consumedArrivals k

/-- MATRIX_OPERAND_FETCH (R293, R296): an operand line of operation n of core k, which runs or has yielded, is fetched;
while every missing line is empty a running multiply yields. -/
def execMatrixOperandFetch (s : State) : Host.Outcome State Fault Refusal :=
  let k := s.actor
  let n := s.item
  .next (match s.queued k n with
    | none => s
    | some q =>
      if (q.state == .running || q.state == .stalled) && !(s.missing q).isEmpty then s.fetchFirst k q (s.missing q) else s)

/-! ### Steps of the running operation (R293, R297, R299 to R301) -/

/-- An operation that needs no X-strand to wait is done: its results are known. -/
def State.doneOp (s : State) (k : Nat) (q : QueuedMat) (f : BitVec 5) : State :=
  let s := s.leaveQueue k q
  if (s.thread? q.t).isSome then s.answerOp q.t .strandX q.longId (if f = 0 then [] else [.fps f]) none else s

/-- An `mma` or `mring` is done: flags, `%prog` zero, the X-strand goes on (R38, R122). -/
def State.doneMultiply (s : State) (k : Nat) (q : QueuedMat) : State :=
  let done (r : Ring) : Bool := r.formed && r.parts.all fun p => decide (p.steps ≥ ringSize r.key)
  let s := ((s.oweArrival k q).leaveQueue k q).updRings (k / 8) fun l => l.filter fun r => !done r
  if (s.thread? q.t).isSome then s.finish q.t .strandX [.fps q.flags, .prog 0] else s

/-- A committed k-step: the tile, `%prog` and the flags. -/
def State.commit (s : State) (k : Nat) (q : QueuedMat) (n : Nat) (tl : Tile) (f : BitVec 5) : State :=
  let s := s.setTile k n tl
  let s := if (s.thread? q.t).isSome then s.updStrand q.t .strandX fun st => { st with prog := st.prog + 1 } else s
  s.updQueue k q.id fun q => { q with flags := q.flags ||| f }

def rowsOf (l : List (Nat × BitVec 1024)) (m : Multiply) (base p s : Nat) : List (List (BitVec 32)) :=
  (List.range 64).map fun r => (m.words base p r s).map (lineWord l)

/-- A k-step of a running `mma` (R293). -/
def State.mmaStep (s : State) (k : Nat) (q : QueuedMat) (m : Multiply) : State :=
  let i := s.matProg q
  let r := m.step (s.tile k m.d) (rowsOf q.fetched m m.a.toNat m.pa i) (rowsOf q.fetched m m.b.toNat m.pb i)
  s.commit k q m.d r.1 r.2

/-- B of a ring position, by line from its first: its own lines for ring step 0, its latch otherwise. -/
def ringB (r : Ring) (pos st : Nat) (q : QueuedMat) (m : Multiply) : List (Nat × BitVec 1024) :=
  let held := ((r.latches.find? fun l => l.pos == pos && l.step == st).map (·.lines)).getD []
  if st = 0 then bLines held q m else held

/-- What a ring holds once position `pos` has completed ring step `st`: the latch passed on, the watchdog restarted. -/
def Ring.stepDone (r : Ring) (pos st cycle : Nat) (b : List (Nat × BitVec 1024)) : Ring :=
  let n := ringSize r.key
  let pass := if st + 1 < n then [(⟨(pos + 1) % n, st + 1, false, b⟩ : Latch)] else []
  { r with parts := r.parts.map (fun p => if p.pos = pos then { p with steps := st + 1 } else p)
           latches := r.latches.filter (fun l => !(l.pos == pos && l.step == st)) ++ pass
           counted := 0, since := r.since.map fun _ => cycle }

/-- A k-step of a running `mring` (R297). -/
def State.ringStep (s : State) (k : Nat) (q : QueuedMat) (key : Nat) (m : Multiply) : State :=
  match s.ringOf k q.id with
  | none => s
  | some (r, p) =>
    let n := ringSize key
    let (st, i) := m.at (s.matProg q)
    let tile := m.d + (p.pos + n - st) % n
    let b := ringB r p.pos st q m
    let o := m.step (s.tile k tile) (rowsOf q.fetched m m.a.toNat m.pa i) (rowsOf b m 0 m.pb i)
    let s := s.commit k q tile o.1 o.2
    if i = m.ks then
      let upd (x : Ring) : Ring := if x.formed && x.key == key then x.stepDone p.pos st (s.cycleOf (k / 1024)) b else x
      s.updRings (k / 8) fun l => l.map upd
    else s

/-- `scacc` over a tile (R299). -/
def State.scaccStep (s : State) (k : Nat) (q : QueuedMat) (rm : Rm) (sat ftz : Bool) (d i : Nat) (er ec : VReg) : State :=
  let f := (s.tile k d).data
  let v := (s.tile k i).data
  let out := ((f.zip v).zipIdx).map fun p =>
    scaleElem rm sat ftz (er.toNat / 2 ^ (8 * (p.2 / 64)) % 256) (ec.toNat / 2 ^ (8 * (p.2 % 64)) % 256) p.1.2 p.1.1
  let s := s.setTile k d { s.tile k d with data := out.map fun r => BitVec.ofNat 32 r.1 }
  s.doneOp k q (out.foldl (fun a r => a ||| r.2) 0)

/-- `cld` from its fetched lines (R300). -/
def State.cldStep (s : State) (k : Nat) (q : QueuedMat) (d : Nat) (a st : Word) : State :=
  let data := (List.range 64).flatMap fun i =>
    (List.range 64).map fun j => lineWord q.fetched ((a + wordOf i * st).toNat + 4 * j)
  (s.setTile k d ⟨data, false, 0⟩).doneOp k q 0

/-- `cst` (R300): every word that it writes is full. -/
def State.cstStep (s : State) (k : Nat) (q : QueuedMat) (d : Nat) (a st : Word) (sw : Nat) : State :=
  let w := q.op.place.1
  let tl := (s.tile k d).data
  let word (s : State) (p : Nat) : State :=
    let i := p / 32
    let j := p % 32
    let lo := ((tl[64 * i + 2 * j]?).getD 0).toNat
    let hi := ((tl[64 * i + 2 * j + 1]?).getD 0).toNat
    s.writeSram (localKey q.t w sw ((a + wordOf i * st).toNat + 8 * j)) (leBytes 8 (lo + hi * 2 ^ 32)) []
  ((List.range 2048).foldl word s).doneOp k q 0

/-- After a k-step: the end of the operation, or an overtaking, or a stall (R294). -/
def State.boundary (s : State) (k id : Nat) : State :=
  match s.queued k id with
  | none => s
  | some q =>
    let beaten : Bool := match bestOp ((s.core k).queue.filter fun o => (o.state == .waiting || o.state == .overtaken) && s.eligible k o) with
      | some o => decide (o.priority > q.priority)
      | none => false
    match q.op with
    | .mma m =>
      if s.matProg q > m.ks then s.doneMultiply k q
      else if beaten then s.updQueue k id fun q => { q with state := .overtaken, since := s.cycleOf (k / 1024), aged := 0 } else s
    | .mring key m =>
      let p := m.at (s.matProg q)
      if p.1 ≥ ringSize key then s.doneMultiply k q
      else if p.2 = 0 ∧ beaten then s.updQueue k id fun q => { q with state := .overtaken, since := s.cycleOf (k / 1024), aged := 0 }
      else if !s.latchReady k q then s.updQueue k id fun q => { q with state := .stalled } else s
    | _ => s

/-- MATRIX_KSTEP (R293, R297, R299 to R301): the running operation of core k completes its next k-step, or the whole of
a tile instruction, once its lines and latch are there. -/
def execMatrixKstep (s : State) : Host.Outcome State Fault Refusal :=
  let k := s.actor
  .next (match (s.core k).queue.find? (fun q => q.state == .running) with
    | none => s
    | some q =>
      if !(s.missing q).isEmpty then s
      else match q.op with
        | .mma m => (if s.matProg q > m.ks then s else s.mmaStep k q m).boundary k q.id
        | .mring key m =>
          if (m.at (s.matProg q)).1 ≥ ringSize key then s.boundary k q.id
          else if s.latchReady k q then (s.ringStep k q key m).boundary k q.id
          else s.boundary k q.id
        | .scacc rm sat ftz d i er ec => s.scaccStep k q rm sat ftz d i er ec
        | .cld d a st _ => s.cldStep k q d a st
        | .cst d a st sw => s.cstStep k q d a st sw.toNat
        | .czero d => (s.setTile k d ⟨List.replicate 4096 0, false, 0⟩).doneOp k q 0)

/-! ### Issue (R289 to R292, R299 to R301) -/

/-- Lines kept from a multiply that was stopped after its operands-consumed arrival, when it is executed again (R296). -/
def State.keptLines (s : State) (op : MatOp) : Option (List (Nat × BitVec 1024)) :=
  match op, s.me.fetched with
  | .mma _, some (pc, n, l) | .mring _ _, some (pc, n, l) => if pc = s.my.pc ∧ n = s.my.order then some l else none
  | _, _ => none

/-- An operation enters the queue of the issuing core, after the strand's own stores. -/
def State.enqueueMat (s : State) (op : MatOp) : Nat × State :=
  let s := s.drainStores s.curT s.curX
  let (id, s) := s.fresh
  let kept := s.keptLines op
  let q : QueuedMat := { id := id, t := s.curT, longId := s.my.order, op := op, state := .waiting, base := s.me.orderPrio (s.now s.curT)
                         since := s.now s.curT, aged := 0, fetched := kept.getD [], flags := 0, consumed := kept.isSome }
  (id, (s.updThread s.curT fun th => { th with fetched := none }).updCore (coreOf s.curT) fun c => { c with queue := c.queue ++ [q] })

def State.matFull (s : State) : Bool := decide ((s.core (coreOf s.curT)).queue.length ≥ 16)

/-- A tile instruction is accepted as a long operation. -/
def tileBody (e : Enc) (s : State) (op : MatOp) : Except Stop State :=
  if s.matFull then .error (.wait .matrixSpace)
  else
    let (id, s) := s.enqueueMat op
    .ok (s.updMy fun st => st.accept e.la (.matrix id) false [])

/-- One operand range (R292). -/
def operandRange (va : Word) (n : Nat) : Except Stop Unit :=
  match spanCheck va.toNat n 128 .read false with
  | .error c => .error (.at c va)
  | .ok w => if w = .core then .ok () else .error (.at .pageKind va)

/-- The control immediate (R291). -/
def controlOk (e : Enc) : Bool :=
  let pa := (e.imm.extractLsb' 6 4).toNat
  let pb := (e.imm.extractLsb' 10 4).toNat
  !e.imm.getLsbD 23 && e.imm.extractLsb' 14 2 == 0 && (e.imm.getLsbD 16 || e.imm.extractLsb' 17 6 == 0) &&
  (if e.ty == .pl then decide (2 ≤ pa ∧ pa ≤ 8) && decide (2 ≤ pb ∧ pb ≤ 8) else pa == 0 && pb == 0)

def multiplyOf (e : Enc) (s : State) : Multiply :=
  { fn := e.fn.toNat, ty := e.ty, rm := e.rm, ftz := e.ftz, d := e.da.idx.toNat, a := s.my.getS e.sa.idx.toNat
    b := s.my.getS e.sb.idx.toNat, sw := e.sw, ks := (e.imm.extractLsb' 0 6).toNat, pa := (e.imm.extractLsb' 6 4).toNat
    pb := (e.imm.extractLsb' 10 4).toNat
    ctr := if e.imm.getLsbD 16 then some (e.imm.extractLsb' 17 6).toNat else none }

/-- A multiply is accepted; its X-strand waits until it completes (R38). -/
def multiplyBody (s : State) (m : Multiply) (op : MatOp) (join : Nat → State → State) : Except Stop State := do
  let n := 64 * m.rowBytes
  let _ ← operandRange m.a n
  let _ ← operandRange m.b n
  if s.matFull then .error (.wait .matrixSpace)
  else
    let (id, s) := s.enqueueMat op
    .error (.waitIn (.matrix id) (join id s))

def tileSlot : Slot := .of [.tile]
def mmaDesc (e : Enc) (fns : List Nat) (gs : List Nat) : Desc :=
  let fl := e.ty == .bf16 || e.ty == .fp16
  { legal := (fl || e.ty == .pl) && fns.contains e.fn.toNat, gs := .oneOf gs, rmOk := fl, ftzOk := fl, sw := true
    da := tileSlot, daSrc := true, sa := sReg, sb := sReg, imm := .role (controlOk e), xOnly := true }

/-- `mma` (R291 to R293). -/
def execMma (e : Enc) (s : State) : Host.Outcome State Fault Refusal :=
  issue (mmaDesc e (if e.ty == .pl then [0, 1, 2, 3] else [0]) [0]) e s fun s =>
    let m := multiplyOf e s
    multiplyBody s m (.mma m) fun _ s => s

/-- Ring of an `mring`: its key within the cluster. -/
def ringKey (t : Nat) (e : Enc) : Nat :=
  e.gs.toNat + (if e.fn.toNat ≥ 4 then 16 else if t / 8 % 8 ≥ 4 then 8 else 0)

/-- Tiles cD to cD + n − 1 exist and are held, else OPERAND_CLASS (R297). -/
def ringTilesBad (acc : BitVec 8) (e : Enc) : Bool :=
  let n := if e.fn.toNat ≥ 4 then 8 else 4
  decide (e.da.idx.toNat + n > 8) || (List.range n).any fun i => !acc.getLsbD (e.da.idx.toNat + i)

/-- What the description of the row permits. -/
def mringDesc (e : Enc) (acc : BitVec 8) : Desc :=
  { mmaDesc e (if e.ty == .pl then [0, 1, 2, 3, 4, 5, 6, 7] else [0, 4]) [0, 1, 2, 3, 4, 5, 6, 7] with
    misuse := ringTilesBad acc e }

/-- `mring` (R291, R297). -/
def execMring (e : Enc) (s : State) : Host.Outcome State Fault Refusal :=
  issue (mringDesc e s.me.acc) e s fun s =>
    let m := multiplyOf e s
    let key := ringKey s.curT e
    multiplyBody s m (.mring key m) fun id s => s.joinRing (coreOf s.curT) s.curT key id

/-- What the description of the row permits. -/
def scaccDesc (e : Enc) : Desc :=
  { legal := e.fn == 0 && e.ty == .fp32, gs := .oneOf [0], rmOk := true, satOk := true, ftzOk := true, da := tileSlot
    daSrc := true, sa := tileSlot, sb := vReg, xOnly := true, misuse := decide (e.sb.idx.toNat > 30) }

/-- `scacc` (R299). -/
def execScacc (e : Enc) (s : State) : Host.Outcome State Fault Refusal :=
  issue (scaccDesc e) e s fun s =>
    tileBody e s (.scacc e.rm e.sat e.ftz e.da.idx.toNat e.sa.idx.toNat (s.me.getV e.sb.idx.toNat)
      (s.me.getV (e.sb.idx.toNat + 1)))

/-- The rows of `cld` and `cst` checked one after the other (R300, R29). -/
def tileRows (a st : Word) (store : Bool) : List Nat → Except Stop Unit
  | [] => .ok ()
  | i :: r =>
    let va := a + wordOf i * st
    match windowCheck va.toNat 256 1 (if store then .store else .read) store with
    | .error c => .error (.at c va)
    | .ok w =>
      if a.toNat % 128 ≠ 0 ∨ st.toNat % 128 ≠ 0 ∨ st.toNat < 256 then .error (.at .align va)
      else if w = .core ∨ w = .clus ∨ w = .cave then tileRows a st store r
      else .error (.at .pageKind va)

def tileMemDesc (e : Enc) : Desc :=
  { legal := e.fn == 0 && e.ty == .b, gs := .oneOf [0], sw := true, da := tileSlot, sa := sReg, sb := sReg
    imm := .role true, xOnly := true }

/-- `cld` (R300). -/
def execCld (e : Enc) (s : State) : Host.Outcome State Fault Refusal :=
  issue (tileMemDesc e) e s fun s => do
    let st := s.my.getS e.sb.idx.toNat
    let _ ← tileRows (effAddr s e) st false (List.range 64)
    tileBody e s (.cld e.da.idx.toNat (effAddr s e) st e.sw)

/-- What the description of the row permits. -/
def cstDesc (e : Enc) : Desc :=
  { tileMemDesc e with daSrc := true }

/-- `cst` (R300). -/
def execCst (e : Enc) (s : State) : Host.Outcome State Fault Refusal :=
  issue (cstDesc e) e s fun s => do
    let st := s.my.getS e.sb.idx.toNat
    let _ ← tileRows (effAddr s e) st true (List.range 64)
    tileBody e s (.cst e.da.idx.toNat (effAddr s e) st e.sw)

/-- What the description of the row permits. -/
def czeroDesc (e : Enc) : Desc :=
  { legal := e.fn == 0 && e.ty == .none, gs := .oneOf [0], da := tileSlot, xOnly := true }

/-- `czero` (R301). -/
def execCzero (e : Enc) (s : State) : Host.Outcome State Fault Refusal :=
  issue (czeroDesc e) e s fun s =>
    tileBody e s (.czero e.da.idx.toNat)

def MatState.code : MatState → Nat
  | .waiting => 1 | .running => 2 | .overtaken => 3 | .stalled => 4

/-- The state that `cstat` reports of an operation: a `cld` whose missing lines are all empty is stalled, though it keeps the
unit (R294, R301). -/
def State.matState (s : State) (q : QueuedMat) : MatState :=
  let w := q.op.place
  let empty (l : Nat) : Bool := !(lineKeys q.t w.1 w.2 l).all s.feFull
  if q.state = .running ∧ !(s.missing q).isEmpty ∧ (s.missing q).all empty then .stalled else q.state

/-- The status of a tile (R301): its current operation is the earliest in the queue that names it. -/
def State.tileStatus (s : State) (k n : Nat) : Word :=
  let tl := s.tile k n
  let (st, kd) := match (s.core k).queue.find? (fun q => q.op.tiles.contains n) with
    | some q => ((s.matState q).code, s.kdone k q n)
    | none => (0, tl.kdone)
  wordOf (kd % 2 ^ 16 * 2 ^ 32 + st * 2 ^ 16 + if tl.ovf then 1 else 0)

def cstatDesc (e : Enc) (fn : Nat) : Desc :=
  { legal := e.fn.toNat == fn && e.ty == .none, gs := .oneOf [0], da := sReg, sa := tileSlot, xOnly := true }

/-- `cstat` (R301). -/
def execCstat (e : Enc) (s : State) : Host.Outcome State Fault Refusal :=
  issue (cstatDesc e 0) e s fun s =>
    .ok (s.retire e.la false [.s e.da.idx.toNat (s.tileStatus (coreOf s.curT) e.sa.idx.toNat)])

/-- `cstat.clr` (R301): OVF is cleared after the read. -/
def execCstatClr (e : Enc) (s : State) : Host.Outcome State Fault Refusal :=
  issue (cstatDesc e 1) e s fun s =>
    let k := coreOf s.curT
    let n := e.sa.idx.toNat
    let v := s.tileStatus k n
    .ok ((s.setTile k n { s.tile k n with ovf := false }).retire e.la false [.s e.da.idx.toNat v])

/-- What the description of the row permits. -/
def mprioDesc (e : Enc) : Desc :=
  { legal := e.fn == 0 && e.ty == .none, gs := .oneOf [0], sa := sReg, imm := .role true, xOnly := true }

/-- `mprio` (R295). -/
def execMprio (e : Enc) (s : State) : Host.Outcome State Fault Refusal :=
  issue (mprioDesc e) e s fun s =>
    let a := s.my.getS e.sa.idx.toNat
    if a.extractLsb' 3 61 ≠ 0 ∨ e.imm.extractLsb' 2 22 ≠ 0 then .error (.cause .reservedField)
    else
      let k := coreOf s.curT
      let t := k * 8 + (a.extractLsb' 0 3).toNat
      let same := ((s.thread? t).map fun _ => s.threadCtx t == s.threadCtx s.curT).getD false
      let set (q : QueuedMat) : QueuedMat :=
        if same && q.t == t then { q with base := (e.imm.extractLsb' 0 2).toNat, since := s.now s.curT, aged := 0 } else q
      .ok (s.updCore k fun c => { c with queue := c.queue.map set }).next

/-! ### Faults of region copies (R305, R306) -/

/-- A touch that waits on a word that a test picks meets the recorded cause: strands in loads and in `ldsync`, ticket
lines, copy jobs and operand fetches, each as R305 says. -/
def State.faultStrands (s : State) (c : Nat) (i : TrapInfo) (hit : Nat → Bool) : State :=
  let waits := s.waitersFor c fun w => match w with | .touch k => if hit k then some k else none | _ => none
  let lds := s.waiters.filter fun w => !w.remote && clusterOf w.t == c && hit w.key &&
    (match w.kind with | .load .. => true | .store .. => false)
  let s := { s with waiters := s.waiters.filter fun w => !lds.contains w }
  let s := waits.foldl (fun s p => s.raise p.1 p.2.1 i) s
  lds.foldl (fun s w => s.raise w.t w.x i) s

/-- The lines of tickets that wait for such a word record the cause (R198, R305). -/
def State.faultTickets (s : State) (i : TrapInfo) (hit : Nat → Bool) : State :=
  let waits (l : TLine) : Bool := l.touch && l.todo.any fun i => hit ((l.keys[i]?).getD 0)
  let set (l : TLine) : TLine := if waits l then { l with todo := [], fault := some i } else l
  { s with tickets := s.tickets.map fun p => if p.2.state = .filling then (p.1, { p.2 with lines := p.2.lines.map set }) else p }

/-- Copy jobs whose next block touches such a word fault (R210, R305). The state before tells which. -/
def State.faultJobs (s : State) (c n : Nat) (before : State) : State :=
  let due := (s.cluster c).copyQ.filterMap fun j =>
    if j.held || decide (j.ofs ≥ j.len) then none else match before.jobStep c j with
    | .fault g _ => if g.region = some (c, n) then some (j, g) else none
    | _ => none
  due.foldl (fun s p => s.endJob c false p.1 (some p.2)) s

/-- Operations that fetch such a line fault (R293, R305). -/
def State.faultFetches (s : State) (c : Nat) (i : TrapInfo) (hit : Nat → Bool) : State :=
  let wants (q : QueuedMat) : Bool :=
    (q.state == .running || q.state == .stalled) && (s.missing q).any fun l =>
      (lineKeys q.t q.op.place.1 q.op.place.2 l).any hit
  let due := (List.range 8).flatMap fun i => ((s.core (c * 8 + i)).queue.filter wants).map fun q => (c * 8 + i, q)
  due.foldl (fun s p => s.fetchFault p.1 p.2 i) s

/-- The copy of an entry ends in a fault: the entry is FAULTED, and every touch that waits on a word of the unwritten rows meets
its cause; with the first delivery of it the entry is ABSENT with its row offset (R305). -/
def State.faultRegion (s : State) (c n : Nat) (r : Region) (f : FaultRec) : State :=
  let r' := { r with state := .faulted, fault := some f, net := .idle }
  let s0 := s.setRegion c n r'
  let i := f.regionTrap c n
  let s1 := (((s0.faultStrands c i r.unwritten).faultTickets i r.unwritten).faultJobs c n s0).faultFetches c i r.unwritten
  s1.endRegion c n (s1.region c n)

/-- REGION_COPY_FAULT (R305): a source fault of the next row of entry e ends its copy. -/
def execRegionCopyFault (s : State) : Host.Outcome State Fault Refusal :=
  let c := s.actor
  let e := s.item
  let r := s.region c e
  .next (if r.state = .filling ∧ r.after ≤ s.cycleOf (c / 128) then
      (match s.regionStep c e r with
      | .fault f s' => s'.faultRegion c e (s'.region c e) f
      | _ => s)
    else s)

end Sys2Proof.Machine
end

