-- ==== Sys2Proof/Machine/Context.lean ====
section
/-! DEFINITION. The system group (R327, R333 to R353): pre-emption, resumption, the context save area and its whey log,
`tlbinv` and `tprobe`. -/

namespace Sys2Proof.Machine

/-! ### Pre-emption (R338 to R342) -/

/-- A package-cluster operand: bits [63:7] are zero (R327). -/
def pclBad (a : Word) : Bool := a.extractLsb' 7 57 != 0

/-- The strand is stopped before its instruction, which is executed again: its entries in the tables of waiting `ldsync`,
of saved clusters too, and among the redeems that wait for a ticket are withdrawn (R206, R270). -/
def State.abandon (s : State) (t : Nat) (x : Side) : State :=
  let others (w : Waiter) : Bool := !(w.t == t && w.x == x)
  let leave (e : Ticket) : Ticket := { e with redeems := e.redeems.filter fun p => !(p.1 == t && p.2 == x) }
  ({ s with waiters := s.waiters.filter others
            saved := s.saved.map fun sv => { sv with waiters := sv.waiters.filter others }
            tickets := s.tickets.map fun (p : Nat × Ticket) => (p.1, leave p.2) } : State).updStrand t x fun st =>
    { st with status := .ready, flight := none }

/-- A request in flight has been presented, and would be admitted by its first link or has been (R356). -/
def State.passesLink (s : State) (t : Nat) (x : Side) (f : Flight) : Bool :=
  match f.phase with
  | .atLink since =>
    (match s.admitAt (dieOf t) f.die f.cls (s.partOf t) since f.gen (.request t x) with | .granted .. => true | _ => false)
  | .travelling _ | .arrived => true
  | .answering _ | .refused | .bounced | .backoff _ => false

/-- The answer to a strand's request is on its way at a halt: a completion or a trap takes effect, a redeem that the slice has
answered delivers its data, and any other answer leaves the instruction to be executed again (R153, R206, R339, R340). -/
def State.haltAnswered (s : State) (t : Nat) (x : Side) (f : Flight) : State :=
  let r := s.replyOnWay t x
  let s := s.forgetReply t x
  match r with
  | some (.done ws) => s.finish t x ws
  | some (.trap i) => s.raise t x i
  | some (.next _ (.redeemed va sw sb span data)) => s.storeRedeemed t x va sw sb span data
  | _ => (s.dropAllocated f.req).abandon t x

/-- The arrival of a strand's `cinc`, on its way or in the list of its cluster. -/
def State.cincArrival (s : State) (t : Nat) (x : Side) (c k amt : Nat) (rel : List Release) : Arrival :=
  ((s.cluster c).arrivals.find? fun a => a.sender == some (t, x)).getD ⟨k, amt, none, rel, none, s.ctxOf (clusterOf t), some (t, x)⟩

/-- A send or a `cinc` in flight is answered, by its link where it has no permits; an admission completes it, and otherwise it
is abandoned (R153). An atomic that its link has admitted is performed (R275, R276). -/
def State.haltFlight (s : State) (t : Nat) (x : Side) : State :=
  match (s.strand t x).flight with
  | none => s.abandon t x
  | some f =>
    match f.phase, f.req, f.atomic with
    | .answering _, _, _ => s.haltAnswered t x f
    | _, some (.send m), _ =>
      if !s.passesLink t x f || s.fencedCluster (clusterOf m.dst) then s.abandon t x
      else (match s.admitMsg t m with
        | .admitted s' => s'.finish t x []
        | _ => s.abandon t x)
    | _, some (.cinc c k amt rel), _ =>
      let a := s.cincArrival t x c k amt rel
      if !s.passesLink t x f then s.abandon t x
      else (match s.makeArrival c a with
        | some s' => s'.finish t x []
        | none => (s.dropArrival c a).abandon t x)
    | .arrived, some (.redeemed va sw sb span data), _ => s.storeRedeemed t x va sw sb span data
    | .travelling _, _, some a | .arrived, _, some a => s.acceptAtomic t x a
    | _, r, _ => (s.dropAllocated r).abandon t x

/-- An `mma` or `mring` stops at its k-step boundary with `%prog`, its flags ORed in; its ring keeps its latches
(R122, R339, R341). One whose operands-consumed arrival has been made keeps its lines (R296). -/
def State.haltMatrix (s : State) (t id : Nat) : State :=
  match s.queued (coreOf t) id with
  | none => s.abandon t .strandX
  | some q =>
    let s := (s.leaveRing (coreOf t) q).leaveQueue (coreOf t) q
    let st := s.strand t .strandX
    let s := s.updThread t fun th => { th with fetched := if q.consumed then some (st.pc, st.order, q.fetched) else none }
    (s.updStrand t .strandX fun st => st.orFps q.flags).abandon t .strandX

/-- A strand halts (R339). -/
def State.haltStrand (s : State) (t : Nat) (x : Side) : State :=
  match (s.strand t x).status with
  | .ready | .dead => s
  | .waiting (.barrier ..) => s
  | .waiting (.matrix id) => s.haltMatrix t id
  | .waiting .answer => s.haltFlight t x
  | _ => s.abandon t x

/-- A ring that has not formed is as if no participant had arrived: each arrives again when it is executed again. -/
def State.haltRings (s : State) (c : Nat) : State := s.updRings c fun l => l.filter (·.formed)

/-- A RUNNING cluster is HALTED (R338). A drained thread, which never issues again, stays as it is (R53). -/
def State.haltCluster (s : State) (c : Nat) : State :=
  let s := s.updCluster c fun cl => { cl with run := .halted }
  let halt (s : State) (p : Nat × Thread) : State :=
    if (s.thread p.1).drained then s else (s.haltStrand p.1 .strandA).haltStrand p.1 .strandX
  ((s.userThreads c).foldl halt s).haltRings c

/-- Clusters of a `preempt`'s scope. -/
def scopeClusters (d pcl gs : Nat) : List Nat :=
  let c := d * 128 + pcl
  if gs = 3 then [c]
  else if gs = 4 then (List.range 32).map (c / 32 * 32 + ·)
  else (List.range 128).map (d * 128 + ·)

/-- What the description of the row permits. -/
def preemptDesc (e : Enc) : Desc :=
  { legal := e.fn == 0 && e.ty == .none, gs := .scope [3, 4, 5], da := sReg, sa := sReg, priv := true }

/-- `preempt` (R338). -/
def execPreempt (e : Enc) (s : State) : Host.Outcome State Fault Refusal :=
  issue (preemptDesc e) e s fun s =>
    let a := s.my.getS e.sa.idx.toNat
    if pclBad a then .error (.cause .reservedField)
    else
      let l := (scopeClusters (deviceOf s.curT) a.toNat e.gs.toNat).filter fun c => (s.cluster c).run == .running
      .ok ((l.foldl (fun s c => s.haltCluster c) s).retire e.la false [.s e.da.idx.toNat (wordOf l.length)])

/-- What the rows without a scope permit: GS is unused there, so that a value other than 0 is reserved (R67, R68, R327; log
82). -/
def sysDesc (e : Enc) (fn : Nat) : Desc :=
  { legal := e.fn.toNat == fn && e.ty == .none, da := sReg, sa := sReg, priv := true }

/-- `resume.run` (R342). -/
def execResumeRun (e : Enc) (s : State) : Host.Outcome State Fault Refusal :=
  issue (sysDesc e 1) e s fun s =>
    let a := s.my.getS e.sa.idx.toNat
    let c := deviceOf s.curT * 128 + a.toNat
    if pclBad a then .error (.cause .reservedField)
    else if (s.cluster c).run = .halted then
      .ok ((s.updCluster c fun cl => { cl with run := .running }).retire e.la false [.s e.da.idx.toNat 0])
    else .ok (s.retire e.la false [.s e.da.idx.toNat 1])

/-- A held job restarts from its kept offset with a fresh retry count (R353). -/
def Job.restart (j : Job) (limit cycle : Nat) : Job :=
  { j with held := false, fault := none, refusals := 0, limit := limit, after := cycle, pages := [], net := .idle }

/-- What the description of the row permits. -/
def resumeJobDesc (e : Enc) : Desc :=
  { sysDesc e 0 with sb := sReg }

/-- `resume.job` (R353). A context lies in one partition (R336). -/
def execResumeJob (e : Enc) (s : State) : Host.Outcome State Fault Refusal :=
  issue (resumeJobDesc e) e s fun s =>
    let a := s.my.getS e.sa.idx.toNat
    let b := s.my.getS e.sb.idx.toNat
    let t := a.toNat
    let put (v : Word) (s : State) : State := s.retire e.la false [.s e.da.idx.toNat v]
    if b.extractLsb' 3 61 ≠ 0 then .error (.cause .reservedField)
    else match if a.extractLsb' 24 40 = 0 then s.thread? t else none with
      | none => .ok (put 2 s)
      | some th =>
        if s.threadCtx t ≠ s.threadCtx s.curT ∨ (s.cluster (clusterOf t)).part ≠ (s.cluster (clusterOf s.curT)).part then
          .ok (put 2 s)
        else
          let mine (j : Job) : Bool := j.held && j.t == t && j.tok == some b.toNat
          let cl := s.cluster (clusterOf t)
          if !(cl.copyQ.any mine || cl.msQ.any mine) then .ok (put 1 s)
          else
            let go (j : Job) : Job := if mine j then j.restart th.syncretry.toNat (s.now t) else j
            let s := s.updCluster (clusterOf t) fun cl => { cl with copyQ := cl.copyQ.map go, msQ := cl.msQ.map go }
            .ok (put 0 (s.updTok t b.toNat Token.add))

/-! ### Images in the save area (R345 to R347) -/

def areaBytes : Nat := 0x940000

/-- The architected fields of a strand. -/
def Strand.image (st : Strand) : List Byte :=
  (List.range 64).flatMap (fun n => leBytes 8 (st.getS n).toNat) ++
  (List.range 16).flatMap (fun n => leBytes 32 (st.getP n).toNat) ++ leBytes 8 st.pc.toNat ++
  leBytes 8 ((if st.sup then 1 else 0) + if st.uh then 2 else 0) ++
  [st.fps, st.prog, st.uepc, st.ucause, st.uinfo, st.sepc, st.scause, st.sinfo].flatMap fun v => leBytes 8 v.toNat

/-- A strand with the fields that its image holds; bits that a register does not have read zero (R56, R113). -/
def Strand.fromImage (st : Strand) (m : List Host.Cell) (k : Nat) : Strand :=
  let w (ofs : Nat) : Word := wordOf (leNat (memRead m (k + ofs) 8))
  let st := (List.range 64).foldl (fun (st : Strand) n => st.setS n (w (8 * n))) st
  let st := (List.range 16).foldl (fun (st : Strand) n =>
    st.setP n (BitVec.ofNat 256 (leNat (memRead m (k + 0x200 + 32 * n) 32)))) st
  { st with pc := keepPc (w 0x400), sup := (w 0x408).getLsbD 0, uh := (w 0x408).getLsbD 1, fps := keepFps (w 0x410)
            prog := w 0x418, uepc := keepPc (w 0x420), ucause := w 0x428, uinfo := w 0x430, sepc := keepPc (w 0x438)
            scause := w 0x440, sinfo := w 0x448 }

/-- Offset of a queue in a thread record, and the bytes of one of its entries (R347). -/
def queueOfs (q : Nat) : Nat := if q = 0 then 0x3000 else if q ≤ 7 then 0x4000 + (q - 1) * 2048 else 0x7800 + (q - 8) * 1024
def queueEntryBytes (q : Nat) : Nat := if 1 ≤ q ∧ q ≤ 7 then 256 else 64

/-- A thread's record written at an area. -/
def threadImage (m : List Host.Cell) (base t : Nat) (th : Thread) : List Host.Cell :=
  let m := memWrite m (base + strandOfs t .strandA) th.a.image
  let m := memWrite m (base + strandOfs t .strandX) th.x.image
  let r := base + strandOfs t .strandA
  let m := (List.range 32).foldl (fun (m : List Host.Cell) n => memWrite m (r + 0x1000 + 256 * n) (leBytes 256 (th.getV n).toNat)) m
  (List.range 16).foldl (fun (m : List Host.Cell) q => ((th.getQ q).zipIdx).foldl (fun (m : List Host.Cell) (p : QEntry × Nat) =>
    memWrite m (r + queueOfs q + p.2 * queueEntryBytes q) (leBytes (queueEntryBytes q) p.1.data.toNat)) m) m

/-- A thread with the registers that its record holds. -/
def threadFromImage (m : List Host.Cell) (base t : Nat) (th : Thread) : Thread :=
  let r := base + strandOfs t .strandA
  let th := { th with a := th.a.fromImage m (base + strandOfs t .strandA), x := th.x.fromImage m (base + strandOfs t .strandX) }
  (List.range 32).foldl (fun (th : Thread) n => th.setV n (BitVec.ofNat 2048 (leNat (memRead m (r + 0x1000 + 256 * n) 256)))) th

def tileImage (m : List Host.Cell) (base k : Nat) (tiles : List (Nat × Tile)) : List Host.Cell :=
  tiles.foldl (fun (m : List Host.Cell) (p : Nat × Tile) => memWrite m (base + 0x2A0000 + (8 * (k % 8) + p.1) * 16384)
    (p.2.data.flatMap fun v => leBytes 4 v.toNat)) m

/-- Units of a cluster's SRAM in the area: unit, offset, length. -/
def areaUnits : List (Nat × Nat × Nat) :=
  (List.range 8).map (fun k => (16 + k, 0x3A0000 + k * 0x10000, 0x10000)) ++
  (List.range 8).map (fun k => (k, 0x420000 + k * 0x40000, 0x40000)) ++
  [(8, 0x620000, 0x100000), (9, 0x720000, 0x200000)]

/-- Key of FE word n in the order of the area's FE bits. -/
def feWordKey (c n : Nat) : Nat :=
  if n < 262144 then sramKey c (n / 32768) (n % 32768 * 8)
  else if n < 393216 then sramKey c 8 ((n - 262144) * 8)
  else sramKey c 9 ((n - 393216) * 8)

/-- Bytes of the FE bits of a cluster, as cells from a key on. -/
def State.feCells (s : State) (c k : Nat) : List Host.Cell :=
  let empty := s.feEmpty.filter fun a => sramCluster a == c
  (List.range 81920).filterMap fun i =>
    let b := if empty.isEmpty then 255
      else (List.range 8).foldl (fun a j => if empty.contains (feWordKey c (8 * i + j)) then a else a + 2 ^ j) 0
    if b = 0 then none else some (k + i, BitVec.ofNat 8 b)

/-- Empty words of a cluster by the FE bits of an area. -/
def feFromCells (c k : Nat) (cells : List Host.Cell) : Nat → List Nat
  | 0 => []
  | n + 1 =>
    let rest := feFromCells c k cells n
    let b := (memGet cells (k + n)).toNat
    if b = 255 then rest
    else (List.range 8).foldl (fun l j => if b.testBit j then l else insertKey (feWordKey c (8 * n + j)) l) rest

def headerBytes (mem : Bool) (logn pcl astate : Nat) (cl : Cluster) : List Byte :=
  leBytes 4 0x45564153 ++ leBytes 2 1 ++ leBytes 1 (if mem then 1 else 0) ++ leBytes 1 logn ++ leBytes 2 pcl ++
  leBytes 1 astate ++ leBytes 5 0 ++ leBytes 8 cl.ctxReg.toNat ++ leBytes 8 cl.ptroot.toNat ++
  leBytes 8 cl.ownroot.toNat ++ leBytes 8 cl.svec.toNat ++ leBytes 8 cl.watchdog.toNat ++ leBytes 8 0 ++ leBytes 64 0

/-! ### `ctxsave` (R343) -/

/-- Fields of a control word and its reserved bits. -/
def ctlAreaBad (w : Word) : Bool := w.extractLsb' 48 16 != 0 || w.extractLsb' 4 12 != 0
def ctlArea (w : Word) : Nat := (w.extractLsb' 16 32).toNat * 65536
def ctlLogn (w : Word) : Nat := (w.extractLsb' 1 3).toNat
def ctlMem (w : Word) : Bool := w.getLsbD 0

/-- Another strand's `ctxsave` of the cluster has not settled (R343 status BUSY). -/
def State.areaBusy (s : State) (c : Nat) : Bool :=
  s.threads.any fun p => [Side.strandA, Side.strandX].any fun x =>
    !(p.1 == s.curT && x == s.curX) && (p.2.strand x).status == .waiting (.saving c)

/-- Whether the whole area lies in the backed owned range of a cluster. -/
def State.areaInside (s : State) (c area len : Nat) : Bool :=
  s.hbmBacked (c / 128) area len && hbmCluster area == c % 128

/-- A job writes the cluster's own SRAM. -/
def Job.intoSram (j : Job) : Bool :=
  match j.kind with
  | .ms .. | .pin _ => false
  | _ => match windowOf j.dst.toNat with
    | some .core | some .clus | some .cave => true
    | _ => false

/-- What `ctxsave` waits for: matrix operations, and copies into the cluster's SRAM with the arrivals at live counters and the
actions that may start more of them. -/
def State.unsettled (s : State) (c ctx : Nat) : Bool :=
  let cl := s.cluster c
  (cl.copyQ.any fun j => !j.held && j.ctx == ctx && j.intoSram) || (cl.regions.any fun p => p.2.state == .filling) ||
  (cl.actions.any fun a => a.ctx == ctx) || (cl.arrivals.any fun a => s.steerArrival c a == .live) || (List.range 8).any fun k => !(s.core (c * 8 + k)).queue.isEmpty

/-- Atomics of a strand that have been admitted are performed, one for each round (R275, R340). -/
def State.runAtomics (s : State) (t : Nat) (x : Side) : Nat → State
  | 0 => s
  | n + 1 =>
    match firstAtomic (s.strand t x).pend with
    | none => s
    | some (id, r) =>
      (s.atomicEnd t x id r).runAtomics t x n

/-- Results that are known are written (R340). -/
def State.runResults (s : State) (t : Nat) (x : Side) : State :=
  ((s.strand t x).pend.filter (·.ready)).foldl (fun s o => s.complete t x o.id) s

def State.settleStrand (s : State) (t : Nat) (x : Side) : State :=
  (((s.drainStores t x).runAtomics t x 64).recallResults t x).runResults t x

/-- What the context's strands on a cluster have had accepted is performed: their stores, their admitted atomics, their known
results (R235, R275, R276, R340). -/
def State.settleThreads (s : State) (c : Nat) : State :=
  (s.userThreads c).foldl (fun s p => (s.settleStrand p.1 .strandA).settleStrand p.1 .strandX) s

/-- Numbers of the tables whose slice is the port or cave bank of a cluster. -/
def State.portWatches (s : State) (c : Nat) : List (Nat × Watch) :=
  s.watches.filter fun p => sliceCluster (p.1 / 256) == some c

/-- The bytes of an area (R345 to R347): header, thread records, tiles, and with MEM the cluster's SRAM and FE bits, which are
else not written. -/
def State.areaImage (s : State) (c base logn : Nat) (mem : Bool) (m : List Host.Cell) : List Host.Cell :=
  let m := memPut m base (if mem then areaBytes else 0x3A0000) []
  let m := memWrite m base (headerBytes mem logn (c % 128) 1 (s.cluster c))
  let m := (s.userThreads c).foldl (fun m p => threadImage m base p.1 p.2) m
  let m := (List.range 8).foldl (fun m k => tileImage m base k (s.core (c * 8 + k)).tiles) m
  if mem then
    memPut (areaUnits.foldl (fun m u => memCopy m (sramKey c u.1 0) (base + u.2.1) u.2.2) m) (base + 0x920000) 81920
      (s.feCells c (base + 0x920000))
  else m

/-- Cleared tables keep the generations of their entries, which only a reset takes to 0 (R263, R266, R302). -/
def ArmEntry.freed (a : ArmEntry) : ArmEntry := { a with state := .free }
def Region.freed (r : Region) : Region := { Region.zero with gen := r.gen }
def Watch.freed (w : Watch) : Watch := { w with held := false }

/-- A core without what belongs to a context that leaves. -/
def Core.emptied (co : Core) : Core := { co with tiles := [], queue := [], owed := [] }

/-- Records of saved threads, and what the state keeps of them. -/
def State.saveArea (s : State) (c area logn : Nat) (mem : Bool) : State :=
  let base := physKey (c / 128) area
  let ctx := s.ctxOf c
  let s := s.settleThreads c
  let len := areaBytes + 2 ^ (16 + logn)
  let s := (s.memUpdate base len (s.areaImage c base logn mem)).forgetRange base len
  let cl := s.cluster c
  let threads := s.userThreads c
  let cores := (List.range 8).map fun k => (c * 8 + k, s.core (c * 8 + k))
  let held (j : Job) : Bool := j.held && j.ctx == ctx
  let sv : Saved :=
    { cluster := c, area := area, logn := logn, ctx := ctx, logEnd := 0, counters := cl.counters, arms := cl.arms
      regions := cl.regions, jobs := (cl.copyQ ++ cl.msQ).filter held, watches := s.portWatches c
      waiters := s.waiters.filter (fun w => sramCluster w.key == c), threads := threads, cores := cores, rings := cl.rings
      logRel := [], logArr := [] }
  let s : State := { s with
                    threads := s.threads.filter (fun p => !(clusterOf p.1 == c && !p.2.isSup))
                    watches := s.watches.map (fun (p : Nat × Watch) => if sliceCluster (p.1 / 256) = some c then (p.1, p.2.freed) else p)
                    waiters := s.waiters.filter (fun w => sramCluster w.key != c), saved := s.saved ++ [sv] }
  let s := (List.range 8).foldl (fun s k => s.updCore (c * 8 + k) Core.emptied) s
  (s.updCluster c fun cl =>
    { cl with counters := [], arms := cl.arms.map (fun p => (p.1, p.2.freed)), regions := cl.regions.map (fun p => (p.1, p.2.freed))
              rings := [], run := .empty
              copyQ := cl.copyQ.filter (fun j => !held j), msQ := cl.msQ.filter (fun j => !held j) }).endClaim c

/-- What the description of the row permits. -/
def ctxsaveDesc (e : Enc) : Desc :=
  { sysDesc e 0 with sb := sReg }

/-- `ctxsave` (R343). -/
def execCtxsave (e : Enc) (s : State) : Host.Outcome State Fault Refusal :=
  issue (ctxsaveDesc e) e s fun s =>
    let a := s.my.getS e.sa.idx.toNat
    let b := s.my.getS e.sb.idx.toNat
    let c := deviceOf s.curT * 128 + a.toNat
    let put (v : Word) (s : State) : State := s.retire e.la false [.s e.da.idx.toNat v]
    if pclBad a || ctlAreaBad b then .error (.cause .reservedField)
    else if s.areaBusy c then .ok (put 3 s)
    else if (s.cluster c).run ≠ .halted then .ok (put 1 s)
    else if !s.areaInside c (ctlArea b) (areaBytes + 2 ^ (16 + ctlLogn b)) then .ok (put 2 s)
    else if (s.saved.filter fun sv => sv.cluster == c).length ≥ 4 then .ok (put 4 s)
    else if s.unsettled c (s.ctxOf c) then .error (.wait (.saving c))
    else .ok (put 0 ((s.saveArea c (ctlArea b) (ctlLogn b) (ctlMem b)).acquireEngine s.curT))

/-! ### Teardown (R343, R351) -/

/-- Tickets, watches, leases and jobs of a context that is torn down on a cluster. -/
def State.dropContext (s : State) (c ctx : Nat) : State :=
  let part := (s.cluster c).part.toNat
  let held := (s.tickets.filter fun p => p.2.span != 0 && p.2.state != .free && p.2.ctx == ctx && p.2.part == some part).map (·.1)
  let s := held.foldl (fun s k => s.freeTicket k .dropped) s
  let s := s.cancelWatches fun w => w.ctx == ctx && clusterOf w.t == c
  let s := (s.leases.filter fun l => l.die == c / 32 && l.ctx == ctx).foldl (fun (s : State) (l : Lease) => s.endLease l.die l.ctx l.lid) s
  let mute (l : List Job) : List Job := (l.filter fun j => !(j.held && j.ctx == ctx)).map fun j =>
    if j.ctx = ctx then { j with tok := none, ctr := none } else j
  s.updCluster c fun cl => { cl with copyQ := mute cl.copyQ, msQ := mute cl.msQ
                                     arrivals := cl.arrivals.filter (fun a => a.ctx != ctx) }

/-- The live state of a context on a cluster goes: slots, tiles and entries. -/
def State.clearCluster (s : State) (c : Nat) : State :=
  let gone := s.userThreads c
  let stays (w : Waiter) : Bool := !(gone.any fun p => p.1 == w.t)
  let s := s.dropPackets fun p => gone.any fun q => p.cargo.answers q.1 .strandA || p.cargo.answers q.1 .strandX
  let s : State := { s with
                    threads := s.threads.filter (fun p => !(clusterOf p.1 == c && !p.2.isSup))
                    waiters := s.waiters.filter stays
                    saved := s.saved.map (fun sv => { sv with waiters := sv.waiters.filter stays })
                    stores := s.stores.filter (fun w => !(gone.any fun p => p.1 == w.t)) }
  let s := (List.range 8).foldl (fun s k => s.updCore (c * 8 + k) Core.emptied) s
  (s.updCluster c fun cl =>
    { cl with counters := [], arms := cl.arms.map (fun p => (p.1, p.2.freed)), actions := [], rings := [], run := .empty
              regions := cl.regions.map fun p => (p.1, p.2.freed) }).endClaim c

/-- The context of a HALTED cluster is torn down there; what its strands have had accepted is performed first (R276, R343). -/
def State.dropLive (s : State) (c : Nat) : State := ((s.settleThreads c).dropContext c (s.ctxOf c)).clearCluster c

/-- `ctxsave.drop` (R343). -/
def execCtxsaveDrop (e : Enc) (s : State) : Host.Outcome State Fault Refusal :=
  issue (sysDesc e 1) e s fun s =>
    let a := s.my.getS e.sa.idx.toNat
    let c := deviceOf s.curT * 128 + a.toNat
    let put (v : Word) (s : State) : State := s.retire e.la false [.s e.da.idx.toNat v]
    if pclBad a then .error (.cause .reservedField)
    else if s.areaBusy c then .ok (put 3 s)
    else if (s.cluster c).run ≠ .halted then .ok (put 1 s)
    else .ok (put 0 (s.dropLive c))

/-! ### `ctxload` (R351) -/

def State.header (s : State) (c area ofs n : Nat) : Nat := leNat (memRead s.mem (physKey (c / 128) (area + ofs)) n)

/-- MAGIC, VERSION, PCL and ASTATE of an area. -/
def State.headerOk (s : State) (c area : Nat) : Bool :=
  s.header c area 0 4 == 0x45564153 && s.header c area 4 2 == 1 && s.header c area 8 2 == c % 128 &&
  s.header c area 10 1 == 1

/-- What the machine keeps for an area: by its place, else, for one that software moved, by its context. -/
def State.savedAt (s : State) (c area : Nat) : Option Saved :=
  match s.saved.find? (fun sv => sv.cluster == c && sv.area == area) with
  | some sv => some sv
  | none => s.saved.find? fun sv => sv.cluster == c && sv.ctx == s.header c area 16 2

/-- A logged arrival applied to the loaded context (R351). -/
def State.replay (s : State) (sv : Saved) (ofs : Nat) : State :=
  let k := areaKey sv (areaBytes + ofs)
  let b (i n : Nat) : Nat := leNat (memRead s.mem (k + i) n)
  let c := sv.cluster
  let t := c * 64 + b 2 1
  let (rel, watch) := ((sv.logRel.find? fun p => p.1 == ofs).map (·.2)).getD ([], none)
  let arr := (sv.logArr.find? fun p => p.1 == ofs).map (·.2)
  match b 0 1 with
  | 1 =>
    if (s.thread? t).isSome then
      s.enqueue t (b 1 1) ⟨(b 3 1).testBit 0, if (b 3 1).testBit 0 || (b 3 1).testBit 1 then 1 else 8, 0,
        BitVec.ofNat 2048 (b 64 64), rel, watch⟩
    else s
  | 2 => s.arrive c (b 1 1) (b 4 4) watch rel
  | 3 => match arr.bind (·.fault) with
    | some f => s.postFault c (b 1 1) f
    | none => s
  | 4 =>
    let job := sv.jobs.find? fun j => j.t == t && j.tok == some (b 1 1) && j.fault.isSome
    let f := if (b 3 1).testBit 0 then job.bind (·.fault) else none
    s.updTok t (b 1 1) fun tk => tk.done f
  | _ => s

def State.replayAll (s : State) (sv : Saved) : Nat → State
  | 0 => s
  | n + 1 => (s.replayAll sv n).replay sv (128 * n)

/-- A strand that waited at a barrier whose generation has completed meanwhile goes on (R259). -/
def State.barrierLoaded (s : State) (t : Nat) (x : Side) : State :=
  match (s.strand t x).status with
  | .waiting (.barrier key gen) =>
    let b := (tget s.barriers key).getD Barrier.zero
    let rel := ((b.relDone.find? fun p => p.1 == gen).map (·.2)).getD []
    if b.gen ≠ gen then (s.updStrand t x fun st => { st with obs := st.obs ++ rel }).finish t x [] else s
  | _ => s

/-- Arrivals of completed generations are kept for saved strands alone (R259). -/
def State.trimBarriers (s : State) : State :=
  { s with barriers := s.barriers.map fun (p : Nat × Barrier) => (p.1, { p.2 with relDone := p.2.relDone.filter fun (q : Nat × List Release) => s.savedWaits p.1 q.1 }) }

/-- Watches that the words as restored satisfy are answered (R261). -/
def State.compareAll (s : State) (l : List (Nat × Watch)) : State :=
  l.foldl (fun s p => if p.2.held then s.watchRange p.2.key 1 else s) s

/-- Words with restored waiters are tried again (R246). -/
def State.serveAll (s : State) (l : List Waiter) : State := l.foldl (fun s w => s.serveWord w.key (l.length + 1)) s

/-- SRAM and FE bits from an area (R345). -/
def State.loadSram (s : State) (c area : Nat) : State :=
  let base := physKey (c / 128) area
  let mem := areaUnits.foldl (fun m u => memCopy m (base + u.2.1) (sramKey c u.1 0) u.2.2) s.mem
  let cells := memBelow (memFrom s.mem (base + 0x920000)) (base + 0x920000 + 81920)
  let others := s.feEmpty.filter fun a => sramCluster a != c
  { s with mem := mem, feEmpty := (feFromCells c (base + 0x920000) cells 81920).foldl (fun l a => insertKey a l) others
           poison := s.poison.filter (fun k => !(isSram k && sramCluster k == c)) }

/-- Entries of a saved table that are occupied, beside the entries of the live one (R351). The spec does not say what becomes
of a watch that another cluster's thread placed at the same entry while the cluster was saved: DESIGN CHOICE (log 111), the
restored one takes its place. -/
def restored {α : Type} (live old : List (Nat × α)) (occupied : α → Bool) : List (Nat × α) :=
  old.foldl (fun l p => if occupied p.2 then tset l p.1 p.2 else l) live

/-- The load of an area: its regions, then the log, then RUNNING (R351). -/
def State.loadArea (s : State) (c area : Nat) (sv : Saved) : State :=
  let base := physKey (c / 128) area
  let s := if (s.cluster c).sramCtx = none ∨ (s.cluster c).sramCtx = some sv.ctx then s else s.scrub c
  let s := if s.header c area 6 1 % 2 = 1 then s.loadSram c area else s
  let threads := sv.threads.map fun p => (p.1, threadFromImage s.mem base p.1 p.2)
  let s := threads.foldl (fun s p => s.setThread p.1 p.2) s
  let s := sv.cores.foldl (fun s p => s.updCore p.1 fun co => { co with tiles := p.2.tiles }) s
  let ms (j : Job) : Bool := match j.kind with | .ms .. => true | _ => false
  let held := sv.jobs.filter fun j => j.held
  let s := s.updCluster c fun cl =>
    { cl with ctxReg := keepCtx (wordOf (s.header c area 16 8)), ptroot := keepRoot (wordOf (s.header c area 24 8))
              ownroot := keepRoot (wordOf (s.header c area 32 8)), svec := keepPc (wordOf (s.header c area 40 8))
              watchdog := keepWatchdog (wordOf (s.header c area 48 8)), counters := sv.counters
              arms := restored cl.arms sv.arms fun a => a.state != .free
              regions := restored cl.regions sv.regions fun r => r.state != .free
              rings := sv.rings, sramCtx := some sv.ctx, run := .halted
              copyQ := cl.copyQ ++ held.filter (fun j => !ms j), msQ := cl.msQ ++ held.filter ms }
  let s : State := { s with watches := restored s.watches sv.watches (·.held), waiters := s.waiters ++ sv.waiters }
  let s := (s.compareAll sv.watches).serveAll sv.waiters
  let s := s.replayAll sv (sv.logEnd / 128)
  let s := threads.foldl (fun s p => (s.barrierLoaded p.1 .strandA).barrierLoaded p.1 .strandX) s
  let s := { s with saved := s.saved.filter (fun q => !(q.cluster == sv.cluster && q.area == sv.area)) }.trimBarriers
  let s := s.memUpdate base 64 fun m => memWrite m (base + 10) [2]
  s.updCluster c fun cl => { cl with run := if threads.isEmpty then .empty else .running }

/-- What the description of the row permits. -/
def ctxloadDesc (e : Enc) : Desc :=
  { sysDesc e 0 with sb := sReg }

/-- `ctxload` (R351). R351 names no status for a cluster that is not in service, and a lent one runs no thread (R375): DESIGN
CHOICE (log 109), it is answered as one that is not EMPTY. -/
def execCtxload (e : Enc) (s : State) : Host.Outcome State Fault Refusal :=
  issue (ctxloadDesc e) e s fun s =>
    let a := s.my.getS e.sa.idx.toNat
    let b := s.my.getS e.sb.idx.toNat
    let c := deviceOf s.curT * 128 + a.toNat
    let put (v : Word) (s : State) : State := s.retire e.la false [.s e.da.idx.toNat v]
    if pclBad a || ctlAreaBad b then .error (.cause .reservedField)
    else if s.areaBusy c then .ok (put 3 s)
    else if (s.cluster c).run ≠ .empty ∨ (s.cluster c).service ≠ .inService then .ok (put 1 s)
    else
      let s := s.memUpdate (physKey (c / 128) (ctlArea b)) (areaBytes + 2 ^ 23) id
      if !s.headerOk c (ctlArea b) then .ok (put 2 s)
      else match s.savedAt c (ctlArea b) with
        | none => .ok (put 2 s)
        | some sv => .ok (put 0 (s.loadArea c (ctlArea b) sv))

/-- What the description of the row permits. -/
def ctxloadDropDesc (e : Enc) : Desc :=
  { sysDesc e 1 with sb := sReg }

/-- `ctxload.drop` (R351). The spec does not say what becomes of the watches and the waiting remote `ldsync`s of other
clusters' threads that lie in the area: DESIGN CHOICE (log 111), they go with it unanswered. -/
def execCtxloadDrop (e : Enc) (s : State) : Host.Outcome State Fault Refusal :=
  issue (ctxloadDropDesc e) e s fun s =>
    let a := s.my.getS e.sa.idx.toNat
    let b := s.my.getS e.sb.idx.toNat
    let c := deviceOf s.curT * 128 + a.toNat
    let put (v : Word) (s : State) : State := s.retire e.la false [.s e.da.idx.toNat v]
    if pclBad a || ctlAreaBad b then .error (.cause .reservedField)
    else if s.areaBusy c then .ok (put 3 s)
    else
      let s := s.memUpdate (physKey (c / 128) (ctlArea b)) areaBytes id
      if !s.headerOk c (ctlArea b) then .ok (put 2 s)
      else match s.savedAt c (ctlArea b) with
      | none => .ok (put 2 s)
      | some sv =>
        let s := s.dropContext c sv.ctx
        let s := { s with saved := s.saved.filter (fun q => !(q.cluster == sv.cluster && q.area == sv.area)) }.trimBarriers
        let base := physKey (c / 128) (ctlArea b)
        .ok (put 0 (s.memUpdate base 64 fun m => memWrite m (base + 10) [3]))

/-! ### `tlbinv` (R334) -/

/-- A page from `base` of `n` bytes holds a byte of [a, a + len − 1] modulo 2^64. -/
def pageCovered (a : Word) (len base n : Nat) : Bool :=
  len != 0 && (decide ((base + 2 ^ 64 - a.toNat) % 2 ^ 64 < len) || decide ((a.toNat + 2 ^ 64 - base) % 2 ^ 64 < n))

/-- A cached translation lies in the TLBs of a scope. -/
def Tlb.inScope (e : Tlb) (t gs : Nat) : Bool :=
  let c := if e.level = 0 then e.unit / 8 else e.unit
  if gs = 3 then e.level != 2 && c == clusterOf t
  else if gs = 4 then (if e.level = 2 then e.unit == dieOf t else c / 32 == dieOf t)
  else if e.level = 2 then e.unit / 4 == deviceOf t else c / 128 == deviceOf t

def clusterInScope (c t gs : Nat) : Bool :=
  if gs = 3 then c == clusterOf t else if gs = 4 then c / 32 == dieOf t else c / 128 == deviceOf t

/-- Every access of the strands in the scope is performed at its home: their atomics, and the dirty lines of their
cores' L1s. -/
def State.performScope (s : State) (t gs : Nat) : State :=
  let s := (s.threads.filter fun p => clusterInScope (clusterOf p.1) t gs).foldl
    (fun s p => (s.runAtomics p.1 .strandA 64).runAtomics p.1 .strandX 64) s
  (s.l1.filter fun l => clusterInScope (l.core / 8) t gs && l.dirty != 0).foldl (fun s l => s.writeBackL1 l) s

/-- A request holds a translated address: the lines of a `tld` or `vtld`, the word of a watch, the place of an atomic. -/
def Flight.translated (f : Flight) : Bool :=
  f.atomic.isSome || (match f.req with | some (.ticket ..) | some (.watch ..) => true | _ => false)

/-- A page that a job or a region copy has entered, whose accesses use the translation that it was entered with, is covered by
a `tlbinv` (R334). -/
def PageIn.covered (p : PageIn) (own : Bool) (a len : Word) : Bool :=
  windowOf (p.page * 65536) == some (if own then .own else .global) && pageCovered a len.toNat (p.page * 65536) 65536

/-- Accesses of the strands in the scope that use a translation which a `tlbinv` removes are still to be performed (R334):
requests on their way, and jobs and region copies in a page that it covers (log 110). -/
def State.translating (s : State) (t : Nat) (own : Bool) (gs : Nat) (a len : Word) : Bool :=
  let ctx := s.ctxOf (clusterOf t)
  let uses (l : List PageIn) : Bool := l.any fun p => p.covered own a len
  (s.threads.any fun p => clusterInScope (clusterOf p.1) t gs && [p.2.a, p.2.x].any fun st => st.flight.any Flight.translated) ||
  s.clusters.any fun p => clusterInScope p.1 t gs &&
    (((p.2.copyQ ++ p.2.msQ).any fun j => !j.held && j.ctx == ctx && uses j.pages) ||
     p.2.regions.any fun r => r.2.state == .filling && r.2.ctx == ctx && uses r.2.pages)

/-- The body of `tlbinv`: it completes once no access that used a removed translation is left to be performed. -/
def tlbinvBody (own : Bool) (e : Enc) (s : State) : Except Stop State :=
  let a := s.my.getS e.sa.idx.toNat
  let len := (s.my.getS e.sb.idx.toNat).toNat
  let t := s.curT
  let tag := s.tlbTag (clusterOf t) own
  let hit (x : Tlb) : Bool :=
    x.own == own && x.tag == tag && x.inScope t e.gs.toNat &&
    pageCovered a len (if x.big then x.vpage * 2 ^ 29 else x.vpage * 2 ^ 16) (if x.big then 2 ^ 29 else 2 ^ 16)
  let b := s.my.getS e.sb.idx.toNat
  if len ≠ 0 ∧ s.translating t own e.gs.toNat a b then .error (.wait (.translated own e.gs.toNat a b))
  else
    let s := if len = 0 then s else s.performScope t e.gs.toNat
    .ok ({ s with tlb := s.tlb.filter fun x => !hit x } : State).next

def tlbinvDesc (e : Enc) (fn : Nat) (gs : List Nat) : Desc :=
  { legal := e.fn.toNat == fn && e.ty == .none, gs := .scope gs, sa := sReg, sb := sReg, priv := true }

/-- `tlbinv.ctx` (R334). -/
def execTlbinvCtx (e : Enc) (s : State) : Host.Outcome State Fault Refusal :=
  issue (tlbinvDesc e 0 [3, 4, 5]) e s fun s => tlbinvBody false e s
/-- `tlbinv.own` (R334). -/
def execTlbinvOwn (e : Enc) (s : State) : Host.Outcome State Fault Refusal :=
  issue (tlbinvDesc e 1 [3]) e s fun s => tlbinvBody true e s

/-! ### `tprobe` (R335) -/

/-- The word that `tprobe` writes. -/
def probeWord (w : Option Walk) : Word :=
  match w with
  | none => (Cause.unmapped.code.setWidth 64) <<< 2
  | some (.leaf l level) => (l &&& 0xFFFFFFFFFFFFF000) ||| wordOf (level * 2 ^ 10 + 3)
  | some (.fail c level _) => wordOf (level * 2 ^ 10) ||| ((c.code.setWidth 64) <<< 2)

def State.probe (s : State) (t : Nat) (own : Bool) (a : Word) : Option Walk :=
  let cl := s.cluster (clusterOf t)
  match windowOf a.toNat, own with
  | some .global, false => some (s.walk (clusterOf t) false cl.ptroot.toNat (a.toNat % 2 ^ 54))
  | some .own, true => some (s.walk (clusterOf t) true cl.ownroot.toNat (a.toNat % 2 ^ 54))
  | _, _ => none

/-- `tprobe.ctx` (R335), long. -/
def execTprobeCtx (e : Enc) (s : State) : Host.Outcome State Fault Refusal :=
  issue (sysDesc e 0) e s fun s =>
    .ok (s.retire e.la true [.s e.da.idx.toNat (probeWord (s.probe s.curT false (s.my.getS e.sa.idx.toNat)))])
/-- `tprobe.own` (R335), long. -/
def execTprobeOwn (e : Enc) (s : State) : Host.Outcome State Fault Refusal :=
  issue (sysDesc e 1) e s fun s =>
    .ok (s.retire e.la true [.s e.da.idx.toNat (probeWord (s.probe s.curT true (s.my.getS e.sa.idx.toNat)))])

end Sys2Proof.Machine
end

