-- ==== Sys2Proof/Machine/Link.lean ====
section
/-! DEFINITION. The steps of the Rhoty base and the pod fabric (R354 to R373): circuits, tables with generations, admission of
requests at their first link, packets on their way and what their destinations do with them, ports. -/

namespace Sys2Proof.Machine

/-! ### Circuits (R357 to R359) -/

def State.circuit (s : State) (die n : Nat) : Circuit := (tget (s.device (die / 4)).circuits (die % 4 * 64 + n)).getD Circuit.zero
def State.setCircuit (s : State) (die n : Nat) (c : Circuit) : State :=
  s.updDevice (die / 4) fun d => { d with circuits := tset d.circuits (die % 4 * 64 + n) c }

/-- States in which an entry holds its wavelengths. -/
def CircuitState.holds : CircuitState → Bool
  | .tuning | .live | .draining => true
  | _ => false

/-- A wavelength of a set belongs to an entry of the die (R357). -/
def State.waveUsed (s : State) (die : Nat) (w : Word) : Bool :=
  (s.device (die / 4)).circuits.any fun p => p.1 / 64 == die % 4 && p.2.state.holds && (p.2.cxw &&& w) != 0

/-- CMD ESTABLISH (R357). -/
def State.establish (s : State) (die n : Nat) : State :=
  let c := s.circuit die n
  if c.state ≠ .free then s
  else if c.src.toNat ≠ die % 4 ∨ c.dst = c.src ∨ c.cxw = 0 ∨ c.tcls = 0 then
    s.setCircuit die n { c with state := .fault, cause := 2 }
  else if s.waveUsed die c.cxw then s.setCircuit die n { c with state := .fault, cause := 1 }
  else (s.setCircuit die n { c with state := .tuning }).noteBounds

/-- CMD DRAIN (R357). -/
def State.cxcDrain (s : State) (die n : Nat) : State :=
  let c := s.circuit die n
  if c.state = .tuning ∨ c.state = .live then (s.setCircuit die n { c with state := .draining }).noteBounds else s

/-- CMD RELEASE (R357). -/
def State.cxcRelease (s : State) (die n : Nat) : State :=
  let c := s.circuit die n
  if c.state = .fault then s.setCircuit die n { c with state := .free, cause := 0 } else s

/-- A write of CXC: the fields while the entry is FREE, then the command (R357). -/
def State.writeCxc (s : State) (die n : Nat) (v : Word) : State :=
  let c := s.circuit die n
  let s := if c.state = .free then
      s.setCircuit die n { c with tcls := v.extractLsb' 8 6, dst := v.extractLsb' 2 2, src := v.extractLsb' 0 2 } else s
  match (v.extractLsb' 20 4).toNat with
  | 1 => s.establish die n
  | 2 => s.cxcDrain die n
  | 3 => s.cxcRelease die n
  | _ => s

/-- A write of CXW (R357). -/
def State.writeCxw (s : State) (die n : Nat) (v : Word) : State :=
  let c := s.circuit die n
  if c.state = .free then s.setCircuit die n { c with cxw := v } else s

/-- ESTABLISH (R357). -/
def execEstablish (die n : Nat) (s : State) : Host.Outcome State Fault Refusal := .next (s.establish die n)
/-- CXC_DRAIN (R357). -/
def execCxcDrain (die n : Nat) (s : State) : Host.Outcome State Fault Refusal := .next (s.cxcDrain die n)
/-- CXC_RELEASE (R357). -/
def execCxcRelease (die n : Nat) (s : State) : Host.Outcome State Fault Refusal := .next (s.cxcRelease die n)

/-- CIRCUIT_TUNING_DONE (R357): LIVE, or FAULT with CAUSE 3. -/
def execCircuitTuningDone (die n : Nat) (ok : Bool) (s : State) : Host.Outcome State Fault Refusal :=
  let c := s.circuit die n
  .next (if c.state = .tuning then
    (s.setCircuit die n (if ok then { c with state := .live } else { c with state := .fault, cause := 3 })).noteBounds else s)

/-- Packets on a circuit. -/
def State.onCircuit (s : State) (die n : Nat) : Bool :=
  s.packets.any fun p => p.copy == .moving && p.circ == some (die % 4 * 64 + n) && p.link == some (outLink die)

/-- CIRCUIT_DRAIN_DONE (R357): FREE once every packet on it has been delivered. -/
def execCircuitDrainDone (die n : Nat) (s : State) : Host.Outcome State Fault Refusal :=
  let c := s.circuit die n
  .next (if c.state = .draining ∧ s.onCircuit die n = false then s.setCircuit die n { c with state := .free } else s)

/-! ### Tables with generations (R360, R361) -/

/-- A write to TFENCE: ignored unless it is the current generation plus one, modulo 256 (R361). -/
def State.startFence (s : State) (d : Nat) (g : Word) : State :=
  let dv := s.device d
  if dv.fenceBusy ∨ g ≠ (dv.tableGen + 1).setWidth 64 then s
  else s.setDevice d { dv with tableNext := dv.tableGen + 1, fenceBusy := true, fenceDone := false }

/-- TFENCE (R361). -/
def execTfence (d : Nat) (g : BitVec 8) (s : State) : Host.Outcome State Fault Refusal := .next (s.startFence d (g.setWidth 64))

/-- A request of a strand that carries another generation, at its first link or beyond, and has been neither answered nor
bounced (R361). -/
def Flight.older (f : Flight) (g : BitVec 8) : Bool :=
  f.gen != g && (match f.phase with
    | .atLink _ | .travelling _ | .answering _ => true
    | .arrived => f.req.isSome
    | .refused | .bounced | .backoff _ => false)

/-- The same for a request of an engine. -/
def Net.older (n : Net) (g : BitVec 8) : Bool :=
  match n with
  | .atLink _ h .. => h != g
  | .sent f => f.gen != g
  | .idle | .told .. => false

/-- Requests of a device that still carry an older generation: of strands, of their long operations, and of engines (R361). -/
def State.olderOut (s : State) (d : Nat) (g : BitVec 8) : Bool :=
  let strand (st : Strand) : Bool :=
    st.flight.any (·.older g) || st.pend.any fun o => !o.ready && o.far.any fun f => f.gen != g
  let cluster (cl : Cluster) : Bool :=
    cl.copyQ.any (fun j => j.net.older g) || cl.regions.any (fun r => r.2.net.older g) || cl.actions.any fun a => a.net.older g
  (s.threads.any fun p => deviceOf p.1 == d && (strand p.2.a || strand p.2.x)) ||
  (s.clusters.any fun p => p.1 / 128 == d && cluster p.2) || s.answers.any fun a => a.die / 4 == d && a.net.older g

/-- A pseudo-channel of a cluster leaves its interleave table: what lies below the new length keeps its offset, and what lay above
is lost (R20, R387). -/
def State.retireChannel (s : State) (c ch : Nat) : State :=
  let len := ownedLength ((s.cluster c).retired.length + 1)
  let base := physKey (c / 128) (clusterBase (c % 128))
  ((s.flushRange base clusterSpan).zeroRange (base + len) (clusterSpan - len)).updCluster c fun cl =>
    { cl with retired := insertKey ch cl.retired, taken := cl.taken - 0x30000000 }

/-- TABLE_FENCE_COMPLETE (R361): the shadow copies of the routing table, of the membership bitmap and of an interleave table are
in use, BUSY is cleared and DONE set. -/
def execTableFenceComplete (s : State) : Host.Outcome State Fault Refusal :=
  let d := s.actor
  let dv := s.device d
  .next (if dv.fenceBusy ∧ s.olderOut d dv.tableNext = false then
    let s := s.setDevice d { dv with tableGen := dv.tableNext, fenceBusy := false, fenceDone := true
                                     members := dv.nextMembers.getD dv.members, nextMembers := none, retiring := none
                                     routing := dv.shadow.foldl (fun l p => tset l p.1 p.2) dv.routing, shadow := [] }
    (match dv.retiring with
    | some (c, ch) => s.retireChannel c ch
    | none => s).noteBounds
    else s)

/-- REQUEST_BOUNCE (R360): the bounced request is steered again under the generation that its receiver steers by (log 65)
and presented again; no retry is counted. -/
def execRequestBounce (s : State) : Host.Outcome State Fault Refusal :=
  let t := s.curT
  let x := s.curX
  .next (match (s.strand t x).flight with
    | some f =>
      if f.phase = .bounced then
        (s.setFlight t x { f with phase := .atLink (s.elapsedOf (deviceOf t)), bounces := f.bounces + 1
                                  gen := s.steerGen (f.die / 4) }).noteBounds
      else s
    | none => s)

/-! ### Admission (R355, R356, R366, R373, R383) -/

/-- A request whose device no port reaches any more (R366): the checks of an instruction that names an address are made again and
raise UNMAPPED there; any other raises it. -/
def State.unreachable (s : State) (t : Nat) (x : Side) (f : Flight) : State :=
  match f.req with
  | none | some (.ldsync ..) | some (.watch ..) | some (.ticket ..) =>
    (s.dropAllocated f.req).updStrand t x fun st => { st with status := .ready, flight := none }
  | _ => s.raise t x (TrapInfo.plain .unmapped)

/-- The first link direction of a request of strand (t, x) grants it its permits: it is a packet, and a `tdrop`'s strand goes on
(R205, R356). -/
def State.admitted (s : State) (t : Nat) (x : Side) (f : Flight) (n : Nat) : State :=
  let f := { f with phase := .travelling n }
  match f.req with
  | some (.drop ..) => s.finish t x []
  | _ => s.setFlight t x { f with bound := max f.bound (s.boundNow t f) }

/-- The packet's contents of a strand's request. -/
def Flight.cargo (f : Flight) (t : Nat) (x : Side) : Cargo :=
  match f.req with
  | some (.drop part w) => .drop t x part w
  | _ => .request t x

/-- LINK_ADMISSION (R356): the first link direction grants the permits and the request is admitted as a packet; with no
path, or no key for its partition, it is refused. -/
def execLinkAdmission (s : State) : Host.Outcome State Fault Refusal :=
  let t := s.curT
  let x := s.curX
  .next (match (s.strand t x).flight with
    | some f =>
      (match f.phase with
      | .atLink since =>
        (match s.admitAt (dieOf t) f.die f.cls (s.partOf t) since f.gen (f.cargo t x) with
        | .granted n s' => s'.admitted t x f n
        | .waits => s
        | .refused => s.setPhase t x .refused
        | .unmapped => s.unreachable t x f)
      | _ => s)
    | none => s)

/-- PERMIT_GRANT_TIMEOUT (R356): no grant within 50 ns refuses the request, at whatever clock (R5). -/
def execPermitGrantTimeout (s : State) : Host.Outcome State Fault Refusal :=
  let t := s.curT
  let x := s.curX
  .next (match (s.strand t x).flight with
    | some f =>
      (match f.phase with
      | .atLink since => if since + grantLimit ≤ s.elapsedOf (deviceOf t) then s.setPhase t x .refused else s
      | _ => s)
    | none => s)

/-! ### Packets (R354, R359, R366 to R370) -/

/-- A packet discarded or stomped at the end of a link direction is counted at the device there (R369). -/
def State.countDrop (s : State) (l : Nat) : State := s.updDevice (s.linkDevice l) fun d => { d with drops := d.drops + 1 }

/-- The copy of a packet on a link direction is gone: its permits return (R355). -/
def State.loseCopy (s : State) (p : Packet) (l : Nat) (c : PacketCopy) : State :=
  ((s.countDrop l).leaveLink p).setPacket { p with copy := c, link := none }

/-- A packet takes its next leg, once that grants it permits; those of the last return (R355, R356). -/
def State.hop (s : State) (p : Packet) : State :=
  match s.nextLeg p with
  | some (l, c) => if s.takes l p.cls p.flits p.part then s.enterLink { p with via := s.passes p } l c else s
  | none => s

/-- A packet on a fabric port crosses it: not a DOWN one (R371). -/
def State.crosses (s : State) (l : Nat) : Bool := !isPort l || decide (s.portMode (portDevice l) (portNumber l) ≠ 4)

/-- A packet at the end of a link direction, on its way on. `chk` is 0 for a whole packet, 1 for a failed RCHK with a trusted
source, 2 for one without, 3 for a packet CRC error found once forwarding has begun: the packet goes on with end marker 2, which
the next device that receives it whole discards, and a drop notice goes to its source. -/
def State.forwardPacket (s : State) (p : Packet) (l chk : Nat) : State :=
  if !s.crosses l then s
  else if p.bad || !s.keyTaken l p.part p.key then s.loseCopy p l .noticed
  else match chk with
    | 0 => s.hop p
    | 1 => s.loseCopy p l .noticed
    | 2 => s.loseCopy p l .lost
    | _ => (match s.nextLeg p with
      | some (m, c) =>
        if s.takes m p.cls p.flits p.part then (s.countDrop l).enterLink { p with via := s.passes p, bad := true } m c else s
      | none => s)

/-- PACKET_FORWARD (R359, R366, R369): packet n leaves its source, or, checked where its link ends, takes its next link. -/
def execPacketForward (n chk : Nat) (s : State) : Host.Outcome State Fault Refusal :=
  .next (match s.packet n with
    | some p =>
      if p.copy = .moving ∧ p.atEnd = false then
        (match p.link with
        | none => s.hop { p with sent := s.cycleOf (p.src / 4) }
        | some l => s.forwardPacket p l chk)
      else s
    | none => s)

/-- Classes delivered in sequence order (R354). -/
def inOrder (cls : Nat) : Bool := cls == 0 || cls == 2 || cls == 3 || cls == 5

/-- An earlier packet of the same source, destination and class has not been accepted. -/
def State.earlier (s : State) (p : Packet) : Bool :=
  s.packets.any fun q =>
    decide (q.id < p.id) && !q.taken && flowKey q.src q.dst q.cls == flowKey p.src p.dst p.cls

/-- The generation under which a packet was steered is not the one by which its receiver steers (R360). -/
def State.stale (s : State) (p : Packet) : Bool := p.gen != s.steerGen (p.dst / 4)

/-- The cluster whose SRAM or unit a request names. -/
def Req.cluster : Req → Option Nat
  | .ldsync key .. | .watch key .. => if isSram key then some (sramCluster key) else none
  | .cinc c .. => some c
  | _ => none

/-- PART of a packet may reach the memory that it names: the cluster's where the request names one, else some of the die's
(R372). -/
def State.allowed (s : State) (p : Packet) (r : Option Req) : Bool :=
  match r.bind Req.cluster with
  | some c => (s.cluster c).part.toNat == p.part
  | none =>
    ((List.range 32).any fun i => (s.cluster (p.dst * 32 + i)).part.toNat == p.part) ||
    (tget s.partitions p.part).any fun q => q.device == p.dst / 4 && q.dies.getLsbD (p.dst % 4)

/-- The request of strand (t, x) at its destination: bounced when it was steered under another generation (R360), turned away
when its PART may not reach the memory (R372); else an access of the strand has its data, an atomic is accepted (R275), and any
other request is for its unit there. -/
def State.arriveRequest (s : State) (p : Packet) (t : Nat) (x : Side) : State :=
  match (s.strand t x).flight with
  | some f =>
    if (s.thread? t).isNone ∨ f.phase ≠ .travelling p.id then s
    else if s.stale p then s.reply t x p.dst .bounced
    else if !s.allowed p f.req then s.reply t x p.dst (.trap (TrapInfo.plain .permission))
    else match f.req, f.atomic with
      | none, some a => s.acceptAtomic t x a
      | none, none => s.reply t x p.dst .access
      | some _, _ => (s.setPhase t x .arrived).joinCinc t x
  | none => s

/-- The answer to strand (t, x) arrives. -/
def State.arriveReply (s : State) (p : Packet) (t : Nat) (x : Side) (r : Reply) : State :=
  if (s.thread? t).isSome ∧ (s.strand t x).flight.any (fun f => f.phase == .answering p.id) then s.applyReply t x r else s

/-- The engine waits for the answer to a packet. -/
def Net.awaits (n : Net) (packet : Nat) : Bool :=
  match n with
  | .sent f => f.packet == packet
  | _ => false

/-- What the receiver of an engine's request does: source data is granted, an armed increment or send and a watch answer meet
their target (R152, R253, R262, R348); none for a request that no one makes any more. -/
def State.serveAsk (s : State) (p : Packet) (o : Owner) : Option (Told × State) :=
  match o with
  | .job .. | .region .. => some (.granted, s)
  | .action c n =>
    ((s.cluster c).actions.find? fun a => a.entry == n && a.net.awaits p.id).map (s.actionArrives c)
  | .answer id =>
    (s.answers.find? fun a => a.id == id && a.net.awaits p.id).map fun a =>
      match s.takeAnswer a with
      | some s' => (.granted, s')
      | none => (.refused, s)

/-- The request of an engine at its destination, answered in a packet: of class BLK with source data, else RSP (R354). -/
def State.arriveAsk (s : State) (p : Packet) (o : Owner) : State :=
  let tell (a : Told) (s : State) : State :=
    let data := a == .granted && (match o with | .job .. | .region .. => true | .action .. | .answer _ => false)
    (s.post p.dst p.src (if data then 4 else 1) p.part (.tell o p.id a)).2
  if s.stale p then tell .bounced s
  else if !s.allowed p none then tell .denied s
  else match s.serveAsk p o with
    | some (a, s) => tell a s
    | none => s

/-- What the destination of a packet does with it. A `tdrop` that was steered under another generation is steered again at its
source (R360). -/
def State.consume (s : State) (p : Packet) : State :=
  match p.cargo with
  | .request t x => s.arriveRequest p t x
  | .reply t x r => s.arriveReply p t x r
  | .result t x id ws f => s.answerOp t x id ws f
  | .ask o => s.arriveAsk p o
  | .tell o n a => s.tell o n a
  | .fill id => { s with fills := s.fills.map fun f => if f.id = id then { f with onWay := false } else f }
  | .drop t x part w =>
    if s.stale p then (s.form p.src p.dst p.cls p.part (s.steerGen (p.dst / 4)) p.cargo).2
    else { s with drops := s.drops ++ [(t, x, w, part)] }

/-- PACKET_DELIVERY (R354, R355, R369, R370): packet n at its destination. A failed packet CRC or authentication tag, or end
marker 2, discards it with a drop notice; a copy of one already accepted is discarded and acknowledged again; a packet of a class
in sequence order waits for the earlier ones. -/
def execPacketDelivery (n : Nat) (ok : Bool) (s : State) : Host.Outcome State Fault Refusal :=
  .next (match s.packet n with
    | some p =>
      if p.copy = .moving ∧ p.atEnd = true then
        if !ok || p.bad then s.loseCopy p (inLink p.dst) .noticed
        else if !p.taken && inOrder p.cls && s.earlier p then s
        else
          let t := (s.leaveLink p).setPacket { p with copy := .accepted, taken := true, link := none }
          if p.taken then t else t.consume p
      else s
    | none => s)

/-- PACKET_ACK (R370): the acknowledgement reaches the source, which keeps the packet no longer. -/
def execPacketAck (s : State) : Host.Outcome State Fault Refusal :=
  let n := s.actor
  .next (match s.packet n with
    | some p => if p.copy = .accepted then s.dropPacket n else s
    | none => s)

/-- The source sends a packet again, on a minimal path (R370). -/
def State.resend (s : State) (p : Packet) : State :=
  (if p.copy = .moving then s.quitLink p else s).setPacket
    { p with link := none, circ := none, copy := .moving, hop := 0, via := true, idev := p.dst / 4, bad := false
             sent := s.cycleOf (p.src / 4) }

/-- DROP_NOTICE (R370). -/
def execDropNotice (s : State) : Host.Outcome State Fault Refusal :=
  let n := s.actor
  .next (match s.packet n with
    | some p => if p.copy = .noticed then s.resend p else s
    | none => s)

/-- PACKET_RETRANSMIT_TIMEOUT (R370): neither an acknowledgement nor a notice within 8,000 cycles of its being sent. -/
def execPacketRetransmitTimeout (s : State) : Host.Outcome State Fault Refusal :=
  let n := s.actor
  .next (match s.packet n with
    | some p =>
      if p.sent + 8000 ≤ s.cycleOf (p.src / 4) ∧ !(p.copy == .moving && p.link.isNone) then s.resend p else s
    | none => s)

/-- A request of a strand waits for an answer (R370). A redeem that blocks until its ticket is READY and an `ldsync` that waits
for its word have been taken in, and the bound does not run (R202, R206, R247). -/
def Strand.awaits (st : Strand) (f : Flight) : Bool :=
  (match f.phase with
  | .travelling _ | .bounced | .answering _ => true
  | .arrived => f.req.isSome
  | .atLink _ | .refused | .backoff _ => false) &&
  (match st.status with | .waiting .ticket | .waiting (.word _) => false | _ => true)

/-- Eight times the largest bound that a request has had is over. -/
def State.overdue (s : State) (t since bound : Nat) : Bool := decide (since + 8 * bound ≤ s.now t)

/-- A long operation whose results another die owes is overdue; a placement is awaited without a bound (R50). -/
def State.lateOp (s : State) (t : Nat) (o : LongOp) : Bool :=
  !o.ready && (match o.kind with | .spawn .. => false | _ => true) && o.far.any fun f => s.overdue t f.since f.bound

/-- The packet that carries the results of a long operation is not awaited any more. -/
def State.forgetResult (s : State) (t : Nat) (x : Side) (id : Nat) : State :=
  s.dropPackets fun p => match p.cargo with | .result u y n .. => u == t && y == x && n == id | _ => false

/-- A long operation is completed with HOME_FENCED. An atomic that has been admitted is performed once (R276). -/
def State.fenceOp (s : State) (t : Nat) (x : Side) (o : LongOp) : State :=
  let va : Option Word := match o.kind with | .atomic r => some r.va | _ => none
  let s := if va.isSome then s.runAtomics t x 64 else s
  let i := match va with | some a => TrapInfo.at .homeFenced a | none => TrapInfo.plain .homeFenced
  (s.forgetResult t x o.id).answerOp t x o.id [] (some i)

/-- REQUEST_ANSWER_TIMEOUT (R370): no answer within eight times the largest bound the request has had completes it with
HOME_FENCED, whether it crosses the package or the fabric (log 89), and the event is reported: the request for which strand (t, x)
waits, and those of its long operations. -/
def execRequestAnswerTimeout (s : State) : Host.Outcome State Fault Refusal :=
  let t := s.curT
  let x := s.curX
  let st := s.strand t x
  let s := (st.pend.filter (s.lateOp t)).foldl (fun s o => (s.fenceOp t x o).report (deviceOf t)) s
  .next (match st.flight with
    | some f =>
      if st.awaits f && crossesLink t f.die && s.overdue t f.since (max f.bound (s.boundNow t f)) then
        (((s.forgetReply t x).dropAllocated f.req).report (deviceOf t)).raise t x (TrapInfo.plain .homeFenced)
      else s
    | none => s)

/-! ### Ports (R368, R371) -/

def State.port (s : State) (d p : Nat) : Port := (tget (s.device d).ports p).getD Port.zero
def State.setPort (s : State) (d p : Nat) (v : Port) : State :=
  s.updDevice d fun dv => { dv with ports := tset dv.ports p v }

/-- The receiver of a link direction asks for a replay from a number that its sender's replay buffer holds: the flits from there on
are sent again, and a port counts the replay; no packet changes (R368, R371). -/
def State.replayLink (s : State) (l : Nat) (num : BitVec 12) : State :=
  if (s.linkBuf l).flits.any (·.num == num) then
    let s := s.replayFlits l num
    if isPort l then
      let v := s.port (portDevice l) (portNumber l)
      s.setPort (portDevice l) (portNumber l) { v with replays := v.replays + 1 }
    else s
  else s

/-- LINK_REPLAY (R368): a link CRC error, or a gap in the link sequence numbers, at a number. -/
def execLinkReplay (s : State) : Host.Outcome State Fault Refusal :=
  let l := s.actor
  let n := s.item
  .next (s.replayLink l (BitVec.ofNat 12 n))

/-- LANE_FAILURE (R371): the port falls to the next mode; flits in flight are replayed. -/
def execLaneFailure (d port : Nat) (s : State) : Host.Outcome State Fault Refusal :=
  let v := s.port d port
  let l := portLink d port
  let s := s.setPort d port { v with mode := min 4 (v.mode + 1) }
  .next (match (s.linkBuf l).flits.head? with
    | some f => s.replayLink l f.num
    | none => s).noteBounds

/-- PORT_TRAINING_COMPLETE (R371, R388): a retraining port returns in the best mode that training reached. -/
def execPortTrainingComplete (d port mode : Nat) (s : State) : Host.Outcome State Fault Refusal :=
  let v := s.port d port
  .next (if v.training then (s.setPort d port { v with mode := min 4 mode, training := false }).noteBounds else s)

end Sys2Proof.Machine
end

