-- ==== Sys2Proof/Machine/Trap.lean ====
section
/-! DEFINITION. Steps that end a strand's waits: results of long operations (R40), delivery of traps that waited for
them (R41, R325, R326), and unassigned OP values (R75). -/

namespace Sys2Proof.Machine

/-- ILLEGAL_OPCODE (R69, R75): an OP value that the table leaves unassigned. -/
def execIllegalOpcode (_ : BitVec 96) (s : State) : Host.Outcome State Fault Refusal :=
  match s.thread? s.curT with
  | none => .fault .noStrand
  | some _ => .next (s.raise s.curT s.curX (TrapInfo.plain .illegal))

/-- LONG_OP_COMPLETE (R40): operation `id` of strand (t, x), whose results are known, writes them; its pushes wait for
those of earlier operations. -/
def execLongOpComplete (t : Nat) (x : Side) (id : Nat) (s : State) : Host.Outcome State Fault Refusal :=
  .next (match (s.strand t x).pend.find? (fun o => o.id == id) with
    | some o => if o.ready && !pushWaits (s.strand t x).pend id then s.complete t x id else s
    | none => s)

/-- USER_TRAP_ENTRY (R41, R325): a trap that waited is delivered to the user vector. -/
def execUserTrapEntry (s : State) : Host.Outcome State Fault Refusal :=
  let t := s.curT
  let x := s.curX
  .next (match (s.strand t x).trap with
    | some p => if s.trapReady t x && s.trapToUser t x p.info then s.deliver t x p else s
    | none => s)

/-- SUPERVISOR_TRAP_ENTRY (R41, R326): a trap that waited is delivered to the supervisor vector. -/
def execSupervisorTrapEntry (s : State) : Host.Outcome State Fault Refusal :=
  let t := s.curT
  let x := s.curX
  .next (match (s.strand t x).trap with
    | some p => if s.trapReady t x && !s.trapToUser t x p.info then s.deliver t x p else s
    | none => s)

end Sys2Proof.Machine
end

