-- ==== Sys2Proof/Machine/Loader.lean ====
section
/-! DEFINITION. Loadable images and the loader (R83 to R101): the checks of a file, placement of its sections, region
templates, and the spawns of its spawn table, which go on from step to step until each child is placed.

The spec does not say where in the owned ranges the loader places sections and page tables: it takes them from the top
of each cluster's backed range downwards (log 27). -/

namespace Sys2Proof.Machine

/-! ### The file (R83 to R86) -/

/-- An image: its bytes. -/
structure Image where
  bytes : List Byte

/-- Unsigned field of n bytes at an offset. -/
def Image.u (f : Image) (ofs n : Nat) : Nat := leNat ((f.bytes.drop ofs).take n)
/-- Bytes of a range are zero. -/
def Image.zero (f : Image) (ofs n : Nat) : Bool := ((f.bytes.drop ofs).take n).all (· == 0)

/-- A directory entry (R84). -/
structure DirEntry where
  tab : Nat
  count : Nat
  ofs : Nat
  size : Nat

/-- Entry size of each table kind (R84). -/
def entrySize (tab : Nat) : Nat :=
  match tab with
  | 1 => 48 | 2 => 24 | 3 => 1 | 4 => 24 | 5 => 16 | 6 => 32 | 7 => 48 | 8 => 8 | _ => 128

def Image.dir (f : Image) : List DirEntry :=
  (List.range (f.u 16 4)).map fun i =>
    let o := f.u 20 4 + 16 * i
    ⟨f.u o 2, f.u (o + 4) 4, f.u (o + 8) 4, f.u (o + 12) 4⟩

/-- The table of a kind: offset of its entries and their number, none when it is absent. -/
def Image.table (f : Image) (tab : Nat) : Nat × Nat :=
  match f.dir.find? fun e => e.tab == tab with
  | some e => (e.ofs, e.count)
  | none => (0, 0)

/-- Offset of entry i of a table. -/
def Image.entry (f : Image) (tab i : Nat) : Nat := (f.table tab).1 + entrySize tab * i
def Image.count (f : Image) (tab : Nat) : Nat := (f.table tab).2

def Image.signed (f : Image) : Bool := f.u 8 4 % 2 == 1
def Image.ncl (f : Image) : Nat := f.u 24 2
def Image.vlreq (f : Image) : Nat := f.u 12 4

/-- A vector width that VLREQ may name (R83). -/
def vlOk (v : Nat) : Bool := v == 0 || [256, 512, 1024, 2048, 4096, 8192].contains v

/-- The header of a loadable image (R83). -/
def Image.headerOk (f : Image) : Bool :=
  decide (f.bytes.length ≥ 32) && f.u 0 4 == 0x4C424D4C && f.u 4 2 == 1 && f.u 6 2 == 2 && decide (f.u 8 4 ≤ 1) &&
  vlOk f.vlreq && decide (1 ≤ f.u 16 4 ∧ f.u 16 4 ≤ 9) && f.u 20 4 % 8 == 0 && decide (1 ≤ f.ncl ∧ f.ncl ≤ 128) &&
  f.zero 26 6

def rangesMeet (a n b m : Nat) : Bool := decide (n > 0) && decide (m > 0) && decide (a < b + m) && decide (b < a + n)

/-- No two of a list of ranges share a byte. -/
def disjointRanges : List (Nat × Nat) → Bool
  | [] => true
  | r :: l => (l.all fun q => !rangesMeet r.1 r.2 q.1 q.2) && disjointRanges l

def rising : List Nat → Bool
  | a :: b :: r => decide (a < b) && rising (b :: r)
  | _ => true

/-- Ranges of the contents of the sections in the file. -/
def Image.contents (f : Image) : List (Nat × Nat) :=
  (List.range (f.count 1)).map fun i => (f.u (f.entry 1 i + 32) 4, f.u (f.entry 1 i + 36) 4)

/-- Bytes of a UTF-8 string of which `n` continuation bytes are still to come, the next of them from `lo` to `hi`. -/
def utf8From (n lo hi : Nat) : List Byte → Bool
  | [] => n == 0
  | b :: r =>
    let v := b.toNat
    if n ≠ 0 then decide (lo ≤ v ∧ v ≤ hi) && utf8From (n - 1) 0x80 0xBF r
    else if v < 0x80 then utf8From 0 0 0 r
    else if 0xC2 ≤ v ∧ v ≤ 0xDF then utf8From 1 0x80 0xBF r
    else if 0xE0 ≤ v ∧ v ≤ 0xEF then utf8From 2 (if v = 0xE0 then 0xA0 else 0x80) (if v = 0xED then 0x9F else 0xBF) r
    else if 0xF0 ≤ v ∧ v ≤ 0xF4 then utf8From 3 (if v = 0xF0 then 0x90 else 0x80) (if v = 0xF4 then 0x8F else 0xBF) r
    else false

/-- The string pool: NUL-terminated UTF-8 strings, the empty one at offset 0 (R85). -/
def poolOk (pool : List Byte) : Bool :=
  pool.head? == some 0 && pool.getLast? == some 0 && utf8From 0 0 0 pool

def Image.pool (f : Image) : List Byte := (f.bytes.drop (f.table 3).1).take (f.count 3)

/-- The directory of an image (R84, R100): no table overlaps another table or the contents of a section. -/
def Image.dirOk (f : Image) : Bool :=
  let d := f.dir
  decide (f.u 20 4 + 16 * f.u 16 4 ≤ f.bytes.length) && rising (d.map (·.tab)) &&
  (d.all fun e => decide (1 ≤ e.tab ∧ e.tab ≤ 9 ∧ e.tab ≠ 4) && e.size == entrySize e.tab && e.ofs % 8 == 0 &&
    decide (e.ofs + e.count * e.size ≤ f.bytes.length)) &&
  ((List.range (f.u 16 4)).all fun i => f.zero (f.u 20 4 + 16 * i + 2) 2) &&
  [1, 2, 3].all (fun t => d.any fun e => e.tab == t) &&
  (d.any fun e => e.tab == 9) == f.signed &&
  (d.all fun e => e.tab != 9 || (e.count == 1 && e.ofs + 128 == f.bytes.length)) &&
  (let tables := d.map fun e => (e.ofs, e.count * e.size)
   disjointRanges tables && tables.all fun r => f.contents.all fun q => !rangesMeet r.1 r.2 q.1 q.2)

/-- A name field lies in the string pool, whose last byte ends every string (R85). -/
def Image.nameOk (f : Image) (ofs : Nat) : Bool := f.u ofs 4 == 0 || decide (f.u ofs 4 < f.count 3)

/-! ### Sections (R86 to R88) -/

structure Section where
  kind  : Nat
  flags : Nat
  align : Nat
  addr  : Nat
  size  : Nat
  fofs  : Nat
  fsize : Nat
  galias : Nat

def Image.sect (f : Image) (i : Nat) : Section :=
  let o := f.entry 1 i
  ⟨f.u (o + 4) 2, f.u (o + 6) 2, f.u (o + 8) 4, f.u (o + 16) 8, f.u (o + 24) 8, f.u (o + 32) 4, f.u (o + 36) 4,
    f.u (o + 40) 8⟩

def Image.sections (f : Image) : List Section := (List.range (f.count 1 - 1)).map fun i => f.sect (i + 1)

def Section.pkind (c : Section) : Nat := c.flags / 16 % 8
def Section.nodup (c : Section) : Bool := c.flags / 8 % 2 == 1
def Section.empty (c : Section) : Bool := c.flags / 4 % 2 == 1
/-- STRIDE (R87). -/
def Section.stride (c : Section) : Nat := (c.size + 0xFFFF) / 0x10000 * 0x10000

/-- The window of a kind (R87). -/
def kindWindow (k : Nat) : Window :=
  if k ≤ 2 then .global else if k ≤ 4 then .own else if k = 5 then .core else if k = 6 then .clus
  else if k = 7 then .cave else .lane

/-- The first and the last byte lie in a window. -/
def inWindow (a n : Nat) (w : Window) : Bool := windowOf a == some w && (n == 0 || windowOf (a + n - 1) == some w)

/-- A section header of an image of ncl clusters (R86 to R88). -/
def Section.ok (c : Section) (fileLen ncl : Nat) : Bool :=
  let paged := decide (c.kind ≤ 4)
  decide (1 ≤ c.kind ∧ c.kind ≤ 8) && decide (c.flags < 128) && c.flags / 2 % 2 == 0 &&
  (if paged then decide (c.pkind ≤ 4) else c.pkind == 0 && !c.nodup) &&
  (!c.empty || decide (5 ≤ c.kind ∧ c.kind ≤ 7)) && (c.flags % 2 == 1) == (c.kind == 1) &&
  decide (2 ≤ c.align ∧ c.align ≤ 16) && c.addr % 2 ^ c.align == 0 && (!paged || c.addr % 0x10000 == 0) &&
  inWindow c.addr c.size (kindWindow c.kind) && decide (c.fsize ≤ c.size) && decide (c.fofs + c.fsize ≤ fileLen) &&
  (c.fsize != 0 || c.fofs == 0) && (c.kind != 1 || c.size % 4 == 0) && (c.kind != 4 || c.fsize == 0) &&
  (if c.kind = 3 ∨ c.kind = 4 then c.galias % 0x10000 == 0 && inWindow c.galias (ncl * c.stride) .global else c.galias == 0)

/-- Ranges of a window that the sections of an image take, by pages where there are pages (R87, R92). -/
def sectionRanges (ncl : Nat) (l : List Section) (w : Window) : List (Nat × Nat) :=
  (l.filter fun c => kindWindow c.kind == w).map (fun c => (c.addr, if c.kind ≤ 4 then c.stride else c.size)) ++
  (if w = .global then (l.filter fun c => c.kind == 3 || c.kind == 4).map fun c => (c.galias, ncl * c.stride) else [])

def Image.sectionsOk (f : Image) : Bool :=
  decide (f.count 1 ≥ 1) && f.zero (f.entry 1 0) 48 &&
  ((List.range (f.count 1 - 1)).all fun i =>
    f.zero (f.entry 1 (i + 1) + 12) 4 && f.nameOk (f.entry 1 (i + 1)) && (f.sect (i + 1)).ok f.bytes.length f.ncl) &&
  [Window.global, .own, .core, .clus, .cave, .lane].all fun w => disjointRanges (sectionRanges f.ncl f.sections w)

/-! ### Symbols and thread tables (R89, R95 to R97) -/

def Image.symValue (f : Image) (i : Nat) : Nat := f.u (f.entry 2 i + 8) 8
def Image.symType (f : Image) (i : Nat) : Nat := f.u (f.entry 2 i + 7) 1

/-- A strand entry lies in a code section at a multiple of 4 (R89). -/
def Image.entryOk (f : Image) (i : Nat) : Bool :=
  let sect := f.u (f.entry 2 i + 4) 2
  let c := f.sect sect
  decide (1 ≤ sect ∧ sect < f.count 1) && c.kind == 1 && f.symValue i % 4 == 0 &&
  decide (c.addr ≤ f.symValue i ∧ f.symValue i < c.addr + c.size)

def Image.symbolsOk (f : Image) : Bool :=
  decide (f.count 2 ≥ 1) && f.zero (f.entry 2 0) 24 &&
  (List.range (f.count 2 - 1)).all fun j =>
    let o := f.entry 2 (j + 1)
    let sect := f.u (o + 4) 2
    f.nameOk o && decide (f.u (o + 6) 1 ≤ 2) && decide (f.u (o + 7) 1 ≤ 3) &&
    (sect == 0xFFFF || decide (sect < f.count 1)) &&
    (f.u (o + 7) 1 != 1 || f.entryOk (j + 1))

def Image.pairsOk (f : Image) : Bool :=
  (List.range (f.count 5)).all fun i =>
    let o := f.entry 5 i
    let a := f.u (o + 4) 4
    let x := f.u (o + 8) 4
    f.nameOk o && decide (a < f.count 2) && decide (x < f.count 2) && f.symType a == 1 && f.symType x == 1 &&
    decide (f.u (o + 12) 1 < 128) && decide (f.u (o + 13) 1 ≤ 8) && f.zero (o + 14) 2

def Image.spawnsOk (f : Image) : Bool :=
  (List.range (f.count 6)).all fun i =>
    let o := f.entry 6 i
    let scp := f.u (o + 6) 1
    decide (f.u o 4 < f.count 5) && decide (f.u (o + 4) 2 < f.ncl) && decide (scp ≤ 3) &&
    (decide (scp > 1) || decide (f.u (o + 7) 1 < 8)) && (scp != 0 || decide (f.u (o + 8) 1 < 8)) &&
    (scp != 2 || decide (f.u (o + 9) 1 < 2)) && decide (f.u (o + 10) 1 ≤ 3) && f.zero (o + 11) 1 && f.nameOk (o + 28)

/-- Bindings: consumer, queue, producer. -/
def Image.bindings (f : Image) : List (Nat × Nat × Nat) :=
  (List.range (f.count 8)).map fun i =>
    let o := f.entry 8 i
    (f.u o 2, f.u (o + 2) 1, f.u (o + 4) 2)

def distinctPairs : List (Nat × Nat × Nat) → Bool
  | [] => true
  | p :: r => (r.all fun q => !(q.1 == p.1 && q.2.1 == p.2.1)) && distinctPairs r

def Image.bindingsOk (f : Image) : Bool :=
  ((List.range (f.count 8)).all fun i => f.zero (f.entry 8 i + 3) 1 && f.zero (f.entry 8 i + 6) 2) &&
  (f.bindings.all fun b => decide (b.1 < f.count 6) && decide (8 ≤ b.2.1 ∧ b.2.1 ≤ 15) && decide (b.2.2 < b.1)) &&
  distinctPairs f.bindings

/-- Step 1 of R101, but for the signature. -/
def Image.fileOk (f : Image) : Bool :=
  f.headerOk && f.dirOk && poolOk f.pool && f.sectionsOk && f.symbolsOk && f.pairsOk && f.spawnsOk && f.bindingsOk

/-- The signature of R100 under the keys and the policy of a partition (R381). No status of R101 is named for an unsigned
image that the policy does not accept, and none for a note whose ALG is invalid or whose reserved bytes are not zero: DESIGN
CHOICE, each is BADSIG (log 94). -/
def Image.signatureOk (f : Image) (p : Partition) : Bool :=
  if f.signed then
    let o := f.entry 9 0
    let key := BitVec.ofNat 256 (f.u (o + 8) 32)
    f.u o 2 == 1 && f.zero (o + 2) 6 && f.zero (o + 104) 24 && p.keys.contains key &&
    Config.verify key (sha256 (f.bytes.take o)) ((f.bytes.drop (o + 40)).take 64)
  else p.policy.getLsbD 0

/-! ### Frames and page tables (R329, R330, R332) -/

/-- Bytes taken from the top of a cluster's backed range, aligned, or none. Where frames lie is the model's (log 27); the spec
does not say that they keep clear of the caller's image, list or result buffer: DESIGN CHOICE (log 112), it is the caller that
keeps those out of their way. -/
def State.takeHbm (s : State) (c bytes align : Nat) : Option (Nat × State) :=
  let len := ownedLength (s.cluster c).retired.length
  let free := len - (s.cluster c).taken
  if bytes > free then none
  else
    let base := (free - bytes) / align * align
    let s := s.updCluster c fun cl => { cl with taken := len - base }
    let pa := clusterBase (c % 128) + base
    some (pa, s.zeroRange (physKey (c / 128) pa) bytes)

/-- Device of a TLB. -/
def Tlb.device (e : Tlb) : Nat := if e.level = 0 then e.unit / 1024 else if e.level = 1 then e.unit / 128 else e.unit / 4

/-- Leaves of a page that a TLB still holds from before the page was mapped are gone, so that a child reads through the new
one (R101). -/
def State.forgetPage (s : State) (d va : Nat) : State :=
  let stale (e : Tlb) : Bool := e.device == d && (if e.big then e.vpage == va / 2 ^ 29 else e.vpage == va / 2 ^ 16)
  { s with tlb := s.tlb.filter fun e => !stale e }

/-- The 8 bytes of a table entry written. -/
def State.setEntry (s : State) (d pa : Nat) (w : Word) (part : Nat) : State := s.physWrite d pa (leBytes 8 w.toNat) part 0 0

/-- A pointer entry (R330). -/
def pointerWord (pa : Nat) : Word := wordOf (pa / 0x10000 * 2 ^ 18 + 1)

/-- The table that an entry points at, made when the entry is not valid; none where a leaf or no space is in the way. -/
def State.nextTable (s : State) (c pa part : Nat) : Option (Nat × State) :=
  let d := c / 128
  let w := s.walkRead d pa
  if pointerOk w then some (leafFrame w * 2 ^ 16, s)
  else if leafV w then none
  else match s.takeHbm c 0x10000 0x10000 with
    | none => none
    | some (t, s) => some (t, s.setEntry d pa (pointerWord t) part)

/-- One page mapped under a root, its tables in cluster c's range; none when the place is taken. R101 speaks of space in owned
HBM and in a GLOBAL range: DESIGN CHOICE (log 112), an OWN page whose place a cluster's own-view table has mapped already is
NOSPACE too. -/
def State.mapPage (s : State) (c root va : Nat) (leaf : Word) (part : Nat) : Option State :=
  match s.nextTable c (root + 8 * (va / 2 ^ 42 % 2 ^ 12)) part with
  | none => none
  | some (t2, s) =>
    match s.nextTable c (t2 + 8 * (va / 2 ^ 29 % 2 ^ 13)) part with
    | none => none
    | some (t3, s) =>
      let p := t3 + 8 * (va / 2 ^ 16 % 2 ^ 13)
      if leafV (s.walkRead (c / 128) p) then none else some ((s.setEntry (c / 128) p leaf part).forgetPage (c / 128) va)

/-- A leaf entry of the third level (R330). -/
def leafWord (part owner pa kind : Nat) (nodup w rd : Bool) : Word :=
  wordOf (part * 2 ^ 58 + owner * 2 ^ 50 + pa / 0x10000 * 2 ^ 18 + kind * 2 ^ 15 + (if nodup then 2 ^ 14 else 0) +
    (if w then 2 ^ 13 else 0) + (if rd then 2 ^ 12 else 0) + 3)

/-- n pages mapped from an address on. -/
def State.mapPages (s : State) (c root va : Nat) (leaf : Nat → Word) (part : Nat) : Nat → Option State
  | 0 => some s
  | n + 1 =>
    match s.mapPages c root va leaf part n with
    | none => none
    | some s => s.mapPage c root (va + n * 0x10000) (leaf n) part

/-- The root of the context's tables, of a cluster's own-view tables; made where the register is 0. -/
def State.rootOf (s : State) (c : Nat) (own : Bool) : Option (Nat × State) :=
  let r := if own then (s.cluster c).ownroot else (s.cluster c).ptroot
  if r ≠ 0 then some (r.toNat, s)
  else (s.takeHbm c 0x10000 0x10000).map fun p =>
    (p.1, p.2.updCluster c fun cl => if own then { cl with ownroot := wordOf p.1 } else { cl with ptroot := wordOf p.1 })

/-! ### Placing sections (step 3 of R101) -/

/-- What a load knows: the cluster of the supervisor thread for which it runs, its load set, its partition, context. -/
structure LoadCtx where
  sup  : Nat
  set  : List Nat
  part : Nat
  ctx  : Nat

def Image.sectionBytes (f : Image) (c : Section) : List Byte := (f.bytes.drop c.fofs).take c.fsize

/-- Bytes that the frames of a section take: the pages of a reduction-slot section are backed by 64 MiB each (R277). -/
def Section.backing (c : Section) : Nat := if c.pkind = 4 then c.stride * 1024 else c.stride
def Section.frameStep (c : Section) : Nat := if c.pkind = 4 then 0x4000000 else 0x10000

/-- Bytes of a section written at its frames: through the home slices for RC and UN pages, in memory itself for SO and AT
pages, of which no slice holds a line (R309). -/
def State.putPaged (s : State) (d pa : Nat) (bytes : List Byte) (kind part dom ctx : Nat) : State :=
  if kind = 4 then s
  else if kind = 1 ∨ kind = 3 then s.memUpdate (physKey d pa) bytes.length fun m => memWrite m (physKey d pa) bytes
  else s.physWrite d pa bytes part dom ctx

/-- One copy of a paged section in cluster c's range, mapped under a root. -/
def State.placePaged (s : State) (f : Image) (l : LoadCtx) (sec : Section) (c : Nat) : Option (Nat × State) :=
  match s.takeHbm c sec.backing sec.frameStep with
  | none => none
  | some (pa, s) =>
    let dom := if sec.nodup then 4 else 0
    some (pa, s.putPaged (c / 128) pa (f.sectionBytes sec) sec.pkind l.part dom l.ctx)

/-- A section placed and mapped. The spec does not say in which cluster's owned HBM a code or data section lies: DESIGN CHOICE
(log 112), the first of the load set. -/
def State.placeSection (s : State) (f : Image) (l : LoadCtx) (sec : Section) : Option State :=
  let pages := sec.stride / 0x10000
  let leaf (c pa : Nat) (w : Bool) (i : Nat) : Word :=
    leafWord l.part (if sec.pkind ≥ 3 then 0xFF else c % 128) (pa + i * sec.frameStep) sec.pkind sec.nodup w true
  if sec.kind ≤ 2 then
    let c := l.set.headD 0
    match s.placePaged f l sec c with
    | none => none
    | some (pa, s) => (s.rootOf l.sup false).bind fun r => r.2.mapPages l.sup r.1 (sec.addr % 2 ^ 54) (leaf c pa false) l.part pages
  else if sec.kind ≤ 4 then
    (l.set.zipIdx).foldl (fun (a : Option State) (p : Nat × Nat) => a.bind fun s =>
      match s.placePaged f l sec p.1 with
      | none => none
      | some (pa, s) =>
        (s.rootOf p.1 true).bind fun r =>
          (r.2.mapPages p.1 r.1 (sec.addr % 2 ^ 54) (leaf p.1 pa true) l.part pages).bind fun s =>
            (s.rootOf l.sup false).bind fun q =>
              q.2.mapPages l.sup q.1 ((sec.galias + p.2 * sec.stride) % 2 ^ 54) (leaf p.1 pa false) l.part pages) (some s)
  else some s

/-- Copies of SRAM lines of a range in the cores' L1s, written back first, are gone: what the load's release covers is what
a child reads (R101). -/
def State.recallRange (s : State) (key n : Nat) : State :=
  ((s.l1.filter fun l => lineMeets l.line key n).foldl (fun s l => s.writeBackL1 l) s).forgetRange key n

/-- Bytes laid into a range of SRAM, zero above them, with every FE bit of the words of the range full or empty, and the
waiters of those words tried again (R87, R88, R246). The spec does not say what an 8-byte word holds that a section with
EMPTY and one without it share: DESIGN CHOICE, the section placed later decides (log 92). -/
def State.placeSram (s : State) (key : Nat) (bytes : List Byte) (size : Nat) (empty : Bool) : State :=
  let s := s.recallRange key size
  let within (k : Nat) : Bool := size != 0 && decide (key ≤ k / 8 * 8 + 7) && decide (k / 8 * 8 < key + size)
  let s := { s with mem := memPut s.mem key size (cellsOf key bytes), poison := s.poison.filter fun k => !within k
                    feEmpty := s.feEmpty.filter fun k => !within k }
  let s := s.watchRange key size
  if size = 0 then s
  else if empty then
    (List.range ((key % 8 + size + 7) / 8)).foldl (fun s i => (s.setEmpty (key + 8 * i)).served (key + 8 * i) 8) s
  else s.served key size

/-- The copies of a section of kind 5 to 8 in a cluster, those of cores in its in-service cores (R87). -/
def State.placeLocal (s : State) (f : Image) (sec : Section) (c : Nat) : State :=
  let b := f.sectionBytes sec
  let cores := (List.range 8).filter fun k => !s.coreOut (c * 8 + k)
  if sec.kind = 5 then
    cores.foldl (fun s k => s.placeSram (sramKey c k (sec.addr - 0x100000)) b sec.size sec.empty) s
  else if sec.kind = 6 then s.placeSram (sramKey c 8 (sec.addr - 0x200000)) b sec.size sec.empty
  else if sec.kind = 7 then s.placeSram (sramKey c 9 (sec.addr - 0x400000)) b sec.size sec.empty
  else if sec.kind = 8 then
    cores.foldl (fun s k => (List.range 64).foldl (fun s lane =>
      s.placeSram (sramKey c (16 + k) (lane * 1024 + sec.addr)) b sec.size false) s) s
  else s

/-- A cluster whose SRAM belongs to another context is scrubbed before the loader writes it (R344). -/
def State.scrubFor (s : State) (c ctx : Nat) : State :=
  let s := if (s.cluster c).sramCtx ≠ none ∧ (s.cluster c).sramCtx ≠ some ctx then s.scrub c else s
  s.updCluster c fun cl => { cl with sramCtx := some ctx }

/-- Step 3: every section, then the copies in SRAM; none when there is no space. R344 names the load of a context and the
first placement: DESIGN CHOICE (log 91), the loader scrubs a cluster whose SRAM belongs to another context when it has
sections of kind 5 to 8 to write there, and with region templates alone leaves the scrub, which clears them, to the first
placement. -/
def State.placeSections (s : State) (f : Image) (l : LoadCtx) : Option State :=
  (f.sections.foldl (fun (a : Option State) sec => a.bind fun s => s.placeSection f l sec) (some s)).map fun s =>
    let local_ := f.sections.filter fun c => decide (c.kind ≥ 5)
    if local_.isEmpty then s
    else l.set.foldl (fun s c => local_.foldl (fun s sec => s.placeLocal f sec c) (s.scrubFor c l.ctx)) s

/-- A target of a section of kind 5 to 8 holds a thread of the context (status BUSY). -/
def State.loadBusy (s : State) (f : Image) (l : LoadCtx) : Bool :=
  (f.sections.any fun c => decide (c.kind ≥ 5)) && l.set.any fun c => (s.userThreads c).any fun p => p.2.ctx == l.ctx

/-! ### Region templates (R99) -/

/-- The record that a template gives to load-set index i, in the words of R302. -/
def Image.regionWords (f : Image) (n i : Nat) : List Word :=
  let o := f.entry 7 n
  let src := f.symValue (f.u (o + 12) 4) + f.u (o + 16) 8 + i * f.u (o + 36) 8
  [wordOf (f.u o 8), wordOf (f.u (o + 8) 4 + f.u (o + 24) 4 * 2 ^ 32), wordOf src, wordOf (f.u (o + 28) 8), 0, 0, 0, 0]

/-- One template in one cluster; none for BADREGION. DESIGN CHOICES (log 91): R99 names no status for a template that
overlaps an occupied entry (`rgset`'s OVERLAP), nor for an SSYM outside the symbol table, a TCOR out of range or bytes 47:45
that are not zero: each is BADREGION here; and the thread whose `%syncretry` such a region uses, R305's thread of the `rgset`,
is that of slot 0 of core TCOR, and the limit 64 where the slot is free. -/
def State.placeRegion (s : State) (f : Image) (l : LoadCtx) (n i c : Nat) : Option State :=
  let o := f.entry 7 n
  let tcor := f.u (o + 44) 1
  match regionRecord (f.regionWords n i) with
  | none => none
  | some (win, va, len, rowb, src, sstr, _) =>
    if !f.zero (o + 45) 3 || decide (f.u (o + 12) 4 ≥ f.count 2) || windowOf src.toNat != some .global ||
        (if win = .core then decide (tcor ≥ 8) else tcor != 0) then none
    else
      let t := (c * 8 + tcor) * 8
      let key := localKey t win 0 va
      if s.regionOverlap c key len then none
      else match (List.range 64).find? fun m => (s.region c m).state == .free with
        | none => none
        | some m =>
          let r : Region := { gen := (s.region c m).gen + 1, state := .absent, win := key, len := len, rowb := rowb
                              src := src, sstr := sstr, ctr := none, rows := 0, fault := none, core := t / 8, t := t
                              ctx := l.ctx, touched := [], refusals := 0, after := 0, pages := [], net := .idle }
          some ((List.range (len / 8)).foldl (fun s j => (s.setEmpty (key + 8 * j)).served (key + 8 * j) 8) (s.setRegion c m r))

def State.placeRegions (s : State) (f : Image) (l : LoadCtx) : Option State :=
  (l.set.zipIdx).foldl (fun (a : Option State) (p : Nat × Nat) =>
    (List.range (f.count 7)).foldl (fun (a : Option State) n => a.bind fun s => s.placeRegion f l n p.2 p.1) a) (some s)

/-! ### Spawns (R98) -/

/-- The spawn record of entry n, with its bindings by producer. -/
def Image.spawnOf (f : Image) (l : LoadCtx) (n : Nat) : SpawnRec × List (Nat × Nat) :=
  let o := f.entry 6 n
  let p := f.entry 5 (f.u o 4)
  let bs := (f.bindings.filter fun b => b.1 == n).map fun b => (b.2.1 - 8, b.2.2)
  let chb := bs.foldl (fun (a : BitVec 8) b => a ||| (1#8 <<< b.1)) 0
  ({ aPc := wordOf (f.symValue (f.u (p + 4) 4)), xPc := wordOf (f.symValue (f.u (p + 8) 4)), a1 := wordOf (f.u (o + 12) 8)
     a2 := wordOf (f.u (o + 20) 8), chb := chb, cdir := BitVec.ofNat 7 (f.u (p + 12) 1), ntl := f.u (p + 13) 1
     pri := f.u (o + 10) 1, scp := f.u (o + 6) 1, pcl := ((l.set[f.u (o + 4) 2]?).getD 0) % 128, cor := f.u (o + 7) 1 % 8
     slt := f.u (o + 8) 1 % 8, qd := f.u (o + 9) 1 % 2, bind := List.replicate 8 0 }, bs)

/-- The supervisor thread of a die (R98). -/
def State.supOf (s : State) (die : Nat) : Option Nat :=
  (s.threads.find? fun p => p.2.isSup && dieOf p.1 == die).map (·.1)

/-- The mailbox's answer: status in word 0, results from word 1, DOORBELL zero (R391). -/
def State.answer (s : State) (d status : Nat) (ws : List Word) : State :=
  s.updDevice d fun dv => { dv with response := ((wordOf status :: ws) ++ List.replicate 8 0).take 8, doorbell := false }

/-- The load ends with a loader status (R101, R392). -/
def State.endLoad (s : State) (d status placed : Nat) : State :=
  (s.answer d 0 [wordOf status, wordOf placed]).updDevice d fun dv => { dv with loading := none }

/-- The next spawn of a load in progress: one whose status would be FULL is reissued later; BADREC, OTHERCTX and a
fenced target end the load (R98). A die without a supervisor thread has no parent for its children: DESIGN CHOICE, the load
ends with BADSPAWN (log 93). -/
def State.issueSpawn (s : State) (d : Nat) (l : Loading) (r : SpawnRec) (bs : List (Nat × Nat)) : State :=
  let c := d * 128 + r.pcl
  let cl := s.cluster c
  let n := l.total - l.recs.length
  let bind := (List.range 8).map fun q => ((bs.find? fun b => b.1 == q).map fun b => (l.names[b.2]?).getD 0).getD 0
  if cl.service != .inService || s.targetOut c r || r.aPc.extractLsb' 0 2 != 0 || r.xPc.extractLsb' 0 2 != 0 || s.otherCtx c l.ctx then
    s.endLoad d 8 l.names.length
  else match s.supOf (c / 32) with
    | none => s.endLoad d 8 l.names.length
    | some t =>
      if cl.spawnQ.length ≥ 64 then s
      else
        let q : QueuedSpawn :=
          ⟨s.nextId, { r with bind := bind }, t, none, l.ctx, l.part, s.cycleOf d, 0, some (physKey d (l.result + 8 * n))⟩
        let s := { s with nextId := s.nextId + 1 }
        (s.updCluster c fun cl =>
          { cl with spawnQ := cl.spawnQ ++ [q], claim := if cl.run == .empty then some l.ctx else cl.claim }).updDevice d
          fun dv => { dv with loading := some { l with wait := some (c, q.id) } }

/-- A load in progress goes on: it waits for the record issued last, issues the next one, or is complete. A record that has
left the queue unplaced, as its cluster was fenced or torn down, ends it (R98). -/
def State.continueLoad (s : State) (d : Nat) (l : Loading) : State :=
  match l.wait with
  | some (c, id) =>
    if (s.cluster c).spawnQ.any fun q => q.id == id then s else s.endLoad d 8 l.names.length
  | none =>
    match l.recs with
    | [] => s.endLoad d 0 l.names.length
    | (r, bs) :: _ => s.issueSpawn d l r bs

/-! ### LOAD (R101, R392) -/

/-- Words of the mailbox's request. -/
def Device.req (dv : Device) (i : Nat) : Word := (dv.request[i]?).getD 0
def Device.reqPart (dv : Device) : Nat := ((dv.req 0).extractLsb' 8 6).toNat

/-- Clusters of a partition. -/
def Partition.clusters (p : Partition) : List Nat :=
  ((List.range 4).filter fun i => p.dies.getLsbD i).flatMap fun i => (List.range 32).map (p.device * 128 + i * 32 + ·)

/-- A range of physical memory lies in the partition's HBM. -/
def Partition.covers (p : Partition) (pa n : Nat) : Bool :=
  decide (pa + n ≤ hbmEnd) && (n == 0 || (p.dies.getLsbD (pa / 0x2400000000) && p.dies.getLsbD ((pa + n - 1) / 0x2400000000)))

/-- Steps 1 to 5 of R101: the status, or the state with a load in progress. The context is that of the supervisor thread of
the die of the first cluster of the load set, or of that cluster on a die without one (log 93). No numbered step separates
BUSY from NOSPACE: DESIGN CHOICE, BUSY is tested first (log 95). Nor does the spec forbid a load set that names one cluster
twice: DESIGN CHOICE (log 112), each entry is served in turn. A load that ends in any status leaves zero in the result buffer
for each entry that was not placed (R392). -/
def State.startLoad (s : State) (d : Nat) (p : Partition) (f : Image) (set : List Nat) (result : Nat) : State :=
  let part := (s.device d).reqPart
  let clusters := p.clusters
  let c0 := set.headD (d * 128)
  let sup := ((s.supOf (c0 / 32)).map clusterOf).getD c0
  let ctx := s.ctxOf sup
  let l : LoadCtx := ⟨sup, set, part, ctx⟩
  let out (c : Nat) : Bool :=
    !clusters.contains c || (s.cluster c).service != .inService || s.otherCtx c ctx
  let n := f.count 6
  let s := s.physWrite d result (List.replicate (8 * n) 0) part 0 ctx
  if !f.fileOk then s.endLoad d 1 0
  else if !f.signatureOk p then s.endLoad d 2 0
  else if f.vlreq ≠ 0 ∧ f.vlreq ≠ 2048 then s.endLoad d 3 0
  else if f.ncl ≠ set.length ∨ set.any out then s.endLoad d 4 0
  else if s.loadBusy f l then s.endLoad d 6 0
  else match s.placeSections f l with
    | none => s.endLoad d 5 0
    | some s' =>
      match s'.placeRegions f l with
      | none => s'.endLoad d 7 0
      | some s' =>
        let root := s'.cluster l.sup
        let share (s : State) (c : Nat) : State := s.updCluster c fun cl =>
          { cl with ptroot := root.ptroot, ctxReg := root.ctxReg, watchdog := root.watchdog }
        let s' := (set.filter fun c => (s'.userThreads c).isEmpty && c != l.sup).foldl share s'
        s'.updDevice d fun dv =>
          { dv with loading := some ⟨part, ctx, (List.range n).map (f.spawnOf l), n, [], none, result⟩ }

/-- LOAD (R101, R392): begins a load, or goes on with it. The result buffer's length is that of the image's own spawn table, so
that it is looked at before the image is checked: DESIGN CHOICE (log 112), one that leaves the partition's HBM is BADARG
whatever the image. -/
def execLoadImage (s : State) : Host.Outcome State Fault Refusal :=
  let d := s.actor
  let dv := s.device d
  .next (match dv.loading with
    | some l => s.continueLoad d l
    | none =>
      if dv.doorbell ∧ (dv.req 0).extractLsb' 0 8 = 0x10 then
        match tget s.partitions dv.reqPart with
        | none => s.answer d 1 []
        | some p =>
          let n := (dv.req 4).toNat
          let pa := (dv.req 1).toNat
          let len := (dv.req 2).toNat
          if p.device ≠ d ∨ n = 0 ∨ n > 128 ∨ !p.covers pa len ∨ !p.covers (dv.req 3).toNat n ∨
              !p.covers (dv.req 5).toNat 8 then s.answer d 1 []
          else
            let f : Image := ⟨s.physRead d pa len⟩
            let set := (s.physRead d (dv.req 3).toNat n).map fun b => d * 128 + b.toNat
            if !p.covers (dv.req 5).toNat (8 * f.count 6) then s.answer d 1 []
            else s.startLoad d p f set (dv.req 5).toNat
      else s)

end Sys2Proof.Machine
end

