-- ==== Sys2Proof/Machine/Manage.lean ====
section
/-! DEFINITION. Host attachment, the management range, partitions, live service, bring-up, power (R374 to R381, R383 to
R396). Mailbox commands read their arguments from the request of the mailbox and act while DOORBELL is 1. -/

namespace Sys2Proof.Machine

/-! ### Partitions of a device -/

/-- TDISP states in which a partition's dies, lent clusters, policy and keys may not change (R380). -/
def Partition.locked (p : Partition) : Bool := p.tdisp == .locked || p.tdisp == .run

/-- The partition of a device that holds a die. -/
def State.diePartition (s : State) (die : Nat) : Option (Nat × Partition) :=
  s.partitions.find? fun p => p.2.device == die / 4 && p.2.dies.getLsbD (die % 4)

/-- Threads run only in RUN (R380); a die of no partition has no TDI. -/
def State.mayRun (s : State) (t : Nat) : Bool :=
  match s.diePartition (dieOf t) with
  | some p => p.2.tdisp == .run
  | none => true

/-- A context that is torn down on a cluster: halted as by `preempt`, dropped as by `ctxsave.drop` (R380, R383). -/
def State.tearCluster (s : State) (c : Nat) : State :=
  let s := if (s.cluster c).run = .running then s.haltCluster c else s
  let s := s.updCluster c fun cl => { cl with spawnQ := [], claim := none }
  if (s.userThreads c).isEmpty then s else s.dropLive c

/-- Every context of a partition is torn down, those in save areas too. -/
def State.tearPartition (s : State) (p : Partition) : State :=
  let cs := p.clusters
  let gone := s.saved.filter fun v => cs.contains v.cluster
  let s := cs.foldl (fun s c => s.tearCluster c) s
  let s := gone.foldl (fun (s : State) (v : Saved) => s.dropContext v.cluster v.ctx) s
  { s with saved := s.saved.filter fun v => !cs.contains v.cluster }

/-- The partition's HBM reads as memory that nothing has written, with no copy anywhere (R383). -/
def State.zeroPartition (s : State) (p : Partition) : State :=
  ((List.range 4).filter fun i => p.dies.getLsbD i).foldl
    (fun s i => s.zeroRange (physKey p.device (i * 0x2400000000)) 0x2400000000) s

/-- Every rind entry of partition n is invalid (R383). -/
def State.invalidPartition (s : State) (n : Nat) : State :=
  (s.rind.filter fun r => r.part == n).foldl (fun s r => s.invalidRind r.slice r.line) s

/-- The SRAM of every cluster of a partition scrubbed (R344). -/
def State.scrubPartition (s : State) (p : Partition) : State :=
  p.clusters.foldl (fun s c => (s.scrub c).updCluster c fun cl => { cl with sramCtx := none }) s

/-! ### The mailbox (R391, R392) -/

/-- The command that the doorbell started. -/
def State.commanded (s : State) (d code : Nat) : Bool :=
  let dv := s.device d
  dv.doorbell && ((dv.req 0).extractLsb' 0 8).toNat == code && dv.loading.isNone

def State.command (s : State) (d code : Nat) (f : State → State) : Host.Outcome State Fault Refusal :=
  .next (if s.commanded d code then f s else s)

/-- The partition that a command names, when it is one of the device. -/
def State.reqPartition (s : State) (d : Nat) : Option Partition :=
  (tget s.partitions (s.device d).reqPart).filter fun p => p.device == d

/-- The cluster that a command names in word 1, when it lies in the command's partition. -/
def State.reqCluster (s : State) (d : Nat) : Option Nat :=
  let w := (s.device d).req 1
  match s.reqPartition d with
  | some p => if w.toNat < 128 ∧ p.clusters.contains (d * 128 + w.toNat) then some (d * 128 + w.toNat) else none
  | none => none

/-- Die sets of a partition (R380). -/
def dieSets : List Nat := [1, 2, 4, 8, 3, 12, 15]

/-- PARTCREATE (R375, R380, R381, R383): checks, then the record with new keys, and its clusters. -/
def State.partcreate (s : State) (d : Nat) : State :=
  let dv := s.device d
  let n := dv.reqPart
  let mask := (dv.req 1).toNat
  let lent : BitVec 128 := dv.req 4 ++ dv.req 3
  if dv.stage ≠ 8 then s.answer d 3 []
  else match tget s.partitions n with
    | some p => s.answer d (if p.locked then 2 else 1) []
    | none =>
      let p : Partition := { device := d, dies := BitVec.ofNat 4 mask, policy := dv.req 2, keys := (Config.partKeys n).take 4, lent := lent
                             tdisp := .unlocked, keyGen := s.nextId }
      let taken := s.partitions.any fun q => q.2.device == d && (q.2.dies &&& p.dies) != 0
      let outside := (List.range 128).any fun c => lent.getLsbD c && !p.clusters.contains (d * 128 + c)
      let lentC := (List.range 128).filter fun c => lent.getLsbD c
      if !dieSets.contains mask || taken || outside || lentC.any fun c => (s.cluster (d * 128 + c)).service != .inService then
        s.answer d 1 []
      else if lentC.any fun c => s.threads.any fun t => clusterOf t.1 == d * 128 + c then s.answer d 4 []
      else
        let s := { s with partitions := tset s.partitions n p, nextId := s.nextId + 1 }
        let set (s : State) (c : Nat) : State := s.updCluster c fun cl =>
          { cl with part := BitVec.ofNat 6 n, service := if lent.getLsbD (c % 128) then .lent else cl.service }
        (p.clusters.foldl set s).answer d 0 []

/-- PARTCREATE. -/
def execPartcreate (s : State) : Host.Outcome State Fault Refusal :=
  let d := s.actor
  s.command d 0x01 fun s => s.partcreate d

/-- A partition still holds a thread of a context, or a context in a save area. -/
def State.inUse (s : State) (p : Partition) : Bool :=
  p.clusters.any fun c => !(s.userThreads c).isEmpty || s.saved.any fun v => v.cluster == c

/-- PARTDESTROY (R344, R380, R383): its clusters are scrubbed, what its keys protected is gone, page tables included, its
clusters belong to no partition. -/
def State.partdestroy (s : State) (d : Nat) : State :=
  match s.reqPartition d with
  | none => s.answer d 1 []
  | some p =>
    if p.locked then s.answer d 2 []
    else if s.inUse p then s.answer d 4 []
    else
      let n := (s.device d).reqPart
      let s := ((s.invalidPartition n).zeroPartition p).scrubPartition p
      let back (s : State) (c : Nat) : State := s.updCluster c fun cl =>
        { cl with part := 0, service := if cl.service = .lent then .inService else cl.service, spawnQ := [], claim := none
                  taken := 0, ptroot := 0, ownroot := 0 }
      (p.clusters.foldl back { s with partitions := tdel s.partitions n }).answer d 0 []

/-- PARTDESTROY. -/
def execPartdestroy (s : State) : Host.Outcome State Fault Refusal :=
  let d := s.actor
  s.command d 0x02 fun s => s.partdestroy d

/-- REKEY (R383): contexts torn down, rind entries invalidated, HBM zeroed, the three keys replaced; clusters scrubbed
(R344). -/
def State.rekey (s : State) (d : Nat) : State :=
  match s.reqPartition d with
  | none => s.answer d 1 []
  | some p =>
    if p.locked then s.answer d 2 []
    else
      let n := (s.device d).reqPart
      let s := (((s.tearPartition p).invalidPartition n).zeroPartition p).scrubPartition p
      ({ s with partitions := tset s.partitions n { p with keyGen := s.nextId }, nextId := s.nextId + 1 }).answer d 0 []

/-- REKEY. -/
def execRekey (s : State) : Host.Outcome State Fault Refusal :=
  let d := s.actor
  s.command d 0x03 fun s => s.rekey d

/-! ### Live service (R385 to R388) -/

/-- A `ctxsave` of the cluster waits. -/
def State.savingNow (s : State) (c : Nat) : Bool :=
  s.threads.any fun p => p.2.a.status == .waiting (.saving c) || p.2.x.status == .waiting (.saving c)

def State.setService (s : State) (c : Nat) (v : Service) : State := s.updCluster c fun cl => { cl with service := v }

/-- DRAIN (R386): the cluster's context is halted and saved to the area named, then the cluster is OFFLINE. While its
operations settle the command goes on; a save that `ctxsave` refuses leaves the cluster in service. -/
def State.drainCluster (s : State) (d : Nat) : State :=
  match s.reqCluster d with
  | none => s.answer d 1 []
  | some c =>
    let w := (s.device d).req 2
    if (s.cluster c).service ≠ .inService then s.answer d 4 []
    else if ctlAreaBad w then s.answer d 1 []
    else if (s.userThreads c).isEmpty then (s.setService c .offline).answer d 0 [0]
    else
      let s := if (s.cluster c).run = .running then s.haltCluster c else s
      if s.savingNow c then s.answer d 0 [3]
      else if !s.areaInside c (ctlArea w) (areaBytes + 2 ^ (16 + ctlLogn w)) then s.answer d 0 [2]
      else if (s.saved.filter fun sv => sv.cluster == c).length ≥ 4 then s.answer d 0 [4]
      else if s.unsettled c (s.ctxOf c) then s
      else ((s.saveArea c (ctlArea w) (ctlLogn w) (ctlMem w)).setService c .offline).answer d 0 [0]

/-- DRAIN. -/
def execDrain (s : State) : Host.Outcome State Fault Refusal :=
  let d := s.actor
  s.command d 0x20 fun s => s.drainCluster d

/-- ONLINE (R386): an OFFLINE cluster returns IN_SERVICE and EMPTY. -/
def execOnline (s : State) : Host.Outcome State Fault Refusal :=
  let d := s.actor
  s.command d 0x21 fun s =>
    match s.reqCluster d with
    | none => s.answer d 1 []
    | some c =>
      if (s.cluster c).service = .offline then
        (s.updCluster c fun cl => { cl with service := .inService, run := .empty }).answer d 0 []
      else s.answer d 1 []

/-- A cluster reset: SRAM clear with every FE bit full, nothing on it, OFFLINE, owned HBM unchanged (R385). Stores that its L1s
hold reach their homes first. -/
def State.resetCluster (s : State) (c : Nat) : State :=
  let s := ((s.l1.filter fun l => l.core / 8 == c).foldl (fun s l => s.writeBackL1 l) s).scrub c
  let cl := s.cluster c
  let s : State := { s with
                    threads := s.threads.filter (fun p => clusterOf p.1 != c)
                    cores := s.cores.filter (fun p => p.1 / 8 != c)
                    l1 := s.l1.filter (fun l => l.core / 8 != c), il1 := s.il1.filter (fun l => l.core / 8 != c)
                    watches := s.watches.filter (fun p => sliceCluster (p.1 / 256) != some c)
                    waiters := s.waiters.filter (fun w => sramCluster w.key != c && clusterOf w.t != c)
                    saved := s.saved.map (fun sv => { sv with waiters := sv.waiters.filter fun w => clusterOf w.t != c })
                    tickets := s.tickets.map (fun (p : Nat × Ticket) =>
                      (p.1, { p.2 with redeems := p.2.redeems.filter fun (q : Nat × Side) => clusterOf q.1 != c }))
                    stores := s.stores.filter (fun w => clusterOf w.t != c) }
  let s := cl.arrivals.foldl (fun s a => s.replyCinc c a .refused) s
  let s := s.dropPackets fun p => match p.cargo with
    | .reply t .. | .result t .. => clusterOf t == c
    | _ => false
  s.setCluster c { Cluster.zero with part := cl.part, retired := cl.retired, sramErr := cl.sramErr, taken := cl.taken
                                     coresOut := cl.coresOut, service := .offline }

/-- RESET (R385, R392): of a fenced cluster, or of one that holds no thread of a context. It ends the lending of a lent cluster,
which LOCKED refuses (R380). -/
def execResetCluster (s : State) : Host.Outcome State Fault Refusal :=
  let d := s.actor
  s.command d 0x22 fun s =>
    match s.reqCluster d with
    | none => s.answer d 1 []
    | some c =>
      let n := (s.device d).reqPart
      let lent := (s.reqPartition d).any fun p => p.lent.getLsbD (c % 128)
      if lent && (s.reqPartition d).any Partition.locked then s.answer d 2 []
      else if s.fencedCluster c || (s.userThreads c).isEmpty then
        let s := s.resetCluster c
        let back (p : Partition) : Partition := { p with lent := p.lent &&& ~~~(1#128 <<< (c % 128)) }
        ({ s with partitions := s.partitions.map fun p => if p.1 = n ∧ lent then (p.1, back p.2) else p } : State).answer d 0 []
      else s.answer d 4 []

/-- CHRETIRE (R20, R387): the management unit rewrites the interleave table in its shadow copy with a table fence, from whose
completion on the channel is retired (R361). -/
def State.chretire (s : State) (d : Nat) : State :=
  match s.reqCluster d with
  | none => s.answer d 1 []
  | some c =>
    let n := ((s.device d).req 2).toNat
    let cl := s.cluster c
    if cl.service ≠ .offline ∨ n ≥ 192 ∨ n / 6 ≠ c % 32 ∨ cl.retired.contains (n % 6) = true then s.answer d 1 []
    else if (s.device d).fenceBusy then s.answer d 3 []
    else
      ((s.updDevice d fun dv => { dv with retiring := some (c, n % 6) }).startFence d
        (((s.device d).tableGen + 1).setWidth 64)).answer d 0 []

/-- CHRETIRE. -/
def execChretire (s : State) : Host.Outcome State Fault Refusal :=
  let d := s.actor
  s.command d 0x23 fun s => s.chretire d

/-- A window of a pseudo-channel is open: it began no more than 2 µs ago and has not ended (R388). -/
def Retrain.isOpen (r : Retrain) (dv : Device) : Bool := r.open_ && decide (dv.elapsed < r.since + 2000 * timeScale)

/-- 100 µs from the start of a window to that of the next (R388). -/
def Retrain.ready (r : Retrain) (dv : Device) : Bool := decide (r.since + 100000 * timeScale ≤ dv.elapsed)

/-- RETRAIN (R388): a window opens on the pseudo-channel, or the port goes DOWN and trains. -/
def State.retrain (s : State) (d : Nat) : State :=
  let dv := s.device d
  let n := (dv.req 2).toNat
  if dv.req 1 = 0 ∧ n < 768 then
    (match tget dv.retrain n with
    | some r =>
      if r.isOpen dv || !r.ready dv then s.answer d 3 []
      else (s.setDevice d { dv with retrain := tset dv.retrain n ⟨true, dv.elapsed⟩ }).answer d 0 []
    | none => (s.setDevice d { dv with retrain := tset dv.retrain n ⟨true, dv.elapsed⟩ }).answer d 0 [])
  else if dv.req 1 = 1 ∧ n < 36 then
    ((s.setPort d n { s.port d n with mode := 4, training := true }).noteBounds).answer d 0 []
  else s.answer d 1 []

/-- RETRAIN. -/
def execRetrain (s : State) : Host.Outcome State Fault Refusal :=
  let d := s.actor
  s.command d 0x24 fun s => s.retrain d

/-- A window of pseudo-channel `ch` of a die opens or closes. -/
def State.setWindow (s : State) (die ch : Nat) (r : Retrain) : State :=
  s.updDevice (die / 4) fun d => { d with retrain := tset d.retrain (die % 4 * 192 + ch) r }

/-- RETRAIN_WINDOW_END (R388): a window ends, before its 2 µs are over or by their end. -/
def execRetrainWindowEnd (die ch : Nat) (s : State) : Host.Outcome State Fault Refusal :=
  .next (match tget (s.device (die / 4)).retrain (die % 4 * 192 + ch) with
    | some r => if r.open_ then s.setWindow die ch ⟨false, r.since⟩ else s
    | none => s)

/-- RETRAIN_WINDOW_START (R388): a further window, no sooner than 100 µs after the last. -/
def execRetrainWindowStart (die ch : Nat) (s : State) : Host.Outcome State Fault Refusal :=
  .next (match tget (s.device (die / 4)).retrain (die % 4 * 192 + ch) with
    | some r =>
      let dv := s.device (die / 4)
      if !r.isOpen dv && r.ready dv then s.setWindow die ch ⟨true, dv.elapsed⟩ else s
    | none => s)

/-! ### Firmware (R389, R390, R396) -/

/-- Block numbers of R390. -/
def blockOk (b : Nat) : Bool := b < 2 || (0x10 ≤ b && b < 0x34) || (0x40 ≤ b && b < 0x44) || (0x100 ≤ b && b < 0x400)

def State.fwBlock (s : State) (d b : Nat) : Firmware :=
  (tget (s.device d).firmware b).getD ⟨Config.fwVersion b, Config.fwVersion b, Config.blockDigest b (Config.fwVersion b), none⟩

def State.setFwBlock (s : State) (d b : Nat) (v : Firmware) : State :=
  s.updDevice d fun dv => { dv with firmware := tset dv.firmware b v }

/-- An image for a block's inactive slot (R389): the status and the state. Its signature is ECDSA P-256 over SHA-256
under the vendor key; a version below the rollback counter is refused. -/
def State.stage (s : State) (d b : Nat) (image sig : List Byte) : Nat × State :=
  let digest := sha256 image
  let v := Config.imageVersion image
  if !blockOk b then (1, s)
  else if !Config.verify Config.vendorKey digest sig then (5, s)
  else if v < (s.fwBlock d b).rollback then (1, s)
  else (0, s.setFwBlock d b { s.fwBlock d b with staged := some (v, digest) })

/-- FWUPDATE (R389, R392): the last 64 bytes of the image are its signature (log 29). -/
def execFwupdate (s : State) : Host.Outcome State Fault Refusal :=
  let d := s.actor
  s.command d 0x30 fun s =>
    let dv := s.device d
    let len := (dv.req 3).toNat
    if !blockOk (dv.req 1).toNat then s.answer d 1 []
    else
      let bytes := s.physRead d (dv.req 2).toNat len
      let (st, s) := s.stage d (dv.req 1).toNat (bytes.take (len - 64)) (bytes.drop (len - 64))
      s.answer d st []

/-- PLDM_FW_UPDATE (R389, R396). -/
def execPldmFwUpdate (d blk : Nat) (image sig : List Byte) (s : State) : Host.Outcome State Fault Refusal :=
  let r := s.stage d blk image sig
  .next (r.2.updDevice d fun dv => { dv with hostData := [BitVec.ofNat 8 r.1] })

/-- The quiescent point of a block (R389). -/
def State.quiescent (s : State) (d b : Nat) : Bool :=
  let dv := s.device d
  if b = 1 then !dv.doorbell
  else if 0x10 ≤ b ∧ b < 0x34 then (s.port d (b - 0x10)).training
  else if 0x40 ≤ b ∧ b < 0x44 then !(dv.circuits.any fun p => p.1 / 64 == b - 0x40 && p.2.state == .tuning)
  else if b ≥ 0x100 then ((tget dv.retrain (b - 0x100)).map fun r => r.isOpen dv).getD false
  else dv.cxlIdle

/-- FIRMWARE_ACTIVATE (R389): the staged image takes effect at the quiescent point. -/
def execFirmwareActivate (d blk : Nat) (s : State) : Host.Outcome State Fault Refusal :=
  let f := s.fwBlock d blk
  .next (match f.staged with
    | some (v, g) =>
      if s.quiescent d blk then s.setFwBlock d blk { f with version := v, digest := g, staged := none } else s
    | none => s)

/-! ### TDISP (R380) -/

def State.setTdisp (s : State) (part : Nat) (p : Partition) (v : Tdisp) : State :=
  { s with partitions := tset s.partitions part { p with tdisp := v } }

/-- TDISP_LOCK (R380). -/
def execTdispLock (d part : Nat) (s : State) : Host.Outcome State Fault Refusal :=
  .next (match tget s.partitions part with
    | some p => if p.device = d ∧ p.tdisp = .unlocked then s.setTdisp part p .locked else s
    | none => s)

/-- TDISP_START (R380). -/
def execTdispStart (d part : Nat) (s : State) : Host.Outcome State Fault Refusal :=
  .next (match tget s.partitions part with
    | some p => if p.device = d ∧ p.tdisp = .locked then s.setTdisp part p .run else s
    | none => s)

/-- TDISP_STOP (R380): a STOP, or with `err` a fault that leads to ERROR, halts and tears down every context. -/
def execTdispStop (d part : Nat) (err : Bool) (s : State) : Host.Outcome State Fault Refusal :=
  .next (match tget s.partitions part with
    | some p =>
      if p.device = d then (s.tearPartition p).setTdisp part p (if err then .error else .unlocked) else s
    | none => s)

/-! ### The host's accesses (R375 to R377) -/

/-- A range that lies in the backed range of one lent cluster (R375). -/
def State.lentRange (s : State) (d pa n : Nat) : Bool :=
  s.hbmBacked d pa n && (s.cluster (d * 128 + hbmCluster pa)).service == .lent

/-- A thread name that no thread has, for the releases of the host (R376). -/
def hostTid : Nat := 2 ^ 40

/-- The host's write as a release at `pd` of all its earlier writes (R376): its homes are the lent clusters and the
host's own memory. -/
def State.hostRelease (s : State) : Release :=
  ⟨hostTid, 6, 0, hostHome :: (s.clusters.filter fun p => p.2.service == .lent).map (·.1)⟩

/-- HOST_MEM_WRITE (R375, R376): each line's write reaches its home slice, replicas first invalidated. -/
def execHostMemWrite (d pa : Nat) (data : List Byte) (s : State) : Host.Outcome State Fault Refusal :=
  .next (if s.lentRange d pa data.length then
    let c := d * 128 + hbmCluster pa
    let words := (List.range ((pa + data.length + 7) / 8 - pa / 8)).map (pa / 8 + ·)
    let s := words.foldl (fun s w => s.recordRel (physKey d (8 * w)) [s.hostRelease]) s
    s.physWrite d pa data (s.cluster c).part.toNat (s.dedupScope c false) (s.ctxOf c)
  else s)

/-- A range of host memory. -/
def hostRange (pa n : Nat) : Bool := isHostPa pa && decide (pa + n ≤ 0xC00000000000)

/-- A line of host memory as the host reads it: from the home slice of the cluster that owns its page, else from the memory
itself (R376). -/
def State.hostLine (s : State) (d pa : Nat) : BitVec 512 :=
  let line := physKey d pa / 64
  let home := (s.rind.find? fun r => r.line == line && homeSlice r.home (line * 64) == some r.slice).map (·.slice)
  s.homeLine home line

/-- n bytes as the host reads them. -/
def State.hostBytes (s : State) (d pa n : Nat) : List Byte :=
  if hostRange pa n then
    let first := pa / 64
    let all := (List.range ((pa + n + 63) / 64 - first)).flatMap fun i => leBytes 64 (s.hostLine d ((first + i) * 64)).toNat
    (all.drop (pa % 64)).take n
  else s.physRead d pa n

/-- HOST_MEM_READ (R375, R376): the host reads lent HBM, as the home slices hold it, or its own memory, as the home slice of a
line's owning cluster or the memory does; no replica and no L1 line is a source. -/
def execHostMemRead (d pa len : Nat) (s : State) : Host.Outcome State Fault Refusal :=
  .next (if s.lentRange d pa len || hostRange pa len then
    s.updDevice d fun dv => { dv with hostData := s.hostBytes d pa len } else s)

/-- HOST_MEMORY_WRITE (R376): every copy of the lines in the device's L1 caches and L2 slices is invalidated, and the
host's memory holds the bytes. -/
def execHostMemoryWrite (d pa : Nat) (data : List Byte) (s : State) : Host.Outcome State Fault Refusal :=
  .next (if hostRange pa data.length then
    let key := physKey d pa
    let s := s.forgetRange key data.length
    let s := (s.rind.filter fun r => decide (r.line * 64 < key + data.length) && decide (key < r.line * 64 + 64)).foldl
      (fun s r => s.invalidRind r.slice r.line) s
    { (s.clearPoison key data.length) with mem := memWrite s.mem key data }
  else s)

/-! ### Registers (R357, R361, R365, R378, R379, R391) -/

/-- Codes of R392. -/
def commandCodes : List Nat := [0x01, 0x02, 0x03, 0x10, 0x20, 0x21, 0x22, 0x23, 0x24, 0x30]

/-- A write of 1 to DOORBELL starts the command; one that R392 does not list is answered BADARG. -/
def State.ring (s : State) (d : Nat) (v : Word) : State :=
  let dv := s.device d
  if dv.doorbell ∨ v ≠ 1 then s
  else if commandCodes.contains ((dv.req 0).extractLsb' 0 8).toNat then s.setDevice d { dv with doorbell := true }
  else s.answer d 1 []

/-- A write of 64 bits at an offset of the management range; an offset without a writable register ignores it (R378). -/
def State.writeReg (s : State) (d ofs : Nat) (v : Word) : State :=
  let dv := s.device d
  if ofs = 0x10 then
    (let w := v.extractLsb' 0 12
     if 300 ≤ w.toNat ∧ w.toNat ≤ 1700 then s.setDevice d { dv with pwrlim := w } else s)
  else if 0x10000 ≤ ofs ∧ ofs < 0x10040 then
    (if dv.doorbell then s else s.setDevice d { dv with request := dv.request.set ((ofs - 0x10000) / 8) v })
  else if ofs = 0x10080 then s.ring d v
  else if ofs = 0x20000 then s.startFence d v
  else if 0x24000 ≤ ofs ∧ ofs < 0x28000 then
    s.setDevice d { dv with shadow := tset dv.shadow ((ofs - 0x24000) / 8) (v &&& 0xBF) }
  else if 0x100000 ≤ ofs ∧ ofs < 0x140000 ∧ 0x1000 ≤ ofs % 0x10000 ∧ ofs % 0x10000 < 0x1400 then
    (let die := d * 4 + (ofs - 0x100000) / 0x10000
     let n := (ofs % 0x10000 - 0x1000) / 16
     if ofs % 16 = 0 then s.writeCxc die n v else s.writeCxw die n v)
  else s

/-- The host reaches the device block and the mailbox through BAR0, which stage 5 makes visible (R374, R393); the management
unit, item 1, reaches the whole range (R378). -/
def State.reachesReg (s : State) (d ofs : Nat) : Bool :=
  s.item == 1 || (decide (ofs < 0x20000) && decide (5 < (s.device d).stage))

/-- REGISTER_WRITE (R374, R378). -/
def execRegisterWrite (d ofs : Nat) (v : Word) (s : State) : Host.Outcome State Fault Refusal :=
  .next (if ofs % 8 = 0 ∧ s.reachesReg d ofs = true then s.writeReg d ofs v else s)

/-! ### Errors (R384, R385) -/

/-- One more corrected error, saturating. -/
def satInc (v : BitVec 32) : BitVec 32 := if v = BitVec.allOnes 32 then v else v + 1

/-- CORRECTED_ERROR (R384): blocks 0 to 127 are clusters of the package, 128 to 255 slices, 256 to 1,023
pseudo-channels. -/
def execCorrectedError (d blk : Nat) (s : State) : Host.Outcome State Fault Refusal :=
  let bump (l : List (Nat × BitVec 32)) (n : Nat) : List (Nat × BitVec 32) := tset l n (satInc ((tget l n).getD 0))
  .next (if blk < 128 then s.updCluster (d * 128 + blk) fun cl => { cl with sramErr := satInc cl.sramErr }
    else if blk < 256 then s.updDevice d fun dv => { dv with sliceErr := bump dv.sliceErr (blk - 128) }
    else s.updDevice d fun dv => { dv with chanErr := bump dv.chanErr (blk - 256) })

/-- A whole cluster leaves service: its threads halt (R17, R386; log 109). -/
def State.takeOut (s : State) (c : Nat) : State :=
  let s := if (s.cluster c).run = .running then s.haltCluster c else s
  if (s.cluster c).service = .inService then s.setService c .offline else s

/-- UNCORRECTABLE_ERROR (R17, R384): item 0 poisons the SRAM word, or the 64-byte line of memory, at a key; item 1 is a fault in
a contribution to the cluster memory at the key that cannot be contained there; item k + 2 meets the copy of the key's line in
the L1 of core k. -/
def execUncorrectableError (s : State) : Host.Outcome State Fault Refusal :=
  let a := s.actor
  .next (match s.item with
    | 0 =>
      if isSram a then s.setPoison a
      else (List.range 8).foldl (fun s i => s.setPoison (a / 64 * 64 + 8 * i)) s
    | 1 => if isSram a && sramUnit a == 8 then s.takeOut (sramCluster a) else s
    | k + 2 =>
      { s with l1 := s.l1.map fun l => if l.core = k ∧ l.line = a / 64 then { l with psn := true } else l })

/-- Records in a fenced cluster's spawn queue: the parent's `spawn` raises HOME_FENCED (R49). -/
def State.fenceSpawns (s : State) (c : Nat) : State :=
  let l := (s.cluster c).spawnQ
  let s := s.updCluster c fun cl => { cl with spawnQ := [], claim := none }
  l.foldl (fun (s : State) (q : QueuedSpawn) => match q.strand with
    | some (x, id) => if (s.thread? q.parent).isSome then s.result q.parent x (c / 32) id [] (some (TrapInfo.plain .homeFenced)) else s
    | none => s) s

/-- A cluster is fenced (R261, R385): its threads halt, its held watches are answered FENCED, and requests that wait at its port
receive HOME_FENCED. That its engines stop too, and what they had accepted goes, is the model's: DESIGN CHOICE (log 113). -/
def State.fenceCluster (s : State) (c : Nat) : State :=
  let held := s.watches.filter fun p => p.2.held && watchHome p.2.key == c
  let waiting := s.waiters.filter fun w => sramCluster w.key == c && clusterOf w.t != c
  let asked := (s.cluster c).arrivals
  let s := s.updCluster c fun cl =>
    { cl with service := .fenced, run := if cl.run = .running then .halted else cl.run, copyQ := [], msQ := []
              actions := [], arrivals := [] }
  let s := held.foldl (fun s p => s.answerWatch p.1 p.2 0 true) s
  let s := { s with waiters := s.waiters.filter fun w => sramCluster w.key != c }
  let s := waiting.foldl (fun (s : State) (w : Waiter) => s.reply w.t w.x (c / 32) (.trap (TrapInfo.at .homeFenced w.va))) s
  let s := asked.foldl (fun s a => s.replyCinc c a (.trap (TrapInfo.plain .homeFenced))) s
  s.fenceSpawns c

/-- CLUSTER_FENCE (R385): item 0 fences the cluster; item 1, corrupt die control state, fences every cluster of its die. -/
def execClusterFence (s : State) : Host.Outcome State Fault Refusal :=
  let c := s.actor
  .next (if s.item = 1 then ((List.range 32).map (c / 32 * 32 + ·)).foldl (fun s c => s.fenceCluster c) s else s.fenceCluster c)

/-! ### Reset and bring-up (R358, R363, R393) -/

/-- A key of memory that belongs to a device: its SRAM and its HBM. -/
def deviceKey (d k : Nat) : Bool :=
  if isSram k then sramCluster k / 128 == d else keyDevice k == d && !isHostPa (keyPa k)

/-- Device at the sending end of a link direction. -/
def linkOwner (l : Nat) : Nat := if isPort l then portDevice l else l / 8

/-- Packets on a device's links are lost, and those to or from it are gone with the fills that wait for them; the permits of their
copies return (R355, R370). -/
def State.wipePackets (s : State) (d : Nat) : State :=
  let mine (p : Packet) : Bool := p.src / 4 == d || p.dst / 4 == d
  let s := (s.packets.filter fun p => p.copy == .moving && (mine p || p.link.any fun l => linkOwner l == d)).foldl
    (fun s p => (s.quitLink p).setPacket { p with copy := .lost, link := none }) s
  { s with packets := s.packets.filter fun p => !mine p
           links := s.links.filter fun q => linkOwner q.1 != d
           fills := s.fills.filter fun f => !s.packets.any fun p => mine p && p.cargo == .fill f.id
           seqs := s.seqs.filter fun q => let k := q.1 / 16
             if q.1 / 8 % 2 = 0 then k / 8192 / 4 != d && k % 8192 / 4 != d else k / 8192 != d && k % 8192 != d }

/-- A barrier whose scope instance lies within a device. -/
def barrierIn (d key : Nat) : Bool :=
  let scope := key / 1024 / 2 ^ 24
  let i := key / 1024 % 2 ^ 24
  let span := match scope with | 1 => 1024 | 2 => 256 | 3 => 128 | 4 => 4 | 5 => 1 | _ => 0
  span != 0 && i / span == d

/-- Everything that a device holds is gone, and the device is as given. -/
def State.wipe (s : State) (d : Nat) (dv : Device) : State :=
  let s := s.wipePackets d
  let other (k : Nat) : Bool := !deviceKey d k
  { s with
    threads := s.threads.filter (fun p => deviceOf p.1 != d), cores := s.cores.filter (fun p => p.1 / 1024 != d)
    clusters := s.clusters.filter (fun p => p.1 / 128 != d), devices := tset s.devices d dv
    partitions := s.partitions.filter (fun p => p.2.device != d), mem := s.mem.filter (fun c => other c.1)
    feEmpty := s.feEmpty.filter other, poison := s.poison.filter other
    stores := s.stores.filter (fun w => deviceOf w.t != d && other w.key), sums := s.sums.filter (fun p => other p.1), rel := s.rel.filter (fun p => other p.1)
    l1 := s.l1.filter (fun l => l.core / 1024 != d && other (l.line * 64))
    il1 := s.il1.filter (fun l => l.core / 1024 != d), rind := s.rind.filter (fun r => r.slice / 128 != d)
    paste := s.paste.filter (fun p => p.slice / 128 != d), fills := s.fills.filter (fun f => f.slice / 128 != d)
    leases := s.leases.filter (fun l => l.die / 4 != d), pages := s.pages.filter (fun p => p.die / 4 != d)
    tlb := s.tlb.filter (fun e => e.device != d)
    tickets := (s.tickets.filter (fun p => sliceDie (p.1 / 1024) / 4 != d)).map (fun (p : Nat × Ticket) =>
      (p.1, { p.2 with redeems := p.2.redeems.filter fun (q : Nat × Side) => deviceOf q.1 != d })), drops := s.drops.filter (fun p => deviceOf p.1 != d)
    watches := s.watches.filter (fun p => sliceDie (p.1 / 256) / 4 != d), answers := s.answers.filter (fun a => deviceOf a.t != d)
    waiters := s.waiters.filter (fun w => deviceOf w.t != d && other w.key), barriers := s.barriers.filter (fun p => !barrierIn d p.1)
    saved := (s.saved.filter (fun v => v.cluster / 128 != d)).map (fun sv => { sv with waiters := sv.waiters.filter fun w => deviceOf w.t != d }) }

/-- A device right after reset: what it keeps in non-volatile store is its firmware (R389). -/
def Device.fresh (dv : Device) : Device := { Device.zero with firmware := dv.firmware }

/-- A device takes another number, with what it holds. -/
def State.renumber (s : State) (d num : Nat) : State :=
  let host (k : Nat) : Nat := if !isSram k && keyDevice k == d then physKey num (keyPa k) else k
  { s with devices := tset (tdel s.devices d) num (s.device d)
           mem := memClear (memCopy s.mem (physKey d 0) (physKey num 0) (2 ^ 48)) (physKey d 0) (2 ^ 48)
           poison := s.poison.foldl (fun l k => insertKey (host k) l) []
           clusters := s.clusters.map fun p => if p.1 / 128 = d then (p.1 - d * 128 + num * 128, p.2) else p }

/-- A device outside a pod is number 0 (R363); where the model holds another device under that number, it keeps its own as the
model's name for it (log 114). -/
def State.outsidePod (s : State) (d : Nat) : State :=
  if d ≠ 0 ∧ (tget s.devices 0).isNone then (s.renumber d 0).updDevice 0 fun dv => { dv with members := [0] }
  else s.updDevice d fun dv => { dv with members := [d] }

/-- DEVICE_RESET (R7, R393): the device is as after reset, `%cycle` counts from zero, and its bring-up begins. -/
def execDeviceReset (s : State) : Host.Outcome State Fault Refusal :=
  let d := s.actor
  .next ((s.wipe d (s.device d).fresh).outsidePod d)

/-- Limit of a stage in ns (R393). -/
def stageLimit (n : Nat) : Nat :=
  match n with
  | 1 => 20000000 | 2 => 100000000 | 3 => 400000000 | 4 => 5000000 | 5 => 200000000 | 6 => 2000000000 | _ => 10000000

/-- The device leaves stage 6: a pod of one has its `%time` at zero (R7, R363). -/
def State.leavePodStage (s : State) (d : Nat) : State :=
  if (s.device d).podQ = 0 then s.updDevice d fun dv => { dv with timeUnits := 0 } else s

/-- The supervisor thread of a die. Its entry points and `%svec` come from the supervisor image (log 7). -/
def supThread (die cycle : Nat) : Thread :=
  let strand (x : Bool) : Strand := { Strand.zero with pc := keepPc (Config.superEntry die x), sup := true, nextIssue := cycle + 1 }
  { Thread.zero with a := strand false, x := strand true, isSup := true }

/-- It is placed in slot 7 of core 0 of the die's lowest-numbered in-service cluster (R393). R17 takes the slots of a removed
core away and R393 names no other place: DESIGN CHOICE (log 23), the thread is placed there though core 0 has been removed. -/
def State.placeSup (s : State) (die : Nat) : State :=
  match ((List.range 32).map (die * 32 + ·)).find? fun c => (s.cluster c).service == .inService with
  | none => s
  | some c => s.setThread (c * 64 + 7) (supThread die (s.now (c * 64 + 7)))

/-- Stage 7 (R393). -/
def State.placeSups (s : State) (d : Nat) : State :=
  let s := (List.range 128).foldl (fun s i =>
    s.updCluster (d * 128 + i) fun cl => { cl with svec := keepPc (Config.superVec (d * 128 + i)) }) s
  (List.range 4).foldl (fun s i => s.placeSup (d * 4 + i)) s

/-- The running stage completes and the next begins (R393). -/
def State.nextStage (s : State) (d : Nat) : State :=
  let dv := s.device d
  if dv.stopped ∨ dv.stage ≥ 8 ∨ dv.stage = 0 then s
  else
    let s := if dv.stage = 6 then s.leavePodStage d else if dv.stage = 7 then s.placeSups d else s
    s.updDevice d fun dv => { dv with stage := dv.stage + 1, since := dv.elapsed }

/-- A stage fails (R393): at stage 5 or earlier the device stops; at stage 6 it goes on as a pod of one; at stage 7 no
supervisor thread is placed. -/
def State.failStage (s : State) (d : Nat) : State :=
  let dv := s.device d
  let dv := { dv with failed := true, failStage := dv.stage }
  if dv.stage = 6 then
    (s.setDevice d { dv with stage := 7, since := dv.elapsed, timeUnits := 0, podQ := 0, members := [d], nextMembers := none, routing := [], shadow := [] }).outsidePod d
  else s.setDevice d { dv with stopped := true }

/-- The running stage fails, at stages 1, 2 and 7 for an image that does not verify (R393). -/
def State.stageFails (s : State) (d : Nat) : State :=
  let dv := s.device d
  if !dv.stopped && decide (1 ≤ dv.stage ∧ dv.stage < 8) then s.failStage d else s

/-- A pseudo-channel that fails its training at stage 3 is retired (R393): channel n of the device's 768. -/
def State.channelFails (s : State) (d n : Nat) : State :=
  let dv := s.device d
  if !dv.stopped && dv.stage == 3 && decide (n < 768) then
    s.updCluster (d * 128 + n / 6) fun cl => { cl with retired := insertKey (n % 6) cl.retired }
  else s

/-- BRINGUP_STAGE_TIMEOUT (R393): the stage has exceeded its limit. -/
def execBringupStageTimeout (s : State) : Host.Outcome State Fault Refusal :=
  let d := s.actor
  let dv := s.device d
  .next (if !dv.stopped && decide (1 ≤ dv.stage ∧ dv.stage < 8) &&
      decide (dv.since + stageLimit dv.stage * timeScale ≤ dv.elapsed) then s.failStage d else s)

/-- The count of `%time` that a device takes at stage 6 (R7): that of the other members, zero where it forms the pod with them.
A pod all of whose other members lie outside the model gives it as an input, zero when it is formed. -/
def State.podTime (s : State) (d num q : Nat) (members : List Nat) (time : Nat) : Nat :=
  match s.devices.find? fun p => p.1 != d && p.2.podQ == q && members.contains p.1 && p.2.members.contains num with
  | some p => p.2.timeUnits
  | none => if members.all fun e => e == num || (tget s.devices e).isSome then 0 else time * timeScale

/-- Primes on which a pod may be built (R363). -/
def podPrimes : List Nat := [5, 7, 11, 13, 17, 19, 23]

/-- POD_MEMBERSHIP_SET (R7, R362, R363, R393): at stage 6 the pod manager gives the device its number, the pod's prime
and membership, and `%time`; later it rewrites the membership alone, in a shadow copy that a table fence brings into use (R361).
A number changes only while no other device of the
model has it and no thread is placed; what it holds goes with it. -/
def execPodMembershipSet (d num q : Nat) (members : List Nat) (time : Nat) (s : State) : Host.Outcome State Fault Refusal :=
  let dv := s.device d
  let set (dv : Device) : Device := { dv with members := members, podQ := q }
  .next (if !podPrimes.contains q || !members.contains num || members.any (fun e => decide (e ≥ 2 * q * q)) || dv.stopped then s
    else if dv.stage = 6 then
      (let s' := s.setDevice d { set dv with timeUnits := s.podTime d num q members time }
       if num = d then s'
       else if (tget s.devices num).isSome || s.threads.any (fun p => deviceOf p.1 == d) then s
       else s'.renumber d num)
    else if dv.stage > 6 ∧ num = d ∧ q = dv.podQ then s.setDevice d { dv with nextMembers := some members } else s)

/-! ### Power and temperature (R394 to R396) -/

/-- A change of the arithmetic clock. -/
def State.setClock (s : State) (d n : Nat) : State := s.updDevice d fun dv => { dv with clock := n }

/-- POWER_CLOCK_STEP (R394): mean power `watts` over PWRLIM steps the clock down, no lower than 500 MHz; else it steps
up, no higher than 2.0 GHz, unless a temperature holds it. -/
def execPowerClockStep (d watts : Nat) (s : State) : Host.Outcome State Fault Refusal :=
  let dv := s.device d
  .next (if watts > dv.pwrlim.toNat then s.setClock d (max 8 (dv.clock - 1))
    else if dv.hot = 0 then s.setClock d (min 32 (dv.clock + 1)) else s)

/-- THERMAL_THROTTLE (R395): by the hottest compute die and HBM stack in °C. -/
def execThermalThrottle (d dieC hbmC : Nat) (s : State) : Host.Outcome State Fault Refusal :=
  let dv := s.device d
  .next (if dieC ≥ 105 ∨ hbmC ≥ 95 then s.setDevice d { dv with clock := 8, hot := 2 }
    else if dieC ≥ 95 ∨ hbmC ≥ 90 then s.setDevice d { dv with clock := max 8 (dv.clock - 1), hot := 1 }
    else s.setDevice d { dv with hot := 0 })

/-- THERMAL_SHUTDOWN (R395): at 115 °C every die is halted, state is lost, BSTATE shows FAILED and stage 0. -/
def execThermalShutdown (d dieC : Nat) (s : State) : Host.Outcome State Fault Refusal :=
  .next (if dieC ≥ 115 then
    (let dv := s.device d
     s.wipe d { dv.fresh with cycle := dv.cycle, timeUnits := dv.timeUnits, left := dv.left, stage := 0, failed := true
                              failStage := 0, stopped := true }) else s)

/-- PLDM_MONITOR (R396): power and temperatures as PWR and TEMP give them. -/
def execPldmMonitor (s : State) : Host.Outcome State Fault Refusal :=
  let d := s.actor
  .next (s.updDevice d fun dv => { dv with hostData := leBytes 8 (s.deviceBlock d 0x18).toNat ++ leBytes 8 (s.deviceBlock d 0x20).toNat })

end Sys2Proof.Machine
end

