-- ==== Sys2Proof/Machine/Attest.lean ====
section
/-! DEFINITION. Attestation and session keys (R382, R383). The spec names the requests of SPDM 1.3, what is measured and
what signs; the wire form of a response is SPDM's own and stands as an opaque function of what the response carries
(log 9). A request that the connection's state does not permit is answered with ERROR and changes nothing. -/

namespace Sys2Proof.Machine

/-- Codes by which the model tells responses apart; 127 is ERROR. -/
def spdmErrorCode : Nat := 127

def State.spdm (s : State) (d : Nat) : Spdm := (s.device d).spdm
def State.setSpdm (s : State) (d : Nat) (v : Spdm) : State := s.updDevice d fun dv => { dv with spdm := v }
/-- A response, with the connection as it then is. -/
def State.respond (s : State) (d : Nat) (v : Spdm) (answer : List Byte) : State := s.setSpdm d { v with answer := answer }
def State.spdmError (s : State) (d : Nat) : State := s.respond d (s.spdm d) (Config.spdmWire spdmErrorCode [])

/-- Blocks whose images measurement 3 covers, in ascending number (R390). -/
def measuredBlocks : List Nat :=
  0 :: ((List.range 36).map (0x10 + ·) ++ (List.range 4).map (0x40 + ·) ++ (List.range 768).map (0x100 + ·))

/-- The record of a partition, as measurement 5 covers it (R381). -/
def Partition.measured (n : Nat) (p : Partition) : List Byte :=
  leBytes 1 n ++ leBytes 1 p.dies.toNat ++ leBytes 8 p.policy.toNat ++ p.keys.flatMap fun k => beBytes 32 k.toNat

/-- The membership bitmap (R360). -/
def membershipBits (l : List Nat) : Nat := l.foldl (fun a n => a ||| 2 ^ n) 0

/-- Measurement of an index (R382). -/
def State.measurement (s : State) (d idx : Nat) : BitVec 256 :=
  match idx with
  | 1 => Config.bootDigest
  | 2 => (s.fwBlock d 1).digest
  | 3 => sha256 (measuredBlocks.flatMap fun b => beBytes 32 (s.fwBlock d b).digest.toNat)
  | 4 => Config.superDigest
  | 5 => sha256 ((s.partitions.filter fun p => p.2.device == d).flatMap fun p => p.2.measured p.1)
  | _ => sha256 (leBytes 256 (membershipBits (s.device d).members) ++ leBytes 2 d)

/-- GET_VERSION (R382): the connection begins again. -/
def execGetVersion (s : State) : Host.Outcome State Fault Refusal :=
  let d := s.actor
  .next (s.respond d { Spdm.zero with version := true, keyGen := (s.spdm d).keyGen } (Config.spdmWire 4 [0x1300]))

/-- GET_CAPABILITIES (R382). -/
def execGetCapabilities (s : State) : Host.Outcome State Fault Refusal :=
  let d := s.actor
  let v := s.spdm d
  .next (if v.version then s.respond d { v with caps := true } (Config.spdmWire 97 []) else s.spdmError d)

/-- NEGOTIATE_ALGORITHMS (R382): 1 is P-256 with SHA-256, 2 P-384 with SHA-384. -/
def execNegotiateAlgorithms (d alg : Nat) (s : State) : Host.Outcome State Fault Refusal :=
  let v := s.spdm d
  .next (if v.caps && (alg == 1 || alg == 2) then s.respond d { v with alg := alg } (Config.spdmWire 99 [alg])
    else s.spdmError d)

/-- The digest of the certificate chain under the negotiated algorithm (R382). -/
def chainDigest (alg : Nat) : List Byte :=
  if alg = 2 then sha384 (Config.certificate 0) else beBytes 32 (sha256 (Config.certificate 0)).toNat

/-- GET_DIGESTS (R382): slot 0 holds the chain. -/
def execGetDigests (s : State) : Host.Outcome State Fault Refusal :=
  let d := s.actor
  let v := s.spdm d
  .next (if v.alg ≠ 0 then s.respond d v (chainDigest v.alg) else s.spdmError d)

/-- GET_CERTIFICATE (R382). -/
def execGetCertificate (d slot ofs len : Nat) (s : State) : Host.Outcome State Fault Refusal :=
  let v := s.spdm d
  .next (if v.alg ≠ 0 ∧ slot = 0 then s.respond d v (((Config.certificate 0).drop ofs).take len) else s.spdmError d)

/-- CHALLENGE (R382): signed by the identity key. -/
def execChallenge (d slot : Nat) (nonce : BitVec 256) (s : State) : Host.Outcome State Fault Refusal :=
  let v := s.spdm d
  .next (if v.alg ≠ 0 ∧ slot = 0 then
    s.respond d v (Config.sign v.alg (chainDigest v.alg ++ leBytes 32 nonce.toNat))
  else s.spdmError d)

/-- GET_MEASUREMENTS (R382): one index of 1 to 6, or all for 255, signed. -/
def execGetMeasurements (d idx : Nat) (nonce : BitVec 256) (s : State) : Host.Outcome State Fault Refusal :=
  let v := s.spdm d
  let idxs := if idx = 255 then [1, 2, 3, 4, 5, 6] else [idx]
  let body := idxs.flatMap fun i => beBytes 32 (s.measurement d i).toNat
  .next (if v.alg ≠ 0 ∧ (idx = 255 ∨ (1 ≤ idx ∧ idx ≤ 6)) then
    s.respond d v (body ++ Config.sign v.alg (body ++ leBytes 32 nonce.toNat))
  else s.spdmError d)

/-- Port and partition of a link number: link − 1 is port × 64 + partition; link 0 is the requester's own session. -/
def State.fabKey (s : State) (d link : Nat) : Option FabricKey := tget (s.device d).fabKeys (link - 1)
def State.setFabKey (s : State) (d link : Nat) (k : FabricKey) : State :=
  s.updDevice d fun dv => { dv with fabKeys := tset dv.fabKeys (link - 1) k }

/-- Packets sent under the number of a link, from which a new key of it counts. -/
def State.fabSent (s : State) (d link : Nat) : Nat := (tget (s.device d).fabSent (link - 1)).getD 0

/-- KEY_EXCHANGE (R382, R383): a session of the requester, or one that makes the fabric key of a link and partition. -/
def execKeyExchange (d link : Nat) (pub : BitVec 512) (s : State) : Host.Outcome State Fault Refusal :=
  let v := s.spdm d
  let n := s.nextId
  .next (if link = 0 then
    (if v.alg ≠ 0 then
      ({ s with nextId := n + 1 } : State).respond d { v with session := some n, finished := false }
        (Config.sign v.alg (leBytes 64 pub.toNat))
    else s.spdmError d)
  else ({ s with nextId := n + 1 } : State).setFabKey d link ⟨n, false, 0, 0, s.fabSent d link⟩)

/-- FINISH (R382, R383). -/
def execFinish (d link : Nat) (mac : BitVec 256) (s : State) : Host.Outcome State Fault Refusal :=
  let v := s.spdm d
  .next (if link = 0 then
    (match v.session with
    | some n =>
      if mac = Config.finishMac n then s.respond d { v with finished := true } (Config.spdmWire 101 [n])
      else s.respond d { v with session := none, finished := false } (Config.spdmWire spdmErrorCode [])
    | none => s.spdmError d)
  else match s.fabKey d link with
    | some k => if mac = Config.finishMac k.session then s.setFabKey d link { k with live := true } else s
    | none => s)

/-- KEY_UPDATE (R382, R383): the session's keys, or the fabric key of a link, whose receiver then accepts both for
65,536 packets. -/
def execKeyUpdate (d link : Nat) (s : State) : Host.Outcome State Fault Refusal :=
  let v := s.spdm d
  .next (if link = 0 then
    (if v.finished then s.respond d { v with keyGen := v.keyGen + 1 } (Config.spdmWire 105 [v.keyGen + 1]) else s.spdmError d)
  else match s.fabKey d link with
    | some k => if k.live then s.setFabKey d link { k with gen := k.gen + 1, both := 65536, start := s.fabSent d link } else s
    | none => s)

/-- END_SESSION (R382). -/
def execEndSession (s : State) : Host.Outcome State Fault Refusal :=
  let d := s.actor
  let v := s.spdm d
  .next (if v.finished then s.respond d { v with session := none, finished := false } (Config.spdmWire 108 []) else s.spdmError d)

end Sys2Proof.Machine
end

