-- ==== Sys2Proof/Machine/Control.lean ====
section
/-! DEFINITION. Control transfer, traps and returns, special registers (R133 to R137). -/

namespace Sys2Proof.Machine

/-- The common fields of the control group: FN 0, TY 0, MD 0. -/
def controlDesc (e : Enc) : Desc := { legal := e.fn == 0 && e.ty == .none }

/-- Target of a label form (R133): the instruction's address + 12 × sext(IMM). -/
def branchTarget (pc : Word) (imm : BitVec 24) : Word := pc + 12 * sextImm imm

/-- `nop` (R133). -/
def execNop (e : Enc) (s : State) : Host.Outcome State Fault Refusal :=
  issue (controlDesc e) e s fun s => .ok s.next

/-- What the description of the row permits. -/
def brDesc (e : Enc) : Desc :=
  { controlDesc e with imm := .role true }

/-- `br` (R133). -/
def execBr (e : Enc) (s : State) : Host.Outcome State Fault Refusal :=
  issue (brDesc e) e s fun s =>
    .ok (s.updMy fun st => st.goTo (branchTarget st.pc e.imm))

/-- What the description of the row permits. -/
def brlDesc (e : Enc) : Desc :=
  { controlDesc e with imm := .role true, da := sReg }

/-- `brl` (R133): the link is PC + 12. -/
def execBrl (e : Enc) (s : State) : Host.Outcome State Fault Refusal :=
  issue (brlDesc e) e s fun s =>
    .ok (s.updMy fun st => (st.setS e.da.idx.toNat (st.pc + 12)).goTo (branchTarget st.pc e.imm))

/-- A jump target must be 4-byte aligned (R133). -/
def jumpAligned (a : Word) : Bool := a.extractLsb' 0 2 == 0

/-- What the description of the row permits. -/
def jmpDesc (e : Enc) : Desc :=
  { controlDesc e with sa := sReg }

/-- `jmp` (R133). -/
def execJmp (e : Enc) (s : State) : Host.Outcome State Fault Refusal :=
  issue (jmpDesc e) e s fun s =>
    let a := s.my.getS e.sa.idx.toNat
    if jumpAligned a then .ok (s.updMy fun st => st.goTo a) else .error (.cause .align)

/-- What the description of the row permits. -/
def jmplDesc (e : Enc) : Desc :=
  { controlDesc e with da := sReg, sa := sReg }

/-- `jmpl` (R133): A is read before D is written. -/
def execJmpl (e : Enc) (s : State) : Host.Outcome State Fault Refusal :=
  issue (jmplDesc e) e s fun s =>
    let a := s.my.getS e.sa.idx.toNat
    if jumpAligned a then .ok (s.updMy fun st => (st.setS e.da.idx.toNat (st.pc + 12)).goTo a)
    else .error (.cause .align)

/-- What the description of the row permits. -/
def dbnzDesc (e : Enc) : Desc :=
  { controlDesc e with imm := .role true, da := sReg }

/-- `dbnz` (R133): D falls by one and the branch is taken while the new D, which is s0's zero for s0, is not zero. -/
def execDbnz (e : Enc) (s : State) : Host.Outcome State Fault Refusal :=
  issue (dbnzDesc e) e s fun s =>
    .ok (s.updMy fun st =>
      let st' := st.setS e.da.idx.toNat (st.getS e.da.idx.toNat - 1)
      if st'.getS e.da.idx.toNat ≠ 0 then st'.goTo (branchTarget st.pc e.imm) else st'.advance)

/-- What the description of the row permits. -/
def trapDesc (e : Enc) : Desc :=
  { controlDesc e with imm := .role true }

/-- `trap` (R135): raises SOFTWARE and does not complete. -/
def execTrap (e : Enc) (s : State) : Host.Outcome State Fault Refusal :=
  issue (trapDesc e) e s fun _ => .error (.cause .software)

/-- What the description of the row permits. -/
def brkDesc (e : Enc) : Desc :=
  { controlDesc e with imm := .role true }

/-- `brk` (R135): raises BREAK and does not complete. -/
def execBrk (e : Enc) (s : State) : Host.Outcome State Fault Refusal :=
  issue (brkDesc e) e s fun _ => .error (.cause .breakpoint)

/-- `uret` (R136, R325). -/
def execUret (e : Enc) (s : State) : Host.Outcome State Fault Refusal :=
  issue (controlDesc e) e s fun s => .ok (s.updMy fun st => st.count.uret)

/-- What the description of the row permits. -/
def sretDesc (e : Enc) : Desc :=
  { controlDesc e with priv := true }

/-- `sret` (R136, R326), privileged. -/
def execSret (e : Enc) (s : State) : Host.Outcome State Fault Refusal :=
  issue (sretDesc e) e s fun s => .ok (s.updMy fun st => st.count.sret)

/-! ### Special registers (R71, R137, R336) -/

/-- `%time` of a device: the count of the pod-synchronous 1 GHz clock (R7). -/
def State.time (s : State) (d : Nat) : Word := wordOf ((s.device d).timeUnits / timeScale)

/-- The snapshot of `%l2stat` for a partition on a die (R321); the report before the first snapshot that counts the
partition. -/
def State.l2stat (s : State) (die part : Nat) : Word :=
  (tget (s.device (die / 4)).l2stat (die * 64 + part)).getD 0x0100

/-- The value of a special register as the issuing strand reads it (R71). -/
def State.special (s : State) (k : Nat) : Word :=
  let t := s.curT
  let cl := s.cluster (clusterOf t)
  match k with
  | 0 => wordOf t
  | 1 => wordOf (slotOf t)
  | 2 => wordOf (t / 8 % 8)
  | 3 => wordOf (t / 64 % 32)
  | 4 => wordOf (t / 2048 % 4)
  | 5 => wordOf (t / 8192)
  | 6 => 2048
  | 7 => wordOf (s.now t)
  | 8 => s.time (deviceOf t)
  | 9 => s.my.fps
  | 10 => s.my.prog
  | 11 => s.me.eos.setWidth 64
  | 12 => wordOf s.me.prio
  | 13 => s.me.acc.setWidth 64
  | 14 => s.me.uvec
  | 15 => s.my.uepc
  | 16 => s.my.ucause
  | 17 => s.my.uinfo
  | 18 => s.me.syncretry.setWidth 64
  | 19 => s.l2stat (dieOf t) cl.part.toNat
  | 64 => cl.svec
  | 65 => s.my.sepc
  | 66 => s.my.scause
  | 67 => s.my.sinfo
  | 68 => cl.ptroot
  | 69 => cl.ownroot
  | 70 => cl.ctxReg
  | 71 => cl.part.setWidth 64
  | 72 => cl.watchdog
  | _ => 0

/-- The effect of writing a special register (R73, R137, R328, R336). -/
def State.setSpecial (s : State) (k : Nat) (v : Word) : State :=
  let c := clusterOf s.curT
  match k with
  | 9 => s.updMy fun st => { st with fps := keepFps v }
  | 10 => s.updMy fun st => { st with prog := v }
  | 11 => s.updThread s.curT fun th => { th with eos := v.setWidth 16 }
  | 12 => s.updThread s.curT fun th => th.setPrio (s.now s.curT) (v.extractLsb' 0 2).toNat
  | 14 => s.updThread s.curT fun th => { th with uvec := keepPc v }
  | 15 => s.updMy fun st => { st with uepc := keepPc v }
  | 16 => s.updMy fun st => { st with ucause := v }
  | 17 => s.updMy fun st => { st with uinfo := v }
  | 18 => s.updThread s.curT fun th => { th with syncretry := v.setWidth 16 }
  | 64 => s.updCluster c fun cl => { cl with svec := keepPc v }
  | 65 => s.updMy fun st => { st with sepc := keepPc v }
  | 66 => s.updMy fun st => { st with scause := v }
  | 67 => s.updMy fun st => { st with sinfo := v }
  | 68 => s.updCluster c fun cl => { cl with ptroot := keepRoot v }
  | 69 => s.updCluster c fun cl => { cl with ownroot := keepRoot v }
  | 70 => s.updCluster c fun cl => { cl with ctxReg := keepCtx v }
  | 72 => s.updCluster c fun cl => { cl with watchdog := keepWatchdog v }
  | _ => s

/-- Fields of the special-register instructions (R137). -/
def kReg : Slot := .of [.special]

/-- What the description of the row permits. -/
def kgetDesc (e : Enc) : Desc :=
  { controlDesc e with da := sReg, sa := kReg }

/-- `kget` (R137). -/
def execKget (e : Enc) (s : State) : Host.Outcome State Fault Refusal :=
  issue (kgetDesc e) e s fun s =>
    .ok (s.retire e.la false [.s e.da.idx.toNat (s.special e.sa.idx.toNat)])

/-- What the description of the row permits. -/
def ksetDesc (e : Enc) : Desc :=
  { controlDesc e with da := kReg, sa := sReg }

/-- `kset` (R137). -/
def execKset (e : Enc) (s : State) : Host.Outcome State Fault Refusal :=
  issue (ksetDesc e) e s fun s =>
    .ok ((s.setSpecial e.da.idx.toNat (s.my.getS e.sa.idx.toNat)).next)

/-- What the description of the row permits. -/
def kswapDesc (e : Enc) : Desc :=
  { controlDesc e with da := sReg, sa := kReg, sb := sReg, misuse := !specialWritable e.sa.idx.toNat }

/-- `kswap` (R137): read and replaced in one step (R73). -/
def execKswap (e : Enc) (s : State) : Host.Outcome State Fault Refusal :=
  issue (kswapDesc e) e s fun s =>
    .ok ((s.setSpecial e.sa.idx.toNat (s.my.getS e.sb.idx.toNat)).retire e.la false
      [.s e.da.idx.toNat (s.special e.sa.idx.toNat)])

end Sys2Proof.Machine
end

