-- ==== Sys2Proof/Machine/Scalar.lean ====
section
/-! DEFINITION. The scalar groups 0x10 to 0x30 (R131, R132, R138 to R150), one meaning an instruction over the shared
computations of `Flags.lean`. -/

namespace Sys2Proof.Machine

/-- TY 0x1 to 0x8. -/
def tyS8toU64 (t : Ty) : Bool := tyIsInt t
def ty32or64 (t : Ty) : Bool := t == .s32 || t == .u32 || t == .s64 || t == .u64

/-- A scalar integer instruction of two sources (R138). -/
def intDesc (e : Enc) (tyOk sat : Bool) : Desc :=
  { legal := e.fn == 0 && tyOk, satOk := sat, da := dstSlot, sa := srcSlot, sb := srcSlot }

/-- The result of a two-source integer operation on register values (R132, R138). -/
def intRes (o : IntOp) (e : Enc) (a b : Word) : Word :=
  let w := tyWidth false e.ty
  extendInt (tySigned e.ty) w (intResult o e.sat (tySigned e.ty) w a.toNat b.toNat)

/-- `add` (R138). -/
def execAdd (e : Enc) (s : State) : Host.Outcome State Fault Refusal :=
  issue (intDesc e (tyS8toU64 e.ty) true) e s (scalarOp false e fun a b => (intRes .add e a b, []))
/-- `sub` (R138). -/
def execSub (e : Enc) (s : State) : Host.Outcome State Fault Refusal :=
  issue (intDesc e (tyS8toU64 e.ty) true) e s (scalarOp false e fun a b => (intRes .sub e a b, []))
/-- `mul` (R138). -/
def execMul (e : Enc) (s : State) : Host.Outcome State Fault Refusal :=
  issue (intDesc e (tyS8toU64 e.ty) true) e s (scalarOp false e fun a b => (intRes .mul e a b, []))
/-- `mulh` (R138). -/
def execMulh (e : Enc) (s : State) : Host.Outcome State Fault Refusal :=
  issue (intDesc e (ty32or64 e.ty) false) e s (scalarOp false e fun a b => (intRes .mulh e a b, []))
/-- `div` (R138), long. -/
def execDiv (e : Enc) (s : State) : Host.Outcome State Fault Refusal :=
  issue (intDesc e (tyS8toU64 e.ty) true) e s (scalarOp true e fun a b => (intRes .div e a b, []))
/-- `rem` (R138), long. -/
def execRem (e : Enc) (s : State) : Host.Outcome State Fault Refusal :=
  issue (intDesc e (tyS8toU64 e.ty) false) e s (scalarOp true e fun a b => (intRes .rem e a b, []))
/-- `min` (R138). -/
def execMin (e : Enc) (s : State) : Host.Outcome State Fault Refusal :=
  issue (intDesc e (tyS8toU64 e.ty) false) e s (scalarOp false e fun a b => (intRes .min e a b, []))
/-- `max` (R138). -/
def execMax (e : Enc) (s : State) : Host.Outcome State Fault Refusal :=
  issue (intDesc e (tyS8toU64 e.ty) false) e s (scalarOp false e fun a b => (intRes .max e a b, []))

/-- D + A · B with one clamp or wrap, D read as the element type (R138). -/
def madRes (e : Enc) (d a b : Word) : Word :=
  let w := tyWidth false e.ty
  let sg := tySigned e.ty
  extendInt sg w (narrowInt e.sat sg w (intOf sg w d.toNat + intOf sg w a.toNat * intOf sg w b.toNat))

/-- What the description of the row permits. -/
def madDesc (e : Enc) : Desc :=
  { intDesc e (tyS8toU64 e.ty) true with da := sReg }

/-- `mad` (R138): D is read before it is written and is class 0 only (R131). -/
def execMad (e : Enc) (s : State) : Host.Outcome State Fault Refusal :=
  issue (madDesc e) e s fun s =>
    scalarOp false e (fun a b => (madRes e (s.my.getS e.da.idx.toNat) a b, [])) s

/-- |A|, clamped or wrapped (R138). -/
def absRes (e : Enc) (a : Word) : Word :=
  let w := tyWidth false e.ty
  let x := intOf true w a.toNat
  extendInt true w (narrowInt e.sat true w x.natAbs)

/-- What the description of the row permits. -/
def absDesc (e : Enc) : Desc :=
  { intDesc e (tyIsInt e.ty && tySigned e.ty) true with sb := .unused }

/-- `abs` (R138). -/
def execAbs (e : Enc) (s : State) : Host.Outcome State Fault Refusal :=
  issue (absDesc e) e s
    (scalarOp false e fun a _ => (absRes e a, []))

/-- What the description of the row permits. -/
def selDesc (e : Enc) : Desc :=
  { legal := e.fn == 0 && e.ty == .b, da := dstSlot, sa := .of [.scalar, .queue], sb := .of [.scalar, .queue]
    imm := .role (e.imm.extractLsb' 5 19 == 0) }

/-- `sel` (R139): the selector is bit 0 of pn, n = IMM[3:0], negated by IMM[4]. -/
def execSel (e : Enc) (s : State) : Host.Outcome State Fault Refusal :=
  issue (selDesc e) e s fun s =>
    let c := ((s.my.getP (e.imm.extractLsb' 0 4).toNat).getLsbD 0) != e.imm.getLsbD 4
    scalarOp false e (fun a b => (if c then a else b, [])) s

/-- What the description of the row permits. -/
def ldiDesc (e : Enc) : Desc :=
  { legal := e.fn == 0 && e.ty == .none, da := sReg, imm := .role true }

/-- `ldi` (R140). -/
def execLdi (e : Enc) (s : State) : Host.Outcome State Fault Refusal :=
  issue (ldiDesc e) e s fun s =>
    .ok (s.retire e.la false [.s e.da.idx.toNat (sextImm e.imm)])

/-- Piece n of D replaced by IMM (R61, R140). -/
def ldpRes (n : Nat) (imm : BitVec 24) (d : Word) : Word :=
  match n with
  | 0 => (d &&& 0xFFFFFFFFFF000000) ||| imm.setWidth 64
  | 1 => (d &&& 0xFFFF000000FFFFFF) ||| ((imm.setWidth 64) <<< 24)
  | _ => (d &&& 0x0000FFFFFFFFFFFF) ||| ((imm.setWidth 64) <<< 48)

/-- What the description of the row permits. -/
def ldpDesc (e : Enc) : Desc :=
  { legal := e.fn.toNat ≤ 2 && e.ty == .none, da := sReg
    imm := .role (e.fn != 2 || e.imm.extractLsb' 16 8 == 0) }

/-- `ldp` (R140): FN is the piece, 0 to 2. -/
def execLdp (e : Enc) (s : State) : Host.Outcome State Fault Refusal :=
  issue (ldpDesc e) e s fun s =>
    .ok (s.retire e.la false [.s e.da.idx.toNat (ldpRes e.fn.toNat e.imm (s.my.getS e.da.idx.toNat))])

/-- The bitwise group (R141). -/
def bitDesc (e : Enc) : Desc := { legal := e.fn == 0 && e.ty == .b, da := dstSlot, sa := srcSlot, sb := srcSlot }

/-- `and` (R141). -/
def execAnd (e : Enc) (s : State) : Host.Outcome State Fault Refusal :=
  issue (bitDesc e) e s (scalarOp false e fun a b => (BitOp.and.eval a b, []))
/-- `or` (R141). -/
def execOr (e : Enc) (s : State) : Host.Outcome State Fault Refusal :=
  issue (bitDesc e) e s (scalarOp false e fun a b => (BitOp.or.eval a b, []))
/-- `xor` (R141). -/
def execXor (e : Enc) (s : State) : Host.Outcome State Fault Refusal :=
  issue (bitDesc e) e s (scalarOp false e fun a b => (BitOp.xor.eval a b, []))
/-- `andn` (R141). -/
def execAndn (e : Enc) (s : State) : Host.Outcome State Fault Refusal :=
  issue (bitDesc e) e s (scalarOp false e fun a b => (BitOp.andn.eval a b, []))

/-- The shifts take u32 or u64, `sar` s32 or s64 (R142). -/
def shiftDesc (e : Enc) (sar : Bool) : Desc :=
  { legal := e.fn == 0 && (if sar then e.ty == .s32 || e.ty == .s64 else e.ty == .u32 || e.ty == .u64)
    da := dstSlot, sa := srcSlot, sb := srcSlot }

def shiftRes (o : ShiftOp) (e : Enc) (a b : Word) : Word :=
  let w := tyWidth false e.ty
  extendInt (tySigned e.ty) w (o.eval w a.toNat b.toNat)

/-- `shl` (R142). -/
def execShl (e : Enc) (s : State) : Host.Outcome State Fault Refusal :=
  issue (shiftDesc e false) e s (scalarOp false e fun a b => (shiftRes .shl e a b, []))
/-- `shr` (R142). -/
def execShr (e : Enc) (s : State) : Host.Outcome State Fault Refusal :=
  issue (shiftDesc e false) e s (scalarOp false e fun a b => (shiftRes .shr e a b, []))
/-- `sar` (R142). -/
def execSar (e : Enc) (s : State) : Host.Outcome State Fault Refusal :=
  issue (shiftDesc e true) e s (scalarOp false e fun a b => (shiftRes .sar e a b, []))
/-- `rotl` (R142). -/
def execRotl (e : Enc) (s : State) : Host.Outcome State Fault Refusal :=
  issue (shiftDesc e false) e s (scalarOp false e fun a b => (shiftRes .rotl e a b, []))

/-- The bit counts (R143). -/
def countDesc (e : Enc) : Desc :=
  { legal := e.fn == 0 && (e.ty == .u32 || e.ty == .u64), da := dstSlot, sa := srcSlot }

/-- `clz` (R143). -/
def execClz (e : Enc) (s : State) : Host.Outcome State Fault Refusal :=
  issue (countDesc e) e s (scalarOp false e fun a _ =>
    (wordOf (clzNat (tyWidth false e.ty) (a.toNat % 2 ^ tyWidth false e.ty)), []))
/-- `ctz` (R143). -/
def execCtz (e : Enc) (s : State) : Host.Outcome State Fault Refusal :=
  issue (countDesc e) e s (scalarOp false e fun a _ =>
    (wordOf (ctzNat (tyWidth false e.ty) (a.toNat % 2 ^ tyWidth false e.ty)), []))
/-- `popc` (R143). -/
def execPopc (e : Enc) (s : State) : Host.Outcome State Fault Refusal :=
  issue (countDesc e) e s (scalarOp false e fun a _ =>
    (wordOf (popcNat (tyWidth false e.ty) (a.toNat % 2 ^ tyWidth false e.ty)), []))

/-- LEN and POS of a bit field (R144). -/
def fieldLen (e : Enc) : Nat := (e.imm.extractLsb' 6 7).toNat
def fieldPos (e : Enc) : Nat := (e.imm.extractLsb' 0 6).toNat
def fieldOk (e : Enc) : Bool :=
  e.imm.extractLsb' 13 11 == 0 && 1 ≤ fieldLen e && fieldLen e ≤ 64 && fieldPos e + fieldLen e ≤ 64

/-- The field of A, extended by TY (R144). -/
def bfxRes (e : Enc) (a : Word) : Word :=
  extendInt (e.ty == .s64) (fieldLen e) (a.toNat / 2 ^ fieldPos e)

/-- D with the field replaced by A[LEN−1:0] (R144). -/
def bfiRes (e : Enc) (d a : Word) : Word :=
  let m := wordOf ((2 ^ fieldLen e - 1) * 2 ^ fieldPos e)
  (d &&& ~~~m) ||| ((a <<< fieldPos e) &&& m)

/-- What the description of the row permits. -/
def bfxDesc (e : Enc) : Desc :=
  { legal := e.fn == 0 && (e.ty == .u64 || e.ty == .s64), da := dstSlot, sa := .of [.scalar, .queue]
    imm := .role (fieldOk e) }

/-- `bfx` (R144). -/
def execBfx (e : Enc) (s : State) : Host.Outcome State Fault Refusal :=
  issue (bfxDesc e) e s (scalarOp false e fun a _ => (bfxRes e a, []))
/-- What the description of the row permits. -/
def bfiDesc (e : Enc) : Desc :=
  { legal := e.fn == 0 && e.ty == .b, da := sReg, sa := .of [.scalar, .queue], imm := .role (fieldOk e) }

/-- `bfi` (R144): D is read before it is written. -/
def execBfi (e : Enc) (s : State) : Host.Outcome State Fault Refusal :=
  issue (bfiDesc e) e s
    fun s => scalarOp false e (fun a _ => (bfiRes e (s.my.getS e.da.idx.toNat) a, [])) s

/-- A compare: read SA then SB, write every bit of pD (R145, R148). -/
def compareOp (e : Enc) (f : Word → Word → Bool × BitVec 5) (s : State) : Except Stop State :=
  match s.readPair e with
  | .error x => .error x
  | .ok ((a, b), ws, s') =>
    let r := f a b
    .ok (s'.retire e.la (popsQueue e) (ws ++ [.fps r.2, .p e.da.idx.toNat (BitVec.allOnes 256) (allBits r.1)]))

/-- What the description of the row permits. -/
def cmpDesc (e : Enc) : Desc :=
  { legal := e.fn.toNat ≤ 9 && (e.ty == .s32 || e.ty == .s64), da := pRegSlot, sa := srcSlot, sb := srcSlot }

/-- `cmp` (R145): FN is the relation. -/
def execCmp (e : Enc) (s : State) : Host.Outcome State Fault Refusal :=
  issue (cmpDesc e) e s
    (compareOp e fun a b => (intRel e.fn.toNat (tyWidth false e.ty) a.toNat b.toNat, 0))

/-- The six predicate operations (R146). -/
def plogRes (fn : Nat) (a b : PReg) : PReg :=
  match fn with
  | 0 => a &&& b | 1 => a ||| b | 2 => a ^^^ b | 3 => a &&& ~~~b | 4 => ~~~a | _ => a

/-- What the description of the row permits. -/
def plogDesc (e : Enc) : Desc :=
  { legal := e.fn.toNat ≤ 5 && e.ty == .none, da := pRegSlot, sa := pRegSlot
    sb := if e.fn.toNat ≤ 3 then pRegSlot else .unused }

/-- `plog` (R146). -/
def execPlog (e : Enc) (s : State) : Host.Outcome State Fault Refusal :=
  issue (plogDesc e) e s fun s =>
    let r := plogRes e.fn.toNat (s.my.getP e.sa.idx.toNat) (s.my.getP e.sb.idx.toNat)
    .ok (s.retire e.la false [.p e.da.idx.toNat (BitVec.allOnes 256) r])

/-! ### Scalar floating point (R147 to R150) -/

def floatDesc (e : Enc) (rnd : Bool) : Desc :=
  { legal := e.fn == 0 && tyIsFloat e.ty, rmOk := rnd, satOk := rnd, ftzOk := true, da := dstSlot, sa := srcSlot
    sb := srcSlot }

/-- Result word and flags of a floating-point operation (R132, R147). -/
def fResult (r : FRes) : Word × List RegWrite := (wordOf r.1, [.fps r.2])

def fBin (o : FOp) (e : Enc) (a b : Word) : Word × List RegWrite :=
  fResult (o.eval (fmtOf e.ty) e.rm e.ftz e.sat (a.toNat % 2 ^ (fmtOf e.ty).width) (b.toNat % 2 ^ (fmtOf e.ty).width))

/-- `fadd` (R147). -/
def execFadd (e : Enc) (s : State) : Host.Outcome State Fault Refusal :=
  issue (floatDesc e true) e s (scalarOp false e (fBin .add e))
/-- `fsub` (R147). -/
def execFsub (e : Enc) (s : State) : Host.Outcome State Fault Refusal :=
  issue (floatDesc e true) e s (scalarOp false e (fBin .sub e))
/-- `fmul` (R147). -/
def execFmul (e : Enc) (s : State) : Host.Outcome State Fault Refusal :=
  issue (floatDesc e true) e s (scalarOp false e (fBin .mul e))
/-- `fdiv` (R147), long. -/
def execFdiv (e : Enc) (s : State) : Host.Outcome State Fault Refusal :=
  issue (floatDesc e true) e s (scalarOp true e (fBin .div e))
/-- `fmin` (R116, R147). -/
def execFmin (e : Enc) (s : State) : Host.Outcome State Fault Refusal :=
  issue (floatDesc e false) e s (scalarOp false e (fBin .min e))
/-- `fmax` (R116, R147). -/
def execFmax (e : Enc) (s : State) : Host.Outcome State Fault Refusal :=
  issue (floatDesc e false) e s (scalarOp false e (fBin .max e))

/-- Result of `ffma` (R147). -/
def fmaRes (e : Enc) (d a b : Word) : Word × List RegWrite :=
  let f := fmtOf e.ty
  fResult (fmaBits f e.rm e.ftz e.sat (a.toNat % 2 ^ f.width) (b.toNat % 2 ^ f.width) (d.toNat % 2 ^ f.width))

/-- What the description of the row permits. -/
def ffmaDesc (e : Enc) : Desc :=
  { floatDesc e true with da := sReg }

/-- `ffma` (R147): Round(A · B + D), D class 0 only. -/
def execFfma (e : Enc) (s : State) : Host.Outcome State Fault Refusal :=
  issue (ffmaDesc e) e s fun s =>
    scalarOp false e (fmaRes e (s.my.getS e.da.idx.toNat)) s

/-- What the description of the row permits. -/
def fsqrtDesc (e : Enc) : Desc :=
  { floatDesc e true with sb := .unused }

/-- `fsqrt` (R147), long. -/
def execFsqrt (e : Enc) (s : State) : Host.Outcome State Fault Refusal :=
  issue (fsqrtDesc e) e s (scalarOp true e fun a _ =>
    fResult (sqrtBits (fmtOf e.ty) e.rm e.ftz e.sat (a.toNat % 2 ^ (fmtOf e.ty).width)))

/-- What the description of the row permits. -/
def fcmpDesc (e : Enc) : Desc :=
  { legal := e.fn.toNat ≤ 6 && tyIsFloat e.ty, ftzOk := true, da := pRegSlot, sa := srcSlot, sb := srcSlot }

/-- `fcmp` (R148). -/
def execFcmp (e : Enc) (s : State) : Host.Outcome State Fault Refusal :=
  issue (fcmpDesc e) e s
    (compareOp e fun a b =>
      fRel e.fn.toNat (fDecode (fmtOf e.ty) e.ftz a.toNat) (fDecode (fmtOf e.ty) e.ftz b.toNat))

/-- The types between which `fcvt` converts (R149). -/
def cvtTy (t : Ty) : Bool := ty32or64 t || tyIsFloat t

/-- FN as the TY code of the source type (R149). -/
def cvtSource (e : Enc) : Ty :=
  match e.fn.toNat with
  | 0x5 => .s32 | 0x6 => .u32 | 0x7 => .s64 | 0x8 => .u64 | 0x9 => .bf16 | 0xA => .fp16 | 0xB => .fp32
  | _ => .none

def cvtLegal (e : Enc) : Bool :=
  cvtTy (cvtSource e) && cvtTy e.ty && (tyIsFloat (cvtSource e) || tyIsFloat e.ty) && cvtSource e != e.ty

/-- The result of a conversion as 64 bits (R132, R149). -/
def cvtRes (e : Enc) (a : Word) : Word × List RegWrite :=
  let r := convert (cvtSource e) e.ty e.rm e.ftz e.sat (a.toNat % 2 ^ tyWidth false (cvtSource e))
  (if tyIsFloat e.ty then wordOf r.1 else extendInt (tySigned e.ty) (tyWidth false e.ty) r.1, [.fps r.2])

/-- What the description of the row permits. -/
def fcvtDesc (e : Enc) : Desc :=
  { legal := cvtLegal e, rmOk := true, ftzOk := true, satOk := tyIsFloat (cvtSource e) && tyIsFloat e.ty
    da := dstSlot, sa := .of [.scalar, .queue] }

/-- `fcvt` (R149). -/
def execFcvt (e : Enc) (s : State) : Host.Outcome State Fault Refusal :=
  issue (fcvtDesc e) e s (scalarOp false e fun a _ => cvtRes e a)

/-- What the description of the row permits. -/
def fsgnDesc (e : Enc) : Desc :=
  { legal := e.fn.toNat ≤ 2 && tyIsFloat e.ty, da := dstSlot, sa := srcSlot, sb := srcSlot }

/-- `fsgn` (R150). -/
def execFsgn (e : Enc) (s : State) : Host.Outcome State Fault Refusal :=
  issue (fsgnDesc e) e s
    (scalarOp false e fun a b => (wordOf (fSgn (fmtOf e.ty) e.fn.toNat a.toNat b.toNat), []))

/-- What the description of the row permits. -/
def fclassDesc (e : Enc) : Desc :=
  { legal := e.fn == 0 && tyIsFloat e.ty, da := dstSlot, sa := srcSlot }

/-- `fclass` (R150). -/
def execFclass (e : Enc) (s : State) : Host.Outcome State Fault Refusal :=
  issue (fclassDesc e) e s
    (scalarOp false e fun a _ => (wordOf (fClass (fmtOf e.ty) a.toNat), []))

end Sys2Proof.Machine
end

