-- ==== Sys2Proof/Machine/Vector.lean ====
section
/-! DEFINITION. Vector instructions of groups 0x40 to 0x60 (R159 to R183): element by element under the guard,
permutations, reductions and scans, predicates and lengths. -/

namespace Sys2Proof.Machine

/-! ### Elements -/

/-- Elements of w bits in a vector register (R119). -/
def lanes (w : Nat) : Nat := 2048 / w

/-- One value in every element. -/
def bcastV (w v : Nat) : VReg := packElems w ((List.range (lanes w)).map fun i => (i, v))

/-- A vector source of any class (R160). -/
def State.readVecSrc (s : State) (e : Enc) (w : Nat) (o : Operand) : Read VReg :=
  match o.cls with
  | .vector => .ok (s.me.getV o.idx.toNat, [], s)
  | .scalar => .ok (bcastV w (s.my.getS o.idx.toNat).toNat, [], s)
  | .immediate => .ok (bcastV w (immValue e.ty e.imm).toNat, [], s)
  | .queue => s.popVector o.idx.toNat
  | _ => .ok (0, [], s)

/-- Bits of a predicate register under the elements that a guard enables (R60). -/
def predMask (g : PReg) (w : Nat) : PReg :=
  BitVec.ofNat 256 ((List.range (lanes w)).foldl
    (fun a i => if laneOn g w i then a + (2 ^ (w / 8) - 1) * 2 ^ (w / 8 * i) else a) 0)

/-- Every bit of each listed element set (R60). -/
def predOf (w : Nat) (l : List Nat) : PReg :=
  BitVec.ofNat 256 (l.foldl (fun a i => a + (2 ^ (w / 8) - 1) * 2 ^ (w / 8 * i)) 0)

/-- OR of the flags of the enabled elements (R162). -/
def orFlags (l : List FRes) : BitVec 5 := l.foldl (fun a r => a ||| r.2) 0

/-- Sources of most vector instructions (R159). -/
def vSrcA : Slot := .of [.vector, .queue]
def vSrcB : Slot := .of [.vector, .scalar, .queue, .immediate]

/-- The fields of a vector instruction of two sources (R159). -/
def vecDesc (legal : Bool) : Desc :=
  { legal := legal, da := vDst, sa := vSrcA, sb := vSrcB, xOnly := true, vec := true }

/-- An element-wise instruction: both sources read, each enabled element computed, flags and result written. The old
value of D is read for the instructions that name it as a source. -/
def vectorOp (long : Bool) (e : Enc) (f : Nat → Nat → Nat → FRes) (s : State) : Except Stop State := do
  let w := tyWidth true e.ty
  let long := long || popsQueue e
  let _ ← s.needRoom e.da 1 long
  let (a, wa, s) ← s.readVecSrc e w e.sa
  let (b, wb, s) ← (s.readVecSrc e w e.sb).after e.sa
  let d := s.me.getV e.da.idx.toNat
  let g := s.my.guard e
  let rs := (enabledElems s.my e w).map fun i => (i, f (elemOf w d i) (elemOf w a i) (elemOf w b i))
  let v := packElems w (rs.map fun r => (r.1, r.2.1))
  pure (s.retire e.la long (wa ++ wb ++ [.fps (orFlags (rs.map (·.2))), destWriteV s.my e.da (elemMask g w) v]))

/-- An element-wise compare into a predicate (R161). -/
def vectorCompare (e : Enc) (f : Nat → Nat → Bool × BitVec 5) (s : State) : Except Stop State := do
  let w := tyWidth true e.ty
  let (a, wa, s) ← s.readVecSrc e w e.sa
  let (b, wb, s) ← (s.readVecSrc e w e.sb).after e.sa
  let g := s.my.guard e
  let rs := (enabledElems s.my e w).map fun i => (i, f (elemOf w a i) (elemOf w b i))
  let on := (rs.filter fun r => r.2.1).map (·.1)
  pure (s.retire e.la (popsQueue e) (wa ++ wb ++
    [.fps (rs.foldl (fun a r => a ||| r.2.2) 0), .p e.da.idx.toNat (predMask g w) (predOf w on)]))

/-! ### Integer (R163 to R166) -/

def vecIntDesc (e : Enc) (sat : Bool) : Desc := { vecDesc (e.fn == 0 && tyIsInt e.ty) with satOk := sat }

def vecInt (o : IntOp) (e : Enc) : Nat → Nat → Nat → FRes :=
  fun _ a b => (intResult o e.sat (tySigned e.ty) (tyWidth true e.ty) a b, 0)

/-- `vadd` (R163). -/
def execVadd (e : Enc) (s : State) : Host.Outcome State Fault Refusal :=
  issue (vecIntDesc e true) e s (vectorOp false e (vecInt .add e))
/-- `vsub` (R163). -/
def execVsub (e : Enc) (s : State) : Host.Outcome State Fault Refusal :=
  issue (vecIntDesc e true) e s (vectorOp false e (vecInt .sub e))
/-- `vmul` (R163). -/
def execVmul (e : Enc) (s : State) : Host.Outcome State Fault Refusal :=
  issue (vecIntDesc e true) e s (vectorOp false e (vecInt .mul e))
/-- `vmulh` (R163). -/
def execVmulh (e : Enc) (s : State) : Host.Outcome State Fault Refusal :=
  issue (vecIntDesc e false) e s (vectorOp false e (vecInt .mulh e))
/-- `vmin` (R163). -/
def execVmin (e : Enc) (s : State) : Host.Outcome State Fault Refusal :=
  issue (vecIntDesc e false) e s (vectorOp false e (vecInt .min e))
/-- `vmax` (R163). -/
def execVmax (e : Enc) (s : State) : Host.Outcome State Fault Refusal :=
  issue (vecIntDesc e false) e s (vectorOp false e (vecInt .max e))

/-- D + A · B, exact before one narrowing (R163). -/
def madElem (e : Enc) (d a b : Nat) : FRes :=
  let w := tyWidth true e.ty
  let sg := tySigned e.ty
  (narrowInt e.sat sg w (intOf sg w d + intOf sg w a * intOf sg w b), 0)

/-- What the description of the row permits. -/
def vmadDesc (e : Enc) : Desc :=
  { vecIntDesc e true with da := vReg }

/-- `vmad` (R163). -/
def execVmad (e : Enc) (s : State) : Host.Outcome State Fault Refusal :=
  issue (vmadDesc e) e s (vectorOp false e (madElem e))

/-- What the description of the row permits. -/
def vabsDesc (e : Enc) : Desc :=
  { vecIntDesc e true with legal := e.fn == 0 && tyIsInt e.ty && tySigned e.ty, sb := .unused }

/-- `vabs` (R163). -/
def execVabs (e : Enc) (s : State) : Host.Outcome State Fault Refusal :=
  issue (vabsDesc e) e s
    (vectorOp false e fun _ a _ =>
      (narrowInt e.sat true (tyWidth true e.ty) (intOf true (tyWidth true e.ty) a).natAbs, 0))

def vecBit (o : BitOp) : Nat → Nat → Nat → FRes :=
  fun _ a b => ((o.eval (BitVec.ofNat 64 a) (BitVec.ofNat 64 b)).toNat, 0)

def vecBitDesc (e : Enc) : Desc := vecDesc (e.fn == 0 && e.ty == .b)

/-- `vand` (R164). -/
def execVand (e : Enc) (s : State) : Host.Outcome State Fault Refusal := issue (vecBitDesc e) e s (vectorOp false e (vecBit .and))
/-- `vor` (R164). -/
def execVor (e : Enc) (s : State) : Host.Outcome State Fault Refusal := issue (vecBitDesc e) e s (vectorOp false e (vecBit .or))
/-- `vxor` (R164). -/
def execVxor (e : Enc) (s : State) : Host.Outcome State Fault Refusal := issue (vecBitDesc e) e s (vectorOp false e (vecBit .xor))

def vecShift (o : ShiftOp) (e : Enc) : Nat → Nat → Nat → FRes := fun _ a b => (o.eval (tyWidth true e.ty) a b, 0)

/-- `vshl` (R164). -/
def execVshl (e : Enc) (s : State) : Host.Outcome State Fault Refusal :=
  issue (vecDesc (e.fn == 0 && tyIsInt e.ty && !tySigned e.ty)) e s (vectorOp false e (vecShift .shl e))
/-- `vshr` (R164). -/
def execVshr (e : Enc) (s : State) : Host.Outcome State Fault Refusal :=
  issue (vecDesc (e.fn == 0 && tyIsInt e.ty && !tySigned e.ty)) e s (vectorOp false e (vecShift .shr e))
/-- `vsar` (R164). -/
def execVsar (e : Enc) (s : State) : Host.Outcome State Fault Refusal :=
  issue (vecDesc (e.fn == 0 && tyIsInt e.ty && tySigned e.ty)) e s (vectorOp false e (vecShift .sar e))

/-- What the description of the row permits. -/
def vcmpDesc (e : Enc) : Desc :=
  { vecDesc (e.fn.toNat ≤ 9 && tyIsInt e.ty && tySigned e.ty) with da := pRegSlot }

/-- `vcmp` (R165). -/
def execVcmp (e : Enc) (s : State) : Host.Outcome State Fault Refusal :=
  issue (vcmpDesc e) e s
    (vectorCompare e fun a b => (intRel e.fn.toNat (tyWidth true e.ty) a b, 0))

/-- Element types of the move instructions (R162). -/
def moveTy (t : Ty) : Bool := memTy t

/-- What the description of the row permits. -/
def vselDesc (e : Enc) : Desc :=
  { vecDesc (e.fn == 0 && moveTy e.ty) with
    sa := .of [.vector, .scalar, .queue], sb := .of [.vector, .scalar, .queue]
    imm := .role (e.imm.extractLsb' 5 19 == 0) }

/-- `vsel` (R166): IMM names the predicate and its negation. -/
def execVsel (e : Enc) (s : State) : Host.Outcome State Fault Refusal :=
  issue (vselDesc e) e s fun s => do
    let w := tyWidth true e.ty
    let _ ← s.needRoom e.da 1 (popsQueue e)
    let (a, wa, s) ← s.readVecSrc e w e.sa
    let (b, wb, s) ← (s.readVecSrc e w e.sb).after e.sa
    let p := s.my.getP (e.imm.extractLsb' 0 4).toNat
    let pick (i : Nat) : Nat := if laneOn p w i != e.imm.getLsbD 4 then elemOf w a i else elemOf w b i
    let v := packElems w ((enabledElems s.my e w).map fun i => (i, pick i))
    pure (s.retire e.la (popsQueue e) (wa ++ wb ++ [destWriteV s.my e.da (elemMask (s.my.guard e) w) v]))

/-! ### Floating point (R167 to R172) -/

def vecFloatDesc (e : Enc) (rnd : Bool) : Desc :=
  { vecDesc (e.fn == 0 && tyIsFloat e.ty) with rmOk := rnd, satOk := rnd, ftzOk := true }

def vecFloat (o : FOp) (e : Enc) : Nat → Nat → Nat → FRes := fun _ a b => o.eval (fmtOf e.ty) e.rm e.ftz e.sat a b

/-- `vfadd` (R167). -/
def execVfadd (e : Enc) (s : State) : Host.Outcome State Fault Refusal :=
  issue (vecFloatDesc e true) e s (vectorOp false e (vecFloat .add e))
/-- `vfsub` (R167). -/
def execVfsub (e : Enc) (s : State) : Host.Outcome State Fault Refusal :=
  issue (vecFloatDesc e true) e s (vectorOp false e (vecFloat .sub e))
/-- `vfmul` (R167). -/
def execVfmul (e : Enc) (s : State) : Host.Outcome State Fault Refusal :=
  issue (vecFloatDesc e true) e s (vectorOp false e (vecFloat .mul e))
/-- What the description of the row permits. -/
def vffmaDesc (e : Enc) : Desc :=
  { vecFloatDesc e true with da := vReg }

/-- `vffma` (R167). -/
def execVffma (e : Enc) (s : State) : Host.Outcome State Fault Refusal :=
  issue (vffmaDesc e) e s
    (vectorOp false e fun d a b => fmaBits (fmtOf e.ty) e.rm e.ftz e.sat a b d)
/-- `vfdiv` (R167), long. -/
def execVfdiv (e : Enc) (s : State) : Host.Outcome State Fault Refusal :=
  issue (vecFloatDesc e true) e s (vectorOp true e (vecFloat .div e))
/-- What the description of the row permits. -/
def vfsqrtDesc (e : Enc) : Desc :=
  { vecFloatDesc e true with sb := .unused }

/-- `vfsqrt` (R167), long. -/
def execVfsqrt (e : Enc) (s : State) : Host.Outcome State Fault Refusal :=
  issue (vfsqrtDesc e) e s
    (vectorOp true e fun _ a _ => sqrtBits (fmtOf e.ty) e.rm e.ftz e.sat a)
/-- `vfmin` (R116, R167). -/
def execVfmin (e : Enc) (s : State) : Host.Outcome State Fault Refusal :=
  issue (vecFloatDesc e false) e s (vectorOp false e (vecFloat .min e))
/-- `vfmax` (R116, R167). -/
def execVfmax (e : Enc) (s : State) : Host.Outcome State Fault Refusal :=
  issue (vecFloatDesc e false) e s (vectorOp false e (vecFloat .max e))

/-- What the description of the row permits. -/
def vfcmpDesc (e : Enc) : Desc :=
  { vecDesc (e.fn.toNat ≤ 6 && tyIsFloat e.ty) with da := pRegSlot, ftzOk := true }

/-- `vfcmp` (R168). -/
def execVfcmp (e : Enc) (s : State) : Host.Outcome State Fault Refusal :=
  issue (vfcmpDesc e) e s
    (vectorCompare e fun a b =>
      fRel e.fn.toNat (fDecode (fmtOf e.ty) e.ftz a) (fDecode (fmtOf e.ty) e.ftz b))

/-- FN as the TY code of the source of `vfcvt` (R169). -/
def vcvtSource (fn : Nat) : Ty :=
  match fn with
  | 0x1 => .s8 | 0x2 => .u8 | 0x3 => .s16 | 0x4 => .u16 | 0x5 => .s32 | 0x6 => .u32 | 0x7 => .s64 | 0x8 => .u64
  | 0x9 => .bf16 | 0xA => .fp16 | 0xB => .fp32 | _ => .none

def vcvtTy (t : Ty) : Bool := tyIsInt t || tyIsFloat t

def vcvtLegal (src dst : Ty) : Bool := vcvtTy src && vcvtTy dst && (tyIsFloat src || tyIsFloat dst) && src != dst

/-- Bits of the element i at width wd inside a mask of byte lanes of width wm (R169). -/
def cvtMask (wd : Nat) (on : List Nat) (m : Nat) (clear : Bool) : VReg :=
  let base := packElems wd (on.map fun i => (i, 2 ^ wd - 1))
  if clear then base ||| ((BitVec.allOnes 2048) <<< (m * wd)) else base

/-- What the description of the row permits. -/
def vfcvtDesc (e : Enc) : Desc :=
  let src := vcvtSource e.fn.toNat
  { vecDesc (vcvtLegal src e.ty) with
    sb := .unused, rmOk := true, ftzOk := true, satOk := tyIsFloat src && tyIsFloat e.ty }

/-- `vfcvt` (R169). -/
def execVfcvt (e : Enc) (s : State) : Host.Outcome State Fault Refusal :=
  let src := vcvtSource e.fn.toNat
  issue (vfcvtDesc e) e s fun s => do
    let ws := tyWidth true src
    let wd := tyWidth true e.ty
    let wm := max ws wd
    let m := 2048 / wm
    let _ ← s.needRoom e.da 1 (popsQueue e)
    let (a, wa, s) ← s.readVecSrc e ws e.sa
    let on := (List.range m).filter fun i => laneOn (s.my.guard e) wm i
    let rs := on.map fun i => (i, convert src e.ty e.rm e.ftz e.sat (elemOf ws a i))
    let v := packElems wd (rs.map fun r => (r.1, r.2.1))
    pure (s.retire e.la (popsQueue e) (wa ++
      [.fps (orFlags (rs.map (·.2))), destWriteV s.my e.da (cvtMask wd on m (wd < ws)) v]))

/-- `vfsgn` (R170). -/
def execVfsgn (e : Enc) (s : State) : Host.Outcome State Fault Refusal :=
  issue (vecDesc (e.fn.toNat ≤ 2 && tyIsFloat e.ty)) e s
    (vectorOp false e fun _ a b => (fSgn (fmtOf e.ty) e.fn.toNat a b, 0))
/-- What the description of the row permits. -/
def vfclassDesc (e : Enc) : Desc :=
  { vecDesc (e.fn == 0 && tyIsFloat e.ty) with sb := .unused }

/-- `vfclass` (R170). -/
def execVfclass (e : Enc) (s : State) : Host.Outcome State Fault Refusal :=
  issue (vfclassDesc e) e s
    (vectorOp false e fun _ a _ => (fClass (fmtOf e.ty) a, 0))

/-- Largest exponent of the enabled elements (R125, R171). -/
def maxExponent (ty : Ty) (w : Nat) (v : VReg) (on : List Nat) : Nat :=
  on.foldl (fun m i => max m (if ty == .fp32 then elemOf w v i / 2 ^ 23 % 256 else elemOf w v i)) 0

/-- What the description of the row permits. -/
def bmaxeDesc (e : Enc) : Desc :=
  { vecDesc (e.fn == 0 && (e.ty == .u8 || e.ty == .fp32)) with da := sReg, sa := vReg, sb := .unused }

/-- `bmaxe` (R171). -/
def execBmaxe (e : Enc) (s : State) : Host.Outcome State Fault Refusal :=
  issue (bmaxeDesc e) e s fun s =>
    let w := tyWidth true e.ty
    let r := maxExponent e.ty w (s.me.getV e.sa.idx.toNat) (enabledElems s.my e w)
    .ok (s.retire e.la false [.s e.da.idx.toNat (wordOf r)])

/-- What the description of the row permits. -/
def malignDesc (e : Enc) : Desc :=
  { vecDesc (e.fn == 0 && e.ty == .s32) with
    rmOk := true, sa := vReg, sb := .of [.scalar, .immediate]
    imm := if e.sb.cls == .immediate then .role (e.imm.extractLsb' 16 8 == 0) else .operand }

/-- `malign` (R125, R172). -/
def execMalign (e : Enc) (s : State) : Host.Outcome State Fault Refusal :=
  issue (malignDesc e) e s fun s => do
    let (b, _, s) ← s.readScalar e.ty e.imm e.sb
    let d : Int := ((b.extractLsb' 8 8).toNat : Int) - ((b.extractLsb' 0 8).toNat : Int)
    vectorOp false { e with sb := ⟨.absent, 0⟩ } (fun _ a _ => (malignNat d a, 0)) s

/-! ### Permutation (R173 to R177) -/

/-- A move: the result's elements by number, of the elements enabled. -/
def moveOp (e : Enc) (long : Bool) (ws : List RegWrite) (f : Nat → Nat) (s : State) : State :=
  let w := tyWidth true e.ty
  let v := packElems w ((enabledElems s.my e w).map fun i => (i, f i))
  s.retire e.la long (ws ++ [destWriteV s.my e.da (elemMask (s.my.guard e) w) v])

/-- What the description of the row permits. -/
def vbcastDesc (e : Enc) : Desc :=
  { vecDesc (e.fn == 0 && moveTy e.ty) with sa := .of [.scalar, .immediate], sb := .unused }

/-- `vbcast` (R173). -/
def execVbcast (e : Enc) (s : State) : Host.Outcome State Fault Refusal :=
  issue (vbcastDesc e) e s fun s => do
    let _ ← s.needRoom e.da 1 false
    let (a, _, s) ← s.readScalar e.ty e.imm e.sa
    pure (moveOp e false [] (fun _ => a.toNat) s)

/-- What the description of the row permits. -/
def vbcastElDesc (e : Enc) : Desc :=
  { vecDesc (e.fn == 1 && moveTy e.ty) with sa := vReg, sb := .of [.scalar, .immediate] }

/-- `vbcast.el` (R173). -/
def execVbcastEl (e : Enc) (s : State) : Host.Outcome State Fault Refusal :=
  issue (vbcastElDesc e) e s fun s => do
    let w := tyWidth true e.ty
    let _ ← s.needRoom e.da 1 false
    let (b, _, s) ← s.readScalar e.ty e.imm e.sb
    pure (moveOp e false [] (fun _ => elemOf w (s.me.getV e.sa.idx.toNat) (b.toNat % lanes w)) s)

/-- What the description of the row permits. -/
def vpermDesc (e : Enc) : Desc :=
  { vecDesc (e.fn == 0 && moveTy e.ty) with sb := vReg }

/-- `vperm` (R174). -/
def execVperm (e : Enc) (s : State) : Host.Outcome State Fault Refusal :=
  issue (vpermDesc e) e s fun s => do
    let w := tyWidth true e.ty
    let _ ← s.needRoom e.da 1 (popsQueue e)
    let (a, wa, s) ← s.readVecSrc e w e.sa
    let b := s.me.getV e.sb.idx.toNat
    pure (moveOp e (popsQueue e) wa (fun i => elemOf w a (elemOf w b i % lanes w)) s)

/-- Element i of `vshuf` by FN (R175); c is the sequence of A's elements followed by B's. -/
def shufElem (fn w : Nat) (a b : VReg) (i : Nat) : Nat :=
  let n := lanes w
  let c (k : Nat) : Nat := if k < n then elemOf w a k else elemOf w b (k - n)
  match fn with
  | 0 => if i % 2 = 0 then elemOf w a (i / 2) else elemOf w b (i / 2)
  | 1 => if i % 2 = 0 then elemOf w a (n / 2 + i / 2) else elemOf w b (n / 2 + i / 2)
  | 2 => c (2 * i)
  | 3 => c (2 * i + 1)
  | _ => elemOf w a (n - 1 - i)

/-- What the description of the row permits. -/
def vshufDesc (e : Enc) : Desc :=
  { vecDesc (e.fn.toNat ≤ 4 && moveTy e.ty) with sb := if e.fn == 4 then .unused else vSrcB }

/-- `vshuf` (R175). -/
def execVshuf (e : Enc) (s : State) : Host.Outcome State Fault Refusal :=
  issue (vshufDesc e) e s fun s => do
    let w := tyWidth true e.ty
    let _ ← s.needRoom e.da 1 (popsQueue e)
    let (a, wa, s) ← s.readVecSrc e w e.sa
    let (b, wb, s) ← (s.readVecSrc e w e.sb).after e.sa
    pure (moveOp e (popsQueue e) (wa ++ wb) (shufElem e.fn.toNat w a b) s)

/-- What the description of the row permits. -/
def vextDesc (e : Enc) : Desc :=
  { vecDesc (e.fn == 0 && moveTy e.ty) with sa := vReg, sb := vReg, imm := .role true }

/-- `vext` (R176): a window of the two sources joined. -/
def execVext (e : Enc) (s : State) : Host.Outcome State Fault Refusal :=
  issue (vextDesc e) e s fun s => do
    let w := tyWidth true e.ty
    let n := lanes w
    let _ ← s.needRoom e.da 1 false
    let a := s.me.getV e.sa.idx.toNat
    let b := s.me.getV e.sb.idx.toNat
    let k := e.imm.toNat % n
    pure (moveOp e false [] (fun i => if i + k < n then elemOf w a (i + k) else elemOf w b (i + k - n)) s)

/-- What the description of the row permits. -/
def vextElDesc (e : Enc) : Desc :=
  { vecDesc (e.fn == 1 && moveTy e.ty) with da := sReg, sa := vReg, sb := .of [.scalar, .immediate] }

/-- `vext.el` (R176): one element, or 0 when it is disabled. -/
def execVextEl (e : Enc) (s : State) : Host.Outcome State Fault Refusal :=
  issue (vextElDesc e) e s fun s => do
    let w := tyWidth true e.ty
    let (b, _, s) ← s.readScalar e.ty e.imm e.sb
    let j := b.toNat % lanes w
    let v := if laneOn (s.my.guard e) w j then elemOf w (s.me.getV e.sa.idx.toNat) j else 0
    pure (s.retire e.la false [.s e.da.idx.toNat (extendInt (tySigned e.ty) w v)])

/-- What the description of the row permits. -/
def vinsDesc (e : Enc) : Desc :=
  { vecDesc (e.fn == 0 && moveTy e.ty) with
    da := vReg, sa := .of [.scalar, .immediate], sb := .of [.scalar, .immediate] }

/-- `vins` (R176). -/
def execVins (e : Enc) (s : State) : Host.Outcome State Fault Refusal :=
  issue (vinsDesc e) e s fun s => do
    let w := tyWidth true e.ty
    let (a, _, s) ← s.readScalar e.ty e.imm e.sa
    let (b, _, s) ← s.readScalar e.ty e.imm e.sb
    let j := b.toNat % lanes w
    let mask : VReg := if laneOn (s.my.guard e) w j then packElems w [(j, 2 ^ w - 1)] else 0
    pure (s.retire e.la false [.v e.da.idx.toNat mask (packElems w [(j, a.toNat)])])

/-- What the description of the row permits. -/
def vcompDesc (e : Enc) : Desc :=
  { vecDesc (e.fn == 0 && moveTy e.ty) with sb := .unused }

/-- `vcomp` (R177): the elements that the guard selects, packed from element 0, zero above. -/
def execVcomp (e : Enc) (s : State) : Host.Outcome State Fault Refusal :=
  issue (vcompDesc e) e s fun s => do
    let w := tyWidth true e.ty
    let _ ← s.needRoom e.da 1 (popsQueue e)
    let (a, wa, s) ← s.readVecSrc e w e.sa
    let v := packElems w (((enabledElems s.my e w).zipIdx).map fun p => (p.2, elemOf w a p.1))
    pure (s.retire e.la (popsQueue e) (wa ++ [destWriteV s.my e.da (BitVec.allOnes 2048) v]))

/-! ### Reductions and scans (R178 to R182) -/

/-- Operation of a reduction: FN, or FN − 8 for an exclusive scan, and whether TY permits it (R178). -/
def redLegal (op : Nat) (ty : Ty) : Bool :=
  if tyIsFloat ty then op ≤ 2 else (tyIsInt ty || ty == .b) && op ≤ 5

def redOp (op : Nat) (e : Enc) (a b : Nat) : FRes :=
  let w := tyWidth true e.ty
  let f := fmtOf e.ty
  if tyIsFloat e.ty then
    match op with
    | 0 => FOp.add.eval f e.rm e.ftz e.sat a b
    | 1 => FOp.min.eval f e.rm e.ftz false a b
    | _ => FOp.max.eval f e.rm e.ftz false a b
  else
    match op with
    | 0 => (intResult .add e.sat (tySigned e.ty) w a b, 0)
    | 1 => (intResult .min false (tySigned e.ty) w a b, 0)
    | 2 => (intResult .max false (tySigned e.ty) w a b, 0)
    | 3 => (Nat.land a b, 0)
    | 4 => (Nat.lor a b, 0)
    | _ => (Nat.xor a b, 0)

/-- The empty value of R178. -/
def redEmpty (op : Nat) (ty : Ty) : Nat :=
  let w := tyWidth true ty
  let f := fmtOf ty
  if tyIsFloat ty then (match op with | 0 => 0 | 1 => f.infinity false | _ => f.infinity true)
  else match op with
    | 1 => if tySigned ty then 2 ^ (w - 1) - 1 else 2 ^ w - 1
    | 2 => if tySigned ty then 2 ^ (w - 1) else 0
    | 3 => 2 ^ w - 1
    | _ => 0

/-- Fields shared by the reductions (R178). -/
def redDesc (e : Enc) (op : Nat) : Desc :=
  { vecDesc (redLegal op e.ty) with
    sa := vReg, sb := .unused, satOk := op == 0, rmOk := op == 0 && tyIsFloat e.ty, ftzOk := tyIsFloat e.ty }

/-- A node of the tree with the flags met so far. -/
def redNode (op : Nat) (e : Enc) (x y : FRes) : FRes :=
  let r := redOp op e x.1 y.1
  (r.1, x.2 ||| y.2 ||| r.2)

/-- Element i as a reduction or a scan takes it, flushed under FTZ before any other step (R110). One that no operation
combines is the result as it is, a NaN with its payload and an infinity under SAT too, with no flag: DESIGN CHOICE
(log 87). -/
def redInput (e : Enc) (v : VReg) (i : Nat) : Nat :=
  let x := elemOf (tyWidth true e.ty) v i
  if tyIsFloat e.ty then flushBits (fmtOf e.ty) e.ftz x else x

/-- Value and flags of the tree reduction (R124, R179). -/
def redTree (op : Nat) (e : Enc) (v : VReg) (g : PReg) : FRes :=
  let w := tyWidth true e.ty
  let l := (List.range (lanes w)).map fun i => if laneOn g w i then some (redInput e v i, (0 : BitVec 5)) else none
  (treeReduce (redNode op e) (lanes w).log2 l).getD (redEmpty op e.ty, 0)

/-- What the description of the row permits. -/
def vredDesc (e : Enc) : Desc :=
  { redDesc e e.fn.toNat with legal := e.fn.toNat ≤ 5 && redLegal e.fn.toNat e.ty, da := dstSlot }

/-- `vred` in its register form (R179). -/
def execVred (e : Enc) (s : State) : Host.Outcome State Fault Refusal :=
  issue (vredDesc e) e s fun s => do
    let w := tyWidth true e.ty
    let _ ← s.needRoom e.da 1 false
    let r := redTree e.fn.toNat e (s.me.getV e.sa.idx.toNat) (s.my.guard e)
    pure (s.retire e.la false [.fps r.2, destWrite s.my e.da (extendInt (tySigned e.ty) w r.1)])

/-- One entry combined into D (R180): the elements that the guard enables and that lie in the words taken. -/
def State.combineEntry (s : State) (e : Enc) (q : Nat) (en : QEntry) : State :=
  let w := tyWidth true e.ty
  let d := s.me.getV e.da.idx.toNat
  let n := 64 * (en.words - en.taken)
  let on := (enabledElems s.my e w).filter fun i => w * i + w ≤ n
  let rs := on.map fun i => (i, redOp e.fn.toNat e (elemOf w d i) (elemOf w en.unread i))
  let v := packElems w (rs.map fun r => (r.1, r.2.1))
  let mask := packElems w (on.map fun i => (i, 2 ^ w - 1))
  let th := (s.me.popTo q ((s.me.getQ q).drop 1)).setV e.da.idx.toNat (maskV mask d v)
  (s.setThread s.curT th).updMy fun st =>
    { (st.orFps (orFlags (rs.map (·.2)))).observePop q en with prog := st.prog + 1 }

/-- One round of the loop of R180: an empty queue makes the strand wait, an end-of-stream token ends the form, and so does the
entry that completes the count. Any other entry is committed and the form goes on at the strand's next issue, so that
pre-emption may fall between any two entries (R181, log 90). -/
def vredRound (e : Enc) (q : Nat) (s : State) : Except Stop State :=
  let done (s : State) : Except Stop State := .ok (s.updMy fun st => { st with prog := 0 }).next
  if s.my.prog.toNat < e.imm.toNat then
    match s.me.getQ q with
    | [] => .error (.wait (.entry q 1 true))
    | en :: r =>
      if en.eos then
        let s := s.setThread s.curT { (s.me.popTo q r) with eos := s.me.eos ||| (1#16 <<< q) }
        done (s.updMy fun st => st.observePop q en)
      else
        let s := s.combineEntry e q en
        if s.my.prog.toNat < e.imm.toNat then .error (.waitIn .more s) else done s
  else done s

/-- What the description of the row permits. -/
def vredQueueDesc (e : Enc) : Desc :=
  { redDesc e e.fn.toNat with
    legal := e.fn.toNat ≤ 5 && redLegal e.fn.toNat e.ty, da := vReg, sa := .of [.queue], imm := .role true }

/-- `vred` in its queue-fed form (R180, R181). -/
def execVredQueue (e : Enc) (s : State) : Host.Outcome State Fault Refusal :=
  issue (vredQueueDesc e) e s (vredRound e e.sa.idx.toNat)

/-- One element of a scan: accumulator, results so far, flags. -/
def scanStep (op : Nat) (excl : Bool) (e : Enc) (v : VReg) (acc : Option Nat × List (Nat × Nat) × BitVec 5) (i : Nat) :
    Option Nat × List (Nat × Nat) × BitVec 5 :=
  let x := redInput e v i
  let r : FRes := match acc.1 with
    | none => (x, 0)
    | some a => redOp op e a x
  (some r.1, (i, if excl then acc.1.getD (redEmpty op e.ty) else r.1) :: acc.2.1, acc.2.2 ||| r.2)

/-- What the description of the row permits. -/
def vscanDesc (e : Enc) : Desc :=
  let op := e.fn.toNat % 8
  { redDesc e op with legal := op ≤ 5 && redLegal op e.ty, da := vDst, sa := vSrcA }

/-- `vscan` (R182). -/
def execVscan (e : Enc) (s : State) : Host.Outcome State Fault Refusal :=
  let excl := decide (e.fn.toNat ≥ 8)
  let op := e.fn.toNat % 8
  issue (vscanDesc e) e s fun s => do
    let w := tyWidth true e.ty
    let _ ← s.needRoom e.da 1 (popsQueue e)
    let (a, wa, s) ← s.readVecSrc e w e.sa
    let r := (enabledElems s.my e w).foldl (scanStep op excl e a) (none, [], 0)
    pure (s.retire e.la (popsQueue e)
      (wa ++ [.fps r.2.2, destWriteV s.my e.da (elemMask (s.my.guard e) w) (packElems w r.2.1)]))

/-! ### Predicates and lengths (R183) -/

/-- TY of the predicate instructions (R183). -/
def lenTy (t : Ty) : Bool := tyIsInt t && !tySigned t

/-- A source of `lbc`: all 64 bits of a register, or IMM sign-extended (R183). -/
def lbcSource (s : State) (e : Enc) (o : Operand) : Nat :=
  if o.cls == .immediate then (sextImm e.imm).toNat else (s.my.getS o.idx.toNat).toNat

/-- What the description of the row permits. -/
def lbcDesc (e : Enc) : Desc :=
  { vecDesc (e.fn == 0 && lenTy e.ty) with
    da := pRegSlot, sa := .of [.scalar, .immediate], sb := .of [.scalar, .immediate] }

/-- `lbc` (R183). -/
def execLbc (e : Enc) (s : State) : Host.Outcome State Fault Refusal :=
  issue (lbcDesc e) e s fun s =>
    let w := tyWidth true e.ty
    let on := (enabledElems s.my e w).filter fun i => decide (lbcSource s e e.sa + i < lbcSource s e e.sb)
    .ok (s.retire e.la false [.p e.da.idx.toNat (predMask (s.my.guard e) w) (predOf w on)])

/-- What the description of the row permits. -/
def vlqDesc (e : Enc) : Desc :=
  { vecDesc (e.fn == 0 && moveTy e.ty) with da := sReg, sa := .unused, sb := .unused }

/-- `vlq` (R183). -/
def execVlq (e : Enc) (s : State) : Host.Outcome State Fault Refusal :=
  issue (vlqDesc e) e s fun s =>
    .ok (s.retire e.la false [.s e.da.idx.toNat (wordOf (lanes (tyWidth true e.ty)))])

/-- Enabled elements whose bit in pA is set (R183). -/
def pickedElems (s : State) (e : Enc) : List Nat :=
  let w := tyWidth true e.ty
  (enabledElems s.my e w).filter fun i => laneOn (s.my.getP e.sa.idx.toNat) w i

def predCountDesc (e : Enc) : Desc := { vecDesc (e.fn == 0 && lenTy e.ty) with da := sReg, sa := pRegSlot, sb := .unused }

/-- `pcnt` (R183). -/
def execPcnt (e : Enc) (s : State) : Host.Outcome State Fault Refusal :=
  issue (predCountDesc e) e s fun s => .ok (s.retire e.la false [.s e.da.idx.toNat (wordOf (pickedElems s e).length)])

/-- `pfirst` (R183). -/
def execPfirst (e : Enc) (s : State) : Host.Outcome State Fault Refusal :=
  issue (predCountDesc e) e s fun s =>
    .ok (s.retire e.la false [.s e.da.idx.toNat (wordOf ((pickedElems s e).head?.getD (lanes (tyWidth true e.ty))))])

/-- What the description of the row permits. -/
def psetDesc (e : Enc) : Desc :=
  { vecDesc (e.fn == 0 && lenTy e.ty) with da := pRegSlot, sa := .unused, sb := .unused, imm := .role true }

/-- `pset` (R183). -/
def execPset (e : Enc) (s : State) : Host.Outcome State Fault Refusal :=
  issue (psetDesc e) e s fun s =>
    let w := tyWidth true e.ty
    let on := (enabledElems s.my e w).filter fun i => decide (i < e.imm.toNat)
    .ok (s.retire e.la false [.p e.da.idx.toNat (predMask (s.my.guard e) w) (predOf w on)])

end Sys2Proof.Machine
end

