-- ==== Sys2Proof/Machine/Special.lean ====
section
/-! DEFINITION. Special functions (R126, R184) and Welford statistics (R127 to R130, R185 to R187).

The exact value of a special function is computed to 400 fractional bits. The results that R126 permits are the
format's values within its bound of that value, and `Config.sfPick` names one of them: a free value inside the bound
(log 8). -/

namespace Sys2Proof.Machine

/-! ### Fixed point with 400 fractional bits -/

def fxOne : Int := ((2 ^ 400 : Nat) : Int)
/-- π · 2^400, rounded down. -/
def piFix : Int :=
  0x3243f6a8885a308d313198a2e03707344a4093822299f31d0082efa98ec4e6c89452821e638d01377be5466cf34e90c6cc0ac
/-- ln 2 · 2^400, rounded down. -/
def ln2Fix : Int :=
  0xb17217f7d1cf79abc9e3b39803f2f6af40f343267298b62d8a0d175b8baafa2be7b876206debac98559552fb4afa1b10ed2e

def fxMul (a b : Int) : Int := Int.fdiv (a * b) fxOne
def fxDiv (a b : Int) : Int := Int.fdiv (a * fxOne) b

/-- Terms of e^y from the k-th on. -/
def expSeries (y : Int) : Nat → Nat → Int → Int
  | 0, _, _ => 0
  | n + 1, k, t => t + expSeries y n (k + 1) (Int.fdiv (fxMul t y) (k + 1))

/-- 2^x. -/
def exp2Fix (x : Int) : Int :=
  let i := Int.fdiv x fxOne
  if i > 600 then fxOne * fxOne * fxOne
  else if i < -600 then 0
  else
    let v := expSeries (fxMul (x - i * fxOne) ln2Fix) 90 0 fxOne
    if i ≥ 0 then v * ((2 ^ i.toNat : Nat) : Int) else Int.fdiv v ((2 ^ (-i).toNat : Nat) : Int)

/-- Terms of artanh. -/
def atanhSeries (y2 : Int) : Nat → Nat → Int → Int
  | 0, _, _ => 0
  | n + 1, k, t => Int.fdiv t (2 * k + 1) + atanhSeries y2 n (k + 1) (fxMul t y2)

/-- log2 of m · 2^e. -/
def log2Fix (m : Nat) (e : Int) : Int :=
  let top := m.log2
  let v : Int := ((m * 2 ^ 400 / 2 ^ top : Nat) : Int)
  let y := fxDiv (v - fxOne) (v + fxOne)
  (e + top) * fxOne + fxDiv (2 * atanhSeries (fxMul y y) 130 0 y) ln2Fix

/-- Terms of sine and cosine: t the term, k the next factor. -/
def trigSeries (r2 : Int) : Nat → Nat → Int → Int
  | 0, _, _ => 0
  | n + 1, k, t => t + trigSeries r2 n (k + 2) (-(Int.fdiv (fxMul t r2) (k * (k + 1))))

/-- Sine of a number that is not negative, or its cosine, by quarter turns. -/
def trigFix (cosine : Bool) (x : Int) : Int :=
  let q := Int.fdiv (2 * x) piFix
  let r := x - Int.fdiv (q * piFix) 2
  let r2 := fxMul r r
  let sn := trigSeries r2 80 2 r
  let cs := trigSeries r2 80 1 fxOne
  match ((q + if cosine then 1 else 0) % 4).toNat with
  | 0 => sn | 1 => cs | 2 => -sn | _ => -cs

/-- A sine or a cosine of a number that is not zero lies strictly between −1 and 1. -/
def belowOne (v : Int) : Int := max (1 - fxOne) (min (fxOne - 1) v)

/-- Hyperbolic tangent of a number that is not negative, always below 1. -/
def tanhFix (x : Int) : Int :=
  let u := exp2Fix (-(fxDiv (2 * x) ln2Fix))
  min (fxOne - 1) (fxDiv (fxOne - u) (fxOne + u))

/-! ### The functions (R126) -/

inductive SfOp | exp2 | log2 | rcp | rsq | sin | cos | tanh
  deriving DecidableEq, Repr

/-- OP of the instruction (R184). -/
def SfOp.code : SfOp → Nat
  | .exp2 => 0x70 | .log2 => 0x71 | .rcp => 0x72 | .rsq => 0x73 | .sin => 0x74 | .cos => 0x75 | .tanh => 0x76

/-- The bound in ulp. -/
def SfOp.bound : SfOp → Nat
  | .rcp | .rsq => 1
  | _ => 2

/-- The table of special inputs; none for "by bound". -/
def SfOp.special (o : SfOp) (f : Fmt) (v : FVal) : Option FRes :=
  let one := f.bias * 2 ^ f.fb
  match v with
  | .nan q => some (f.nan, if q then flIV else 0)
  | .inf false => some (match o with
      | .exp2 | .log2 => (f.infinity false, 0)
      | .rcp | .rsq => (0, 0)
      | .sin | .cos => (f.nan, flIV)
      | .tanh => (one, 0))
  | .inf true => some (match o with
      | .exp2 => (0, 0)
      | .rcp => (f.zeroBits true, 0)
      | .tanh => (signBit true f + one, 0)
      | _ => (f.nan, flIV))
  | .fin s 0 _ => some (match o with
      | .exp2 | .cos => (one, 0)
      | .log2 => (f.infinity true, flDZ)
      | .rcp | .rsq => (f.infinity s, flDZ)
      | .sin | .tanh => (f.zeroBits s, 0))
  | .fin true _ _ => if o = .log2 ∨ o = .rsq then some (f.nan, flIV) else none
  | .fin false _ _ => none

/-- Exponent of a number that is a power of two. -/
def powerOf (x : Exact) : Option Int := if x.m = 2 ^ x.m.log2 then some (x.e + x.m.log2) else none

/-- The exact result where R126 makes it exact. -/
def SfOp.exact (o : SfOp) (x : Exact) : Option Exact :=
  match o with
  | .exp2 =>
    if x.e ≥ 12 then none
    else
      let n := roundToInt .rtz x
      let whole := x.e ≥ 0 ∨ x.m % 2 ^ (-x.e).toNat = 0
      if whole ∧ -2000 < n ∧ n < 2000 then some ⟨false, 1, n⟩ else none
  | .log2 => (powerOf x).map fun k => ⟨decide (k < 0), k.natAbs, 0⟩
  | .rcp => (powerOf x).map fun k => ⟨x.s, 1, -k⟩
  | .rsq => (powerOf x).bind fun k => if k % 2 = 0 then some ⟨false, 1, -(k / 2)⟩ else none
  | .sin | .cos | .tanh => none

/-- The value to 400 fractional bits, of an argument that is not zero. Sine and hyperbolic tangent stay strictly below the
magnitude of their argument, and sine and cosine strictly below 1, where 400 bits do not tell: the exact value does. -/
def SfOp.approx (o : SfOp) (x : Exact) : Int :=
  let mag : Int := ((x.m * 2 ^ (x.e + 400).toNat : Nat) : Int)
  let sgn (v : Int) : Int := if x.s then -v else v
  match o with
  | .exp2 => exp2Fix (sgn mag)
  | .log2 => log2Fix x.m x.e
  | .rcp => sgn (Int.fdiv (fxOne * fxOne) mag)
  | .rsq => ((isqrt ((fxOne * fxOne * fxOne).toNat / mag.toNat) : Nat) : Int)
  | .sin => sgn (belowOne (min (mag - 1) (trigFix false mag)))
  | .cos => belowOne (trigFix true mag)
  | .tanh => sgn (min (mag - 1) (tanhFix mag))

/-- A format's finite magnitude in units of 2^−400. -/
def magFix (f : Fmt) (b : Nat) : Nat :=
  match fDecode f false b with
  | .fin _ m e => m * 2 ^ (e + 400).toNat
  | _ => 0

/-- The magnitudes that the bound permits around a value of n units; zero only below half the smallest subnormal. -/
def SfOp.candidates (o : SfOp) (f : Fmt) (n : Nat) : List Nat :=
  let top : Int := (n.log2 : Int) - 400
  let emin : Int := 1 - (f.bias : Int)
  let ulp := 2 ^ ((if top < emin then emin else top) - f.fb + 400).toNat
  let base := (roundFin f .rtz false false n (-400)).1
  let near := (List.range 7).filterMap fun i => if base + i ≥ 3 then some (base + i - 3) else none
  near.filter fun b =>
    let v := magFix f b
    decide (b ≤ f.largest false) && decide ((if v ≥ n then v - n else n - v) ≤ o.bound * ulp) &&
    (b != 0 || decide (2 * n < magFix f 1)) &&
    (!(o == .sin || o == .cos || o == .tanh) || decide (b ≤ f.bias * 2 ^ f.fb))

/-- A special function of an encoding: result bits and flags (R126). -/
def SfOp.eval (o : SfOp) (f : Fmt) (ty : Nat) (ftz sat : Bool) (b : Nat) : FRes :=
  let v := fDecode f ftz b
  let r : FRes := match o.special f v with
    | some r => r
    | none =>
      match (o.exact v.exact).filter fun x => (roundExact f .rne false x).2 == 0 with
      | some x => roundExact f .rne ftz x
      | none =>
        let t := o.approx v.exact
        let s := decide (t < 0)
        let n := max 1 t.natAbs
        if n > magFix f (f.largest false) then (f.infinity s, flOF ||| flNX)
        else
          let l := o.candidates f n
          let pick := (l[Config.sfPick o.code ty (BitVec.ofNat 32 (flushBits f ftz b)) % l.length]?).getD
            (roundFin f .rtz false false n (-400)).1
          let tiny := decide ((n.log2 : Int) - 400 < 1 - (f.bias : Int))
          let low := ftz && decide (pick < 2 ^ f.fb) && pick != 0
          (signBit s f + (if low then 0 else pick), if tiny || low then flUF ||| flNX else flNX)
  (satBits f sat r.1, r.2)

/-- Code of an element type (R65), as the free value's argument. -/
def floatCode : Ty → Nat
  | .bf16 => 0x9 | .fp16 => 0xA | _ => 0xB

def sfElem (o : SfOp) (e : Enc) : Nat → Nat → Nat → FRes :=
  fun _ a _ => o.eval (fmtOf e.ty) (floatCode e.ty) e.ftz e.sat a

/-- Fields of the special functions (R184). -/
def sfDesc (e : Enc) : Desc :=
  { vecDesc (e.fn == 0 && tyIsFloat e.ty) with sb := .unused, satOk := true, ftzOk := true }

/-- `vexp2` (R126, R184), long. -/
def execVexp2 (e : Enc) (s : State) : Host.Outcome State Fault Refusal := issue (sfDesc e) e s (vectorOp true e (sfElem .exp2 e))
/-- `vlog2` (R126, R184), long. -/
def execVlog2 (e : Enc) (s : State) : Host.Outcome State Fault Refusal := issue (sfDesc e) e s (vectorOp true e (sfElem .log2 e))
/-- `vrcp` (R126, R184), long. -/
def execVrcp (e : Enc) (s : State) : Host.Outcome State Fault Refusal := issue (sfDesc e) e s (vectorOp true e (sfElem .rcp e))
/-- `vrsq` (R126, R184), long. -/
def execVrsq (e : Enc) (s : State) : Host.Outcome State Fault Refusal := issue (sfDesc e) e s (vectorOp true e (sfElem .rsq e))
/-- `vsin` (R126, R184), long. -/
def execVsin (e : Enc) (s : State) : Host.Outcome State Fault Refusal := issue (sfDesc e) e s (vectorOp true e (sfElem .sin e))
/-- `vcos` (R126, R184), long. -/
def execVcos (e : Enc) (s : State) : Host.Outcome State Fault Refusal := issue (sfDesc e) e s (vectorOp true e (sfElem .cos e))
/-- `vtanh` (R126, R184), long. -/
def execVtanh (e : Enc) (s : State) : Host.Outcome State Fault Refusal := issue (sfDesc e) e s (vectorOp true e (sfElem .tanh e))

/-! ### Welford (R127 to R130) -/

/-- A triple of one lane, fp32 encodings, with the flags raised so far. -/
structure Triple where
  n    : Nat
  mean : Nat
  m2   : Nat
  fl   : BitVec 5

/-- `Round` of an fp32 operation under the instruction's mode. -/
def wOp (o : FOp) (e : Enc) (a b : Nat) : FRes := o.eval .fp32 e.rm e.ftz false a b
def wFma (e : Enc) (a b c : Nat) : FRes := fmaBits .fp32 e.rm e.ftz false a b c

/-- +1.0 in fp32. -/
def fp32One : Nat := 0x3F800000

/-- `welf` on one lane (R127). -/
def welfLane (e : Enc) (t : Triple) (x : FRes) : Triple :=
  let n1 := wOp .add e t.n fp32One
  let d := wOp .sub e x.1 t.mean
  let q := wOp .div e d.1 n1.1
  let mu := wOp .add e t.mean q.1
  let r := wOp .sub e x.1 mu.1
  let m := wFma e d.1 r.1 t.m2
  ⟨n1.1, mu.1, m.1, t.fl ||| x.2 ||| n1.2 ||| d.2 ||| q.2 ||| mu.2 ||| r.2 ||| m.2⟩

/-- A triple after the input flush of R110. -/
def Triple.flush (ftz : Bool) (t : Triple) : Triple :=
  ⟨flushBits .fp32 ftz t.n, flushBits .fp32 ftz t.mean, flushBits .fp32 ftz t.m2, t.fl⟩

/-- `wmerge` of two lanes (R110, R128). -/
def mergeLane (e : Enc) (a b : Triple) : Triple :=
  let a := a.flush e.ftz
  let b := b.flush e.ftz
  let fl := a.fl ||| b.fl
  if (fDecode .fp32 e.ftz a.n).isZero then { b with fl := fl }
  else if (fDecode .fp32 e.ftz b.n).isZero then { a with fl := fl }
  else
    let n := wOp .add e a.n b.n
    let d := wOp .sub e b.mean a.mean
    let k := wOp .div e b.n n.1
    let g := wOp .mul e d.1 k.1
    let mu := wOp .add e a.mean g.1
    let h := wOp .mul e a.n g.1
    let p := wOp .add e a.m2 b.m2
    let m := wFma e h.1 d.1 p.1
    ⟨n.1, mu.1, m.1, fl ||| n.2 ||| d.2 ||| k.2 ||| g.2 ||| mu.2 ||| h.2 ||| p.2 ||| m.2⟩

/-- Lane i of the triple register r. -/
def Thread.triple (th : Thread) (r i : Nat) : Triple :=
  ⟨elemOf 32 (th.getV r) i, elemOf 32 (th.getV (r + 1)) i, elemOf 32 (th.getV (r + 2)) i, 0⟩

/-- Writes of a triple register under a mask. -/
def tripleWrites (r : Nat) (mask : VReg) (l : List (Nat × Triple)) : List RegWrite :=
  [.fps (l.foldl (fun a p => a ||| p.2.fl) 0), .v r mask (packElems 32 (l.map fun p => (p.1, p.2.n))),
   .v (r + 1) mask (packElems 32 (l.map fun p => (p.1, p.2.mean))), .v (r + 2) mask (packElems 32 (l.map fun p => (p.1, p.2.m2)))]

/-- Lanes of 32 bits that the guard enables. -/
def wLanes (s : State) (e : Enc) : List Nat := (List.range 64).filter fun i => laneOn (s.my.guard e) 32 i

/-- Fields of the Welford instructions (R185). -/
def welfDesc (e : Enc) (legal : Bool) : Desc :=
  { vecDesc (e.fn == 0 && legal) with da := vReg, sa := vReg, sb := .unused, rmOk := true, ftzOk := true }

/-- What the description of the row permits. -/
def welfRowDesc (e : Enc) : Desc :=
  { welfDesc e (tyIsFloat e.ty) with misuse := decide (e.da.idx.toNat > 29) }

/-- `welf` (R127, R186). -/
def execWelf (e : Enc) (s : State) : Host.Outcome State Fault Refusal :=
  issue (welfRowDesc e) e s fun s =>
    let w := tyWidth true e.ty
    let a := s.me.getV e.sa.idx.toNat
    let l := (wLanes s e).map fun i =>
      (i, welfLane e (s.me.triple e.da.idx.toNat i)
        (if e.ty == .fp32 then (elemOf w a i, 0) else convert e.ty .fp32 .rne e.ftz false (elemOf w a i)))
    .ok (s.retire e.la true (tripleWrites e.da.idx.toNat (elemMask (s.my.guard e) 32) l))

/-- What the description of the row permits. -/
def wmergeDesc (e : Enc) : Desc :=
  { welfDesc e (e.ty == .fp32) with misuse := decide (e.da.idx.toNat > 29) || decide (e.sa.idx.toNat > 29) }

/-- `wmerge` (R128, R186). -/
def execWmerge (e : Enc) (s : State) : Host.Outcome State Fault Refusal :=
  issue (wmergeDesc e) e s fun s =>
    let l := (wLanes s e).map fun i => (i, mergeLane e (s.me.triple e.da.idx.toNat i) (s.me.triple e.sa.idx.toNat i))
    .ok (s.retire e.la true (tripleWrites e.da.idx.toNat (elemMask (s.my.guard e) 32) l))

/-- What the description of the row permits. -/
def wredDesc (e : Enc) : Desc :=
  { welfDesc e (e.ty == .fp32) with misuse := decide (e.da.idx.toNat > 29) || decide (e.sa.idx.toNat > 29) }

/-- `wred` (R124, R129, R187). -/
def execWred (e : Enc) (s : State) : Host.Outcome State Fault Refusal :=
  issue (wredDesc e) e s fun s =>
    let l := (List.range 64).map fun i =>
      if laneOn (s.my.guard e) 32 i then some ((s.me.triple e.sa.idx.toNat i).flush e.ftz) else none
    let r := (treeReduce (mergeLane e) 6 l).getD ⟨0, 0, 0, 0⟩
    .ok (s.retire e.la true (tripleWrites e.da.idx.toNat (BitVec.allOnes 2048) [(0, r)]))

/-- `wfin` on one lane: y and the flags (R130). -/
def finLane (e : Enc) (eps : Nat) (t : Triple) : FRes :=
  let v : FRes := if (fDecode .fp32 e.ftz t.n).isZero then (Fmt.fp32.nan, flIV) else wOp .div e t.m2 t.n
  let u := wOp .add e v.1 eps
  let y := SfOp.rsq.eval .fp32 0xB e.ftz false u.1
  (y.1, v.2 ||| u.2 ||| y.2)

/-- What the description of the row permits. -/
def wfinDesc (e : Enc) : Desc :=
  { welfDesc e (e.ty == .fp32) with
    sb := .of [.scalar, .immediate], misuse := decide (e.da.idx.toNat > 30) || decide (e.sa.idx.toNat > 29) }

/-- `wfin` (R130, R187). -/
def execWfin (e : Enc) (s : State) : Host.Outcome State Fault Refusal :=
  issue (wfinDesc e) e s fun s => do
    let (b, _, s) ← s.readScalar e.ty e.imm e.sb
    let mask := elemMask (s.my.guard e) 32
    let l := (wLanes s e).map fun i => (i, finLane e (b.toNat % 2 ^ 32) (s.me.triple e.sa.idx.toNat i))
    pure (s.retire e.la true
      [.fps (orFlags (l.map (·.2))), .v e.da.idx.toNat mask (s.me.getV (e.sa.idx.toNat + 1)),
       .v (e.da.idx.toNat + 1) mask (packElems 32 (l.map fun p => (p.1, p.2.1)))])

end Sys2Proof.Machine
end

