-- ==== Sys2Proof/Machine/Dispatch.lean ====
section
/-! DEFINITION. The meaning of every instruction, operation and event of the table: one arm per constructor, one call
each. -/

namespace Sys2Proof.Machine

/-- What the machine does with one instruction, or in one step of its own. -/
def exec (i : Instr) (s : State) : Host.Outcome State Fault Refusal :=
  match i with
  | .nop e => Sys2Proof.Machine.execNop e s
  | .br e => Sys2Proof.Machine.execBr e s
  | .brl e => Sys2Proof.Machine.execBrl e s
  | .jmp e => Sys2Proof.Machine.execJmp e s
  | .jmpl e => Sys2Proof.Machine.execJmpl e s
  | .dbnz e => Sys2Proof.Machine.execDbnz e s
  | .trap e => Sys2Proof.Machine.execTrap e s
  | .brk e => Sys2Proof.Machine.execBrk e s
  | .kget e => Sys2Proof.Machine.execKget e s
  | .kset e => Sys2Proof.Machine.execKset e s
  | .kswap e => Sys2Proof.Machine.execKswap e s
  | .sret e => Sys2Proof.Machine.execSret e s
  | .uret e => Sys2Proof.Machine.execUret e s
  | .add e => Sys2Proof.Machine.execAdd e s
  | .sub e => Sys2Proof.Machine.execSub e s
  | .mul e => Sys2Proof.Machine.execMul e s
  | .mulh e => Sys2Proof.Machine.execMulh e s
  | .mad e => Sys2Proof.Machine.execMad e s
  | .div e => Sys2Proof.Machine.execDiv e s
  | .rem e => Sys2Proof.Machine.execRem e s
  | .min e => Sys2Proof.Machine.execMin e s
  | .max e => Sys2Proof.Machine.execMax e s
  | .abs e => Sys2Proof.Machine.execAbs e s
  | .sel e => Sys2Proof.Machine.execSel e s
  | .ldi e => Sys2Proof.Machine.execLdi e s
  | .ldp e => Sys2Proof.Machine.execLdp e s
  | .and e => Sys2Proof.Machine.execAnd e s
  | .or e => Sys2Proof.Machine.execOr e s
  | .xor e => Sys2Proof.Machine.execXor e s
  | .andn e => Sys2Proof.Machine.execAndn e s
  | .shl e => Sys2Proof.Machine.execShl e s
  | .shr e => Sys2Proof.Machine.execShr e s
  | .sar e => Sys2Proof.Machine.execSar e s
  | .rotl e => Sys2Proof.Machine.execRotl e s
  | .clz e => Sys2Proof.Machine.execClz e s
  | .ctz e => Sys2Proof.Machine.execCtz e s
  | .popc e => Sys2Proof.Machine.execPopc e s
  | .bfx e => Sys2Proof.Machine.execBfx e s
  | .bfi e => Sys2Proof.Machine.execBfi e s
  | .cmp e => Sys2Proof.Machine.execCmp e s
  | .plog e => Sys2Proof.Machine.execPlog e s
  | .fadd e => Sys2Proof.Machine.execFadd e s
  | .fsub e => Sys2Proof.Machine.execFsub e s
  | .fmul e => Sys2Proof.Machine.execFmul e s
  | .ffma e => Sys2Proof.Machine.execFfma e s
  | .fdiv e => Sys2Proof.Machine.execFdiv e s
  | .fsqrt e => Sys2Proof.Machine.execFsqrt e s
  | .fmin e => Sys2Proof.Machine.execFmin e s
  | .fmax e => Sys2Proof.Machine.execFmax e s
  | .fcmp e => Sys2Proof.Machine.execFcmp e s
  | .fcvt e => Sys2Proof.Machine.execFcvt e s
  | .fsgn e => Sys2Proof.Machine.execFsgn e s
  | .fclass e => Sys2Proof.Machine.execFclass e s
  | .vadd e => Sys2Proof.Machine.execVadd e s
  | .vsub e => Sys2Proof.Machine.execVsub e s
  | .vmul e => Sys2Proof.Machine.execVmul e s
  | .vmulh e => Sys2Proof.Machine.execVmulh e s
  | .vmad e => Sys2Proof.Machine.execVmad e s
  | .vmin e => Sys2Proof.Machine.execVmin e s
  | .vmax e => Sys2Proof.Machine.execVmax e s
  | .vabs e => Sys2Proof.Machine.execVabs e s
  | .vand e => Sys2Proof.Machine.execVand e s
  | .vor e => Sys2Proof.Machine.execVor e s
  | .vxor e => Sys2Proof.Machine.execVxor e s
  | .vshl e => Sys2Proof.Machine.execVshl e s
  | .vshr e => Sys2Proof.Machine.execVshr e s
  | .vsar e => Sys2Proof.Machine.execVsar e s
  | .vcmp e => Sys2Proof.Machine.execVcmp e s
  | .vsel e => Sys2Proof.Machine.execVsel e s
  | .vfadd e => Sys2Proof.Machine.execVfadd e s
  | .vfsub e => Sys2Proof.Machine.execVfsub e s
  | .vfmul e => Sys2Proof.Machine.execVfmul e s
  | .vffma e => Sys2Proof.Machine.execVffma e s
  | .vfdiv e => Sys2Proof.Machine.execVfdiv e s
  | .vfsqrt e => Sys2Proof.Machine.execVfsqrt e s
  | .vfmin e => Sys2Proof.Machine.execVfmin e s
  | .vfmax e => Sys2Proof.Machine.execVfmax e s
  | .vfcmp e => Sys2Proof.Machine.execVfcmp e s
  | .vfcvt e => Sys2Proof.Machine.execVfcvt e s
  | .vfsgn e => Sys2Proof.Machine.execVfsgn e s
  | .vfclass e => Sys2Proof.Machine.execVfclass e s
  | .bmaxe e => Sys2Proof.Machine.execBmaxe e s
  | .malign e => Sys2Proof.Machine.execMalign e s
  | .vbcast e => Sys2Proof.Machine.execVbcast e s
  | .vbcastEl e => Sys2Proof.Machine.execVbcastEl e s
  | .vperm e => Sys2Proof.Machine.execVperm e s
  | .vshuf e => Sys2Proof.Machine.execVshuf e s
  | .vext e => Sys2Proof.Machine.execVext e s
  | .vextEl e => Sys2Proof.Machine.execVextEl e s
  | .vins e => Sys2Proof.Machine.execVins e s
  | .vred e => Sys2Proof.Machine.execVred e s
  | .vredQueue e => Sys2Proof.Machine.execVredQueue e s
  | .vscan e => Sys2Proof.Machine.execVscan e s
  | .vcomp e => Sys2Proof.Machine.execVcomp e s
  | .lbc e => Sys2Proof.Machine.execLbc e s
  | .vlq e => Sys2Proof.Machine.execVlq e s
  | .pcnt e => Sys2Proof.Machine.execPcnt e s
  | .pfirst e => Sys2Proof.Machine.execPfirst e s
  | .pset e => Sys2Proof.Machine.execPset e s
  | .vexp2 e => Sys2Proof.Machine.execVexp2 e s
  | .vlog2 e => Sys2Proof.Machine.execVlog2 e s
  | .vrcp e => Sys2Proof.Machine.execVrcp e s
  | .vrsq e => Sys2Proof.Machine.execVrsq e s
  | .vsin e => Sys2Proof.Machine.execVsin e s
  | .vcos e => Sys2Proof.Machine.execVcos e s
  | .vtanh e => Sys2Proof.Machine.execVtanh e s
  | .welf e => Sys2Proof.Machine.execWelf e s
  | .wmerge e => Sys2Proof.Machine.execWmerge e s
  | .wred e => Sys2Proof.Machine.execWred e s
  | .wfin e => Sys2Proof.Machine.execWfin e s
  | .ld e => Sys2Proof.Machine.execLd e s
  | .st e => Sys2Proof.Machine.execSt e s
  | .vld e => Sys2Proof.Machine.execVld e s
  | .vst e => Sys2Proof.Machine.execVst e s
  | .vlds e => Sys2Proof.Machine.execVlds e s
  | .vsts e => Sys2Proof.Machine.execVsts e s
  | .vldx e => Sys2Proof.Machine.execVldx e s
  | .vstx e => Sys2Proof.Machine.execVstx e s
  | .tld e => Sys2Proof.Machine.execTld e s
  | .vtld e => Sys2Proof.Machine.execVtld e s
  | .rdm e => Sys2Proof.Machine.execRdm e s
  | .rdmm e => Sys2Proof.Machine.execRdmm e s
  | .tstat e => Sys2Proof.Machine.execTstat e s
  | .tdrop e => Sys2Proof.Machine.execTdrop e s
  | .pull e => Sys2Proof.Machine.execPull e s
  | .pullr e => Sys2Proof.Machine.execPullr e s
  | .fence e => Sys2Proof.Machine.execFence e s
  | .clean e => Sys2Proof.Machine.execClean e s
  | .inval e => Sys2Proof.Machine.execInval e s
  | .invalI e => Sys2Proof.Machine.execInvalI e s
  | .discard e => Sys2Proof.Machine.execDiscard e s
  | .pref e => Sys2Proof.Machine.execPref e s
  | .lease e => Sys2Proof.Machine.execLease e s
  | .unlease e => Sys2Proof.Machine.execUnlease e s
  | .ldsync e => Sys2Proof.Machine.execLdsync e s
  | .ldsyncTake e => Sys2Proof.Machine.execLdsyncTake e s
  | .stsync e => Sys2Proof.Machine.execStsync e s
  | .feset e => Sys2Proof.Machine.execFeset e s
  | .festat e => Sys2Proof.Machine.execFestat e s
  | .cinc e => Sys2Proof.Machine.execCinc e s
  | .csetCount e => Sys2Proof.Machine.execCsetCount e s
  | .csetPend e => Sys2Proof.Machine.execCsetPend e s
  | .cwait e => Sys2Proof.Machine.execCwait e s
  | .cwaitPh e => Sys2Proof.Machine.execCwaitPh e s
  | .cphase e => Sys2Proof.Machine.execCphase e s
  | .bar e => Sys2Proof.Machine.execBar e s
  | .advseq e => Sys2Proof.Machine.execAdvseq e s
  | .watch e => Sys2Proof.Machine.execWatch e s
  | .unwatch e => Sys2Proof.Machine.execUnwatch e s
  | .arm e => Sys2Proof.Machine.execArm e s
  | .disarm e => Sys2Proof.Machine.execDisarm e s
  | .aadd e => Sys2Proof.Machine.execAadd e s
  | .aand e => Sys2Proof.Machine.execAand e s
  | .aor e => Sys2Proof.Machine.execAor e s
  | .axor e => Sys2Proof.Machine.execAxor e s
  | .amin e => Sys2Proof.Machine.execAmin e s
  | .amax e => Sys2Proof.Machine.execAmax e s
  | .aswp e => Sys2Proof.Machine.execAswp e s
  | .acas e => Sys2Proof.Machine.execAcas e s
  | .rsst e => Sys2Proof.Machine.execRsst e s
  | .rsld e => Sys2Proof.Machine.execRsld e s
  | .rsclr e => Sys2Proof.Machine.execRsclr e s
  | .msadd e => Sys2Proof.Machine.execMsadd e s
  | .msmul e => Sys2Proof.Machine.execMsmul e s
  | .msfma e => Sys2Proof.Machine.execMsfma e s
  | .msscale e => Sys2Proof.Machine.execMsscale e s
  | .mscopy e => Sys2Proof.Machine.execMscopy e s
  | .msfill e => Sys2Proof.Machine.execMsfill e s
  | .msrow e => Sys2Proof.Machine.execMsrow e s
  | .mszero e => Sys2Proof.Machine.execMszero e s
  | .mma e => Sys2Proof.Machine.execMma e s
  | .mring e => Sys2Proof.Machine.execMring e s
  | .scacc e => Sys2Proof.Machine.execScacc e s
  | .cld e => Sys2Proof.Machine.execCld e s
  | .cst e => Sys2Proof.Machine.execCst e s
  | .czero e => Sys2Proof.Machine.execCzero e s
  | .cstat e => Sys2Proof.Machine.execCstat e s
  | .cstatClr e => Sys2Proof.Machine.execCstatClr e s
  | .mprio e => Sys2Proof.Machine.execMprio e s
  | .rgset e => Sys2Proof.Machine.execRgset e s
  | .rgclr e => Sys2Proof.Machine.execRgclr e s
  | .rgstat e => Sys2Proof.Machine.execRgstat e s
  | .cpy e => Sys2Proof.Machine.execCpy e s
  | .cpyL2 e => Sys2Proof.Machine.execCpyL2 e s
  | .cpys e => Sys2Proof.Machine.execCpys e s
  | .send e => Sys2Proof.Machine.execSend e s
  | .sendeos e => Sys2Proof.Machine.execSendeos e s
  | .qstat e => Sys2Proof.Machine.execQstat e s
  | .park e => Sys2Proof.Machine.execPark e s
  | .spawn e => Sys2Proof.Machine.execSpawn e s
  | .reap e => Sys2Proof.Machine.execReap e s
  | .preempt e => Sys2Proof.Machine.execPreempt e s
  | .resumeJob e => Sys2Proof.Machine.execResumeJob e s
  | .resumeRun e => Sys2Proof.Machine.execResumeRun e s
  | .ctxsave e => Sys2Proof.Machine.execCtxsave e s
  | .ctxsaveDrop e => Sys2Proof.Machine.execCtxsaveDrop e s
  | .ctxload e => Sys2Proof.Machine.execCtxload e s
  | .ctxloadDrop e => Sys2Proof.Machine.execCtxloadDrop e s
  | .tlbinvCtx e => Sys2Proof.Machine.execTlbinvCtx e s
  | .tlbinvOwn e => Sys2Proof.Machine.execTlbinvOwn e s
  | .tprobeCtx e => Sys2Proof.Machine.execTprobeCtx e s
  | .tprobeOwn e => Sys2Proof.Machine.execTprobeOwn e s
  | .illegalOpcode w => Sys2Proof.Machine.execIllegalOpcode w s
  | .longOpComplete t x id => Sys2Proof.Machine.execLongOpComplete t x id s
  | .userTrapEntry => Sys2Proof.Machine.execUserTrapEntry s
  | .supervisorTrapEntry => Sys2Proof.Machine.execSupervisorTrapEntry s
  | .messageArrival => Sys2Proof.Machine.execMessageArrival s
  | .refusalReceived => Sys2Proof.Machine.execRefusalReceived s
  | .requestRepresent => Sys2Proof.Machine.execRequestRepresent s
  | .sendRepresent => Sys2Proof.Machine.execSendRepresent s
  | .spawnRecordAdmit => Sys2Proof.Machine.execSpawnRecordAdmit s
  | .spawnPlacement => Sys2Proof.Machine.execSpawnPlacement s
  | .spawnPriorityAge => Sys2Proof.Machine.execSpawnPriorityAge s
  | .clusterScrub => Sys2Proof.Machine.execClusterScrub s
  | .ticketAllocate => Sys2Proof.Machine.execTicketAllocate s
  | .ticketLineFill => Sys2Proof.Machine.execTicketLineFill s
  | .ticketLeaseExpiry => Sys2Proof.Machine.execTicketLeaseExpiry s
  | .ticketPresent => Sys2Proof.Machine.execTicketPresent s
  | .copyBlockComplete => Sys2Proof.Machine.execCopyBlockComplete s
  | .copyJobFault => Sys2Proof.Machine.execCopyJobFault s
  | .fenceComplete => Sys2Proof.Machine.execFenceComplete s
  | .feWordEvent => Sys2Proof.Machine.execFeWordEvent s
  | .remoteLdsyncRequest => Sys2Proof.Machine.execRemoteLdsyncRequest s
  | .acquireAtReleaser => Sys2Proof.Machine.execAcquireAtReleaser s
  | .pageCountPeriod => Sys2Proof.Machine.execPageCountPeriod s
  | .counterArrival => Sys2Proof.Machine.execCounterArrival s
  | .armActionRun => Sys2Proof.Machine.execArmActionRun s
  | .watchPlaceRequest => Sys2Proof.Machine.execWatchPlaceRequest s
  | .watchAnswerDelivery => Sys2Proof.Machine.execWatchAnswerDelivery s
  | .watchAnswerReoffer => Sys2Proof.Machine.execWatchAnswerReoffer s
  | .unwatchRequest => Sys2Proof.Machine.execUnwatchRequest s
  | .atomicExecute t x id => Sys2Proof.Machine.execAtomicExecute t x id s
  | .msLineComplete => Sys2Proof.Machine.execMsLineComplete s
  | .matrixOpStart => Sys2Proof.Machine.execMatrixOpStart s
  | .matrixPriorityAge => Sys2Proof.Machine.execMatrixPriorityAge s
  | .matrixOperandFetch => Sys2Proof.Machine.execMatrixOperandFetch s
  | .matrixKstep => Sys2Proof.Machine.execMatrixKstep s
  | .ringGroupForm => Sys2Proof.Machine.execRingGroupForm s
  | .ringLatchArrival => Sys2Proof.Machine.execRingLatchArrival s
  | .ringWatchdogExpiry => Sys2Proof.Machine.execRingWatchdogExpiry s
  | .regionCopyRow => Sys2Proof.Machine.execRegionCopyRow s
  | .regionCopyFault => Sys2Proof.Machine.execRegionCopyFault s
  | .l2LineInstall => Sys2Proof.Machine.execL2LineInstall s
  | .pasteEccError => Sys2Proof.Machine.execPasteEccError s
  | .l2statSnapshot => Sys2Proof.Machine.execL2statSnapshot s
  | .leaseExpiry die ctx lid => Sys2Proof.Machine.execLeaseExpiry die ctx lid s
  | .establish die n => Sys2Proof.Machine.execEstablish die n s
  | .cxcDrain die n => Sys2Proof.Machine.execCxcDrain die n s
  | .cxcRelease die n => Sys2Proof.Machine.execCxcRelease die n s
  | .circuitTuningDone die n ok => Sys2Proof.Machine.execCircuitTuningDone die n ok s
  | .circuitDrainDone die n => Sys2Proof.Machine.execCircuitDrainDone die n s
  | .tfence d g => Sys2Proof.Machine.execTfence d g s
  | .tableFenceComplete => Sys2Proof.Machine.execTableFenceComplete s
  | .requestBounce => Sys2Proof.Machine.execRequestBounce s
  | .linkAdmission => Sys2Proof.Machine.execLinkAdmission s
  | .permitGrantTimeout => Sys2Proof.Machine.execPermitGrantTimeout s
  | .linkReplay => Sys2Proof.Machine.execLinkReplay s
  | .packetForward n chk => Sys2Proof.Machine.execPacketForward n chk s
  | .packetDelivery n ok => Sys2Proof.Machine.execPacketDelivery n ok s
  | .packetAck => Sys2Proof.Machine.execPacketAck s
  | .dropNotice => Sys2Proof.Machine.execDropNotice s
  | .packetRetransmitTimeout => Sys2Proof.Machine.execPacketRetransmitTimeout s
  | .requestAnswerTimeout => Sys2Proof.Machine.execRequestAnswerTimeout s
  | .laneFailure d port => Sys2Proof.Machine.execLaneFailure d port s
  | .hostMemWrite d pa data => Sys2Proof.Machine.execHostMemWrite d pa data s
  | .hostMemRead d pa len => Sys2Proof.Machine.execHostMemRead d pa len s
  | .hostMemoryWrite d pa data => Sys2Proof.Machine.execHostMemoryWrite d pa data s
  | .registerWrite d ofs v => Sys2Proof.Machine.execRegisterWrite d ofs v s
  | .partcreate => Sys2Proof.Machine.execPartcreate s
  | .partdestroy => Sys2Proof.Machine.execPartdestroy s
  | .rekey => Sys2Proof.Machine.execRekey s
  | .loadImage => Sys2Proof.Machine.execLoadImage s
  | .drain => Sys2Proof.Machine.execDrain s
  | .online => Sys2Proof.Machine.execOnline s
  | .resetCluster => Sys2Proof.Machine.execResetCluster s
  | .chretire => Sys2Proof.Machine.execChretire s
  | .retrain => Sys2Proof.Machine.execRetrain s
  | .retrainWindowEnd die ch => Sys2Proof.Machine.execRetrainWindowEnd die ch s
  | .fwupdate => Sys2Proof.Machine.execFwupdate s
  | .firmwareActivate d blk => Sys2Proof.Machine.execFirmwareActivate d blk s
  | .getVersion => Sys2Proof.Machine.execGetVersion s
  | .getCapabilities => Sys2Proof.Machine.execGetCapabilities s
  | .negotiateAlgorithms d alg => Sys2Proof.Machine.execNegotiateAlgorithms d alg s
  | .getDigests => Sys2Proof.Machine.execGetDigests s
  | .getCertificate d slot ofs len => Sys2Proof.Machine.execGetCertificate d slot ofs len s
  | .challenge d slot nonce => Sys2Proof.Machine.execChallenge d slot nonce s
  | .getMeasurements d idx nonce => Sys2Proof.Machine.execGetMeasurements d idx nonce s
  | .keyExchange d link pub => Sys2Proof.Machine.execKeyExchange d link pub s
  | .finish d link mac => Sys2Proof.Machine.execFinish d link mac s
  | .keyUpdate d link => Sys2Proof.Machine.execKeyUpdate d link s
  | .endSession => Sys2Proof.Machine.execEndSession s
  | .tdispStop d part err => Sys2Proof.Machine.execTdispStop d part err s
  | .correctedError d blk => Sys2Proof.Machine.execCorrectedError d blk s
  | .uncorrectableError => Sys2Proof.Machine.execUncorrectableError s
  | .clusterFence => Sys2Proof.Machine.execClusterFence s
  | .deviceReset => Sys2Proof.Machine.execDeviceReset s
  | .bringupStageTimeout => Sys2Proof.Machine.execBringupStageTimeout s
  | .powerClockStep d watts => Sys2Proof.Machine.execPowerClockStep d watts s
  | .thermalThrottle d dieC hbmC => Sys2Proof.Machine.execThermalThrottle d dieC hbmC s
  | .thermalShutdown d dieC => Sys2Proof.Machine.execThermalShutdown d dieC s
  | .pldmMonitor => Sys2Proof.Machine.execPldmMonitor s
  | .pldmFwUpdate d blk image sig => Sys2Proof.Machine.execPldmFwUpdate d blk image sig s
  | .tdispLock d part => Sys2Proof.Machine.execTdispLock d part s
  | .tdispStart d part => Sys2Proof.Machine.execTdispStart d part s
  | .podMembershipSet d num q members time => Sys2Proof.Machine.execPodMembershipSet d num q members time s
  | .retrainWindowStart die ch => Sys2Proof.Machine.execRetrainWindowStart die ch s
  | .portTrainingComplete d port mode => Sys2Proof.Machine.execPortTrainingComplete d port mode s

end Sys2Proof.Machine
end

