-- ==== Sys2Proof/WellFormed.lean ====
section
/-! DEFINITION. When a term of `Instr` is one that the hardware can meet: the function field names the row (R76),
the word of ILLEGAL_OPCODE carries an unassigned OP (R75), and the names in an event row lie in their ranges
(R9, R10, R19, R197, R250). -/

namespace Sys2Proof

/-- The opcode of each instruction row (R74). -/
def Instr.op : Instr → Option (BitVec 8)
  | .nop _ => some 0x01#8
  | .br _ => some 0x02#8
  | .brl _ => some 0x03#8
  | .jmp _ => some 0x04#8
  | .jmpl _ => some 0x05#8
  | .dbnz _ => some 0x06#8
  | .trap _ => some 0x07#8
  | .brk _ => some 0x08#8
  | .kget _ => some 0x09#8
  | .kset _ => some 0x0A#8
  | .kswap _ => some 0x0B#8
  | .sret _ => some 0x0C#8
  | .uret _ => some 0x0D#8
  | .add _ => some 0x10#8
  | .sub _ => some 0x11#8
  | .mul _ => some 0x12#8
  | .mulh _ => some 0x13#8
  | .mad _ => some 0x14#8
  | .div _ => some 0x15#8
  | .rem _ => some 0x16#8
  | .min _ => some 0x17#8
  | .max _ => some 0x18#8
  | .abs _ => some 0x19#8
  | .sel _ => some 0x1A#8
  | .ldi _ => some 0x1B#8
  | .ldp _ => some 0x1C#8
  | .and _ => some 0x20#8
  | .or _ => some 0x21#8
  | .xor _ => some 0x22#8
  | .andn _ => some 0x23#8
  | .shl _ => some 0x24#8
  | .shr _ => some 0x25#8
  | .sar _ => some 0x26#8
  | .rotl _ => some 0x27#8
  | .clz _ => some 0x28#8
  | .ctz _ => some 0x29#8
  | .popc _ => some 0x2A#8
  | .bfx _ => some 0x2B#8
  | .bfi _ => some 0x2C#8
  | .cmp _ => some 0x2D#8
  | .plog _ => some 0x2E#8
  | .fadd _ => some 0x30#8
  | .fsub _ => some 0x31#8
  | .fmul _ => some 0x32#8
  | .ffma _ => some 0x33#8
  | .fdiv _ => some 0x34#8
  | .fsqrt _ => some 0x35#8
  | .fmin _ => some 0x36#8
  | .fmax _ => some 0x37#8
  | .fcmp _ => some 0x38#8
  | .fcvt _ => some 0x39#8
  | .fsgn _ => some 0x3A#8
  | .fclass _ => some 0x3B#8
  | .vadd _ => some 0x40#8
  | .vsub _ => some 0x41#8
  | .vmul _ => some 0x42#8
  | .vmulh _ => some 0x43#8
  | .vmad _ => some 0x44#8
  | .vmin _ => some 0x45#8
  | .vmax _ => some 0x46#8
  | .vabs _ => some 0x47#8
  | .vand _ => some 0x48#8
  | .vor _ => some 0x49#8
  | .vxor _ => some 0x4A#8
  | .vshl _ => some 0x4B#8
  | .vshr _ => some 0x4C#8
  | .vsar _ => some 0x4D#8
  | .vcmp _ => some 0x4E#8
  | .vsel _ => some 0x4F#8
  | .vfadd _ => some 0x50#8
  | .vfsub _ => some 0x51#8
  | .vfmul _ => some 0x52#8
  | .vffma _ => some 0x53#8
  | .vfdiv _ => some 0x54#8
  | .vfsqrt _ => some 0x55#8
  | .vfmin _ => some 0x56#8
  | .vfmax _ => some 0x57#8
  | .vfcmp _ => some 0x58#8
  | .vfcvt _ => some 0x59#8
  | .vfsgn _ => some 0x5A#8
  | .vfclass _ => some 0x5B#8
  | .bmaxe _ => some 0x5C#8
  | .malign _ => some 0x5D#8
  | .vbcast _ => some 0x60#8
  | .vbcastEl _ => some 0x60#8
  | .vperm _ => some 0x61#8
  | .vshuf _ => some 0x62#8
  | .vext _ => some 0x63#8
  | .vextEl _ => some 0x63#8
  | .vins _ => some 0x64#8
  | .vred _ => some 0x65#8
  | .vredQueue _ => some 0x65#8
  | .vscan _ => some 0x66#8
  | .vcomp _ => some 0x67#8
  | .lbc _ => some 0x68#8
  | .vlq _ => some 0x69#8
  | .pcnt _ => some 0x6A#8
  | .pfirst _ => some 0x6B#8
  | .pset _ => some 0x6C#8
  | .vexp2 _ => some 0x70#8
  | .vlog2 _ => some 0x71#8
  | .vrcp _ => some 0x72#8
  | .vrsq _ => some 0x73#8
  | .vsin _ => some 0x74#8
  | .vcos _ => some 0x75#8
  | .vtanh _ => some 0x76#8
  | .welf _ => some 0x77#8
  | .wmerge _ => some 0x78#8
  | .wred _ => some 0x79#8
  | .wfin _ => some 0x7A#8
  | .ld _ => some 0x80#8
  | .st _ => some 0x81#8
  | .vld _ => some 0x82#8
  | .vst _ => some 0x83#8
  | .vlds _ => some 0x84#8
  | .vsts _ => some 0x85#8
  | .vldx _ => some 0x86#8
  | .vstx _ => some 0x87#8
  | .tld _ => some 0x90#8
  | .vtld _ => some 0x91#8
  | .rdm _ => some 0x92#8
  | .rdmm _ => some 0x93#8
  | .tstat _ => some 0x94#8
  | .tdrop _ => some 0x95#8
  | .pull _ => some 0x96#8
  | .pullr _ => some 0x97#8
  | .fence _ => some 0xA0#8
  | .clean _ => some 0xA1#8
  | .inval _ => some 0xA2#8
  | .invalI _ => some 0xA2#8
  | .discard _ => some 0xA3#8
  | .pref _ => some 0xA4#8
  | .lease _ => some 0xA5#8
  | .unlease _ => some 0xA6#8
  | .ldsync _ => some 0xB0#8
  | .ldsyncTake _ => some 0xB0#8
  | .stsync _ => some 0xB1#8
  | .feset _ => some 0xB2#8
  | .festat _ => some 0xB3#8
  | .cinc _ => some 0xB4#8
  | .csetCount _ => some 0xB5#8
  | .csetPend _ => some 0xB5#8
  | .cwait _ => some 0xB6#8
  | .cwaitPh _ => some 0xB6#8
  | .cphase _ => some 0xB7#8
  | .bar _ => some 0xB8#8
  | .advseq _ => some 0xB9#8
  | .watch _ => some 0xBA#8
  | .unwatch _ => some 0xBB#8
  | .arm _ => some 0xBC#8
  | .disarm _ => some 0xBD#8
  | .aadd _ => some 0xC0#8
  | .aand _ => some 0xC1#8
  | .aor _ => some 0xC2#8
  | .axor _ => some 0xC3#8
  | .amin _ => some 0xC4#8
  | .amax _ => some 0xC5#8
  | .aswp _ => some 0xC6#8
  | .acas _ => some 0xC7#8
  | .rsst _ => some 0xC8#8
  | .rsld _ => some 0xC9#8
  | .rsclr _ => some 0xCA#8
  | .msadd _ => some 0xD0#8
  | .msmul _ => some 0xD1#8
  | .msfma _ => some 0xD2#8
  | .msscale _ => some 0xD3#8
  | .mscopy _ => some 0xD4#8
  | .msfill _ => some 0xD5#8
  | .msrow _ => some 0xD6#8
  | .mszero _ => some 0xD7#8
  | .mma _ => some 0xE0#8
  | .mring _ => some 0xE1#8
  | .scacc _ => some 0xE2#8
  | .cld _ => some 0xE3#8
  | .cst _ => some 0xE4#8
  | .czero _ => some 0xE5#8
  | .cstat _ => some 0xE6#8
  | .cstatClr _ => some 0xE6#8
  | .mprio _ => some 0xE7#8
  | .rgset _ => some 0xE8#8
  | .rgclr _ => some 0xE9#8
  | .rgstat _ => some 0xEA#8
  | .cpy _ => some 0xEB#8
  | .cpyL2 _ => some 0xEB#8
  | .cpys _ => some 0xEC#8
  | .send _ => some 0xF0#8
  | .sendeos _ => some 0xF1#8
  | .qstat _ => some 0xF2#8
  | .park _ => some 0xF3#8
  | .spawn _ => some 0xF4#8
  | .reap _ => some 0xF5#8
  | .preempt _ => some 0xF6#8
  | .resumeJob _ => some 0xF7#8
  | .resumeRun _ => some 0xF7#8
  | .ctxsave _ => some 0xF8#8
  | .ctxsaveDrop _ => some 0xF8#8
  | .ctxload _ => some 0xF9#8
  | .ctxloadDrop _ => some 0xF9#8
  | .tlbinvCtx _ => some 0xFA#8
  | .tlbinvOwn _ => some 0xFA#8
  | .tprobeCtx _ => some 0xFB#8
  | .tprobeOwn _ => some 0xFB#8
  | .illegalOpcode _ => none
  | .longOpComplete _ _ _ => none
  | .userTrapEntry => none
  | .supervisorTrapEntry => none
  | .messageArrival => none
  | .refusalReceived => none
  | .requestRepresent => none
  | .sendRepresent => none
  | .spawnRecordAdmit => none
  | .spawnPlacement => none
  | .spawnPriorityAge => none
  | .clusterScrub => none
  | .ticketAllocate => none
  | .ticketLineFill => none
  | .ticketLeaseExpiry => none
  | .ticketPresent => none
  | .copyBlockComplete => none
  | .copyJobFault => none
  | .fenceComplete => none
  | .feWordEvent => none
  | .remoteLdsyncRequest => none
  | .acquireAtReleaser => none
  | .pageCountPeriod => none
  | .counterArrival => none
  | .armActionRun => none
  | .watchPlaceRequest => none
  | .watchAnswerDelivery => none
  | .watchAnswerReoffer => none
  | .unwatchRequest => none
  | .atomicExecute _ _ _ => none
  | .msLineComplete => none
  | .matrixOpStart => none
  | .matrixPriorityAge => none
  | .matrixOperandFetch => none
  | .matrixKstep => none
  | .ringGroupForm => none
  | .ringLatchArrival => none
  | .ringWatchdogExpiry => none
  | .regionCopyRow => none
  | .regionCopyFault => none
  | .l2LineInstall => none
  | .pasteEccError => none
  | .l2statSnapshot => none
  | .leaseExpiry _ _ _ => none
  | .establish _ _ => none
  | .cxcDrain _ _ => none
  | .cxcRelease _ _ => none
  | .circuitTuningDone _ _ _ => none
  | .circuitDrainDone _ _ => none
  | .tfence _ _ => none
  | .tableFenceComplete => none
  | .requestBounce => none
  | .linkAdmission => none
  | .permitGrantTimeout => none
  | .linkReplay => none
  | .packetForward _ _ => none
  | .packetDelivery _ _ => none
  | .packetAck => none
  | .dropNotice => none
  | .packetRetransmitTimeout => none
  | .requestAnswerTimeout => none
  | .laneFailure _ _ => none
  | .hostMemWrite _ _ _ => none
  | .hostMemRead _ _ _ => none
  | .hostMemoryWrite _ _ _ => none
  | .registerWrite _ _ _ => none
  | .partcreate => none
  | .partdestroy => none
  | .rekey => none
  | .loadImage => none
  | .drain => none
  | .online => none
  | .resetCluster => none
  | .chretire => none
  | .retrain => none
  | .retrainWindowEnd _ _ => none
  | .fwupdate => none
  | .firmwareActivate _ _ => none
  | .getVersion => none
  | .getCapabilities => none
  | .negotiateAlgorithms _ _ => none
  | .getDigests => none
  | .getCertificate _ _ _ _ => none
  | .challenge _ _ _ => none
  | .getMeasurements _ _ _ => none
  | .keyExchange _ _ _ => none
  | .finish _ _ _ => none
  | .keyUpdate _ _ => none
  | .endSession => none
  | .tdispStop _ _ _ => none
  | .correctedError _ _ => none
  | .uncorrectableError => none
  | .clusterFence => none
  | .deviceReset => none
  | .bringupStageTimeout => none
  | .powerClockStep _ _ => none
  | .thermalThrottle _ _ _ => none
  | .thermalShutdown _ _ => none
  | .pldmMonitor => none
  | .pldmFwUpdate _ _ _ _ => none
  | .tdispLock _ _ => none
  | .tdispStart _ _ => none
  | .podMembershipSet _ _ _ _ _ => none
  | .retrainWindowStart _ _ => none
  | .portTrainingComplete _ _ _ => none

/-- The OP values that R75 leaves unassigned. -/
def opUnassigned (op : BitVec 8) : Bool :=
  let n := op.toNat
  n == 0 || (0x0E ≤ n && n ≤ 0x0F) || (0x1D ≤ n && n ≤ 0x1F) || n == 0x2F || (0x3C ≤ n && n ≤ 0x3F) ||
  (0x5E ≤ n && n ≤ 0x5F) || (0x6D ≤ n && n ≤ 0x6F) || (0x7B ≤ n && n ≤ 0x7F) || (0x88 ≤ n && n ≤ 0x8F) ||
  (0x98 ≤ n && n ≤ 0x9F) || (0xA7 ≤ n && n ≤ 0xAF) || (0xBE ≤ n && n ≤ 0xBF) || (0xCB ≤ n && n ≤ 0xCF) ||
  (0xD8 ≤ n && n ≤ 0xDF) || (0xED ≤ n && n ≤ 0xEF) || 0xFC ≤ n

/-- Packed thread names occupy 24 bits (R10). -/
def tidOk (t : Nat) : Bool := t < 0x1000000
/-- Dies (R9). -/
def dieOk (d : Nat) : Bool := d < 0x2000
/-- Devices (R9). -/
def devOk (d : Nat) : Bool := d < 0x800

/-- The row that a term names is the row that the hardware selects. -/
def Instr.wf : Instr → Bool
  | .nop _ => true
  | .br _ => true
  | .brl _ => true
  | .jmp _ => true
  | .jmpl _ => true
  | .dbnz _ => true
  | .trap _ => true
  | .brk _ => true
  | .kget _ => true
  | .kset _ => true
  | .kswap _ => true
  | .sret _ => true
  | .uret _ => true
  | .add _ => true
  | .sub _ => true
  | .mul _ => true
  | .mulh _ => true
  | .mad _ => true
  | .div _ => true
  | .rem _ => true
  | .min _ => true
  | .max _ => true
  | .abs _ => true
  | .sel _ => true
  | .ldi _ => true
  | .ldp _ => true
  | .and _ => true
  | .or _ => true
  | .xor _ => true
  | .andn _ => true
  | .shl _ => true
  | .shr _ => true
  | .sar _ => true
  | .rotl _ => true
  | .clz _ => true
  | .ctz _ => true
  | .popc _ => true
  | .bfx _ => true
  | .bfi _ => true
  | .cmp _ => true
  | .plog _ => true
  | .fadd _ => true
  | .fsub _ => true
  | .fmul _ => true
  | .ffma _ => true
  | .fdiv _ => true
  | .fsqrt _ => true
  | .fmin _ => true
  | .fmax _ => true
  | .fcmp _ => true
  | .fcvt _ => true
  | .fsgn _ => true
  | .fclass _ => true
  | .vadd _ => true
  | .vsub _ => true
  | .vmul _ => true
  | .vmulh _ => true
  | .vmad _ => true
  | .vmin _ => true
  | .vmax _ => true
  | .vabs _ => true
  | .vand _ => true
  | .vor _ => true
  | .vxor _ => true
  | .vshl _ => true
  | .vshr _ => true
  | .vsar _ => true
  | .vcmp _ => true
  | .vsel _ => true
  | .vfadd _ => true
  | .vfsub _ => true
  | .vfmul _ => true
  | .vffma _ => true
  | .vfdiv _ => true
  | .vfsqrt _ => true
  | .vfmin _ => true
  | .vfmax _ => true
  | .vfcmp _ => true
  | .vfcvt _ => true
  | .vfsgn _ => true
  | .vfclass _ => true
  | .bmaxe _ => true
  | .malign _ => true
  | .vbcast e => e.fn != 1
  | .vbcastEl e => e.fn == 1
  | .vperm _ => true
  | .vshuf _ => true
  | .vext e => e.fn != 1
  | .vextEl e => e.fn == 1
  | .vins _ => true
  | .vred e => e.sa.cls != .queue
  | .vredQueue e => e.sa.cls == .queue
  | .vscan _ => true
  | .vcomp _ => true
  | .lbc _ => true
  | .vlq _ => true
  | .pcnt _ => true
  | .pfirst _ => true
  | .pset _ => true
  | .vexp2 _ => true
  | .vlog2 _ => true
  | .vrcp _ => true
  | .vrsq _ => true
  | .vsin _ => true
  | .vcos _ => true
  | .vtanh _ => true
  | .welf _ => true
  | .wmerge _ => true
  | .wred _ => true
  | .wfin _ => true
  | .ld _ => true
  | .st _ => true
  | .vld _ => true
  | .vst _ => true
  | .vlds _ => true
  | .vsts _ => true
  | .vldx _ => true
  | .vstx _ => true
  | .tld _ => true
  | .vtld _ => true
  | .rdm _ => true
  | .rdmm _ => true
  | .tstat _ => true
  | .tdrop _ => true
  | .pull _ => true
  | .pullr _ => true
  | .fence _ => true
  | .clean _ => true
  | .inval e => e.fn != 1
  | .invalI e => e.fn == 1
  | .discard _ => true
  | .pref _ => true
  | .lease _ => true
  | .unlease _ => true
  | .ldsync e => e.fn != 1
  | .ldsyncTake e => e.fn == 1
  | .stsync _ => true
  | .feset _ => true
  | .festat _ => true
  | .cinc _ => true
  | .csetCount e => e.fn != 1
  | .csetPend e => e.fn == 1
  | .cwait e => e.fn != 1
  | .cwaitPh e => e.fn == 1
  | .cphase _ => true
  | .bar _ => true
  | .advseq _ => true
  | .watch _ => true
  | .unwatch _ => true
  | .arm _ => true
  | .disarm _ => true
  | .aadd _ => true
  | .aand _ => true
  | .aor _ => true
  | .axor _ => true
  | .amin _ => true
  | .amax _ => true
  | .aswp _ => true
  | .acas _ => true
  | .rsst _ => true
  | .rsld _ => true
  | .rsclr _ => true
  | .msadd _ => true
  | .msmul _ => true
  | .msfma _ => true
  | .msscale _ => true
  | .mscopy _ => true
  | .msfill _ => true
  | .msrow _ => true
  | .mszero _ => true
  | .mma _ => true
  | .mring _ => true
  | .scacc _ => true
  | .cld _ => true
  | .cst _ => true
  | .czero _ => true
  | .cstat e => e.fn != 1
  | .cstatClr e => e.fn == 1
  | .mprio _ => true
  | .rgset _ => true
  | .rgclr _ => true
  | .rgstat _ => true
  | .cpy e => e.fn != 1
  | .cpyL2 e => e.fn == 1
  | .cpys _ => true
  | .send _ => true
  | .sendeos _ => true
  | .qstat _ => true
  | .park _ => true
  | .spawn _ => true
  | .reap _ => true
  | .preempt _ => true
  | .resumeJob e => e.fn != 1
  | .resumeRun e => e.fn == 1
  | .ctxsave e => e.fn != 1
  | .ctxsaveDrop e => e.fn == 1
  | .ctxload e => e.fn != 1
  | .ctxloadDrop e => e.fn == 1
  | .tlbinvCtx e => e.fn != 1
  | .tlbinvOwn e => e.fn == 1
  | .tprobeCtx e => e.fn != 1
  | .tprobeOwn e => e.fn == 1
  | .illegalOpcode w => opUnassigned (w.extractLsb' 88 8)
  | .longOpComplete t _ _ => tidOk t
  | .userTrapEntry => true
  | .supervisorTrapEntry => true
  | .messageArrival => true
  | .refusalReceived => true
  | .requestRepresent => true
  | .sendRepresent => true
  | .spawnRecordAdmit => true
  | .spawnPlacement => true
  | .spawnPriorityAge => true
  | .clusterScrub => true
  | .ticketAllocate => true
  | .ticketLineFill => true
  | .ticketLeaseExpiry => true
  | .ticketPresent => true
  | .copyBlockComplete => true
  | .copyJobFault => true
  | .fenceComplete => true
  | .feWordEvent => true
  | .remoteLdsyncRequest => true
  | .acquireAtReleaser => true
  | .pageCountPeriod => true
  | .counterArrival => true
  | .armActionRun => true
  | .watchPlaceRequest => true
  | .watchAnswerDelivery => true
  | .watchAnswerReoffer => true
  | .unwatchRequest => true
  | .atomicExecute t _ _ => tidOk t
  | .msLineComplete => true
  | .matrixOpStart => true
  | .matrixPriorityAge => true
  | .matrixOperandFetch => true
  | .matrixKstep => true
  | .ringGroupForm => true
  | .ringLatchArrival => true
  | .ringWatchdogExpiry => true
  | .regionCopyRow => true
  | .regionCopyFault => true
  | .l2LineInstall => true
  | .pasteEccError => true
  | .l2statSnapshot => true
  | .leaseExpiry die ctx lid => dieOk die && ctx < 0x10000 && lid < 8
  | .establish die n => dieOk die && n < 64
  | .cxcDrain die n => dieOk die && n < 64
  | .cxcRelease die n => dieOk die && n < 64
  | .circuitTuningDone die n _ => dieOk die && n < 64
  | .circuitDrainDone die n => dieOk die && n < 64
  | .tfence d _ => devOk d
  | .tableFenceComplete => true
  | .requestBounce => true
  | .linkAdmission => true
  | .permitGrantTimeout => true
  | .linkReplay => true
  | .packetForward _ chk => chk < 4
  | .packetDelivery _ _ => true
  | .packetAck => true
  | .dropNotice => true
  | .packetRetransmitTimeout => true
  | .requestAnswerTimeout => true
  | .laneFailure d port => devOk d && port < 36
  | .hostMemWrite d _ _ => devOk d
  | .hostMemRead d _ _ => devOk d
  | .hostMemoryWrite d _ _ => devOk d
  | .registerWrite d _ _ => devOk d
  | .partcreate => true
  | .partdestroy => true
  | .rekey => true
  | .loadImage => true
  | .drain => true
  | .online => true
  | .resetCluster => true
  | .chretire => true
  | .retrain => true
  | .retrainWindowEnd die ch => dieOk die && ch < 192
  | .fwupdate => true
  | .firmwareActivate d _ => devOk d
  | .getVersion => true
  | .getCapabilities => true
  | .negotiateAlgorithms d _ => devOk d
  | .getDigests => true
  | .getCertificate d _ _ _ => devOk d
  | .challenge d _ _ => devOk d
  | .getMeasurements d _ _ => devOk d
  | .keyExchange d link _ => devOk d && link < 2305
  | .finish d link _ => devOk d && link < 2305
  | .keyUpdate d link => devOk d && link < 2305
  | .endSession => true
  | .tdispStop d part _ => devOk d && part < 64
  | .correctedError d _ => devOk d
  | .uncorrectableError => true
  | .clusterFence => true
  | .deviceReset => true
  | .bringupStageTimeout => true
  | .powerClockStep d _ => devOk d
  | .thermalThrottle d _ _ => devOk d
  | .thermalShutdown d _ => devOk d
  | .pldmMonitor => true
  | .pldmFwUpdate d _ _ _ => devOk d
  | .tdispLock d part => devOk d && part < 64
  | .tdispStart d part => devOk d && part < 64
  | .podMembershipSet d num q members _ => devOk d && devOk num && [5, 7, 11, 13, 17, 19, 23].contains q && members.all devOk
  | .retrainWindowStart die ch => dieOk die && ch < 192
  | .portTrainingComplete d port mode => devOk d && port < 36 && mode < 5

end Sys2Proof
end

