-- ==== Sys2Proof/Decode.lean ====
section
/-! DEFINITION. Decoding of any bytes to an instruction (R56 to R58, R65, R66, R74, R75), total, rejecting by name, and
the encoder written from the same tables. -/

namespace Sys2Proof

/-- Why bytes decode to no instruction. -/
inductive DecodeError
  /-- Fewer than the 12 bytes that R56 gives an instruction. -/
  | tooShort
  deriving DecidableEq, Repr

/-- The element type of a TY code (R65). -/
def tyOf (c : BitVec 4) : Ty :=
  match c.toNat with
  | 0x0 => .none | 0x1 => .s8 | 0x2 => .u8 | 0x3 => .s16 | 0x4 => .u16 | 0x5 => .s32 | 0x6 => .u32 | 0x7 => .s64
  | 0x8 => .u64 | 0x9 => .bf16 | 0xA => .fp16 | 0xB => .fp32 | 0xC => .notTypeC | 0xD => .pl | 0xE => .b
  | _ => .notTypeF

/-- The TY code of an element type (R65). -/
def tyCode : Ty → BitVec 4
  | .none => 0x0 | .s8 => 0x1 | .u8 => 0x2 | .s16 => 0x3 | .u16 => 0x4 | .s32 => 0x5 | .u32 => 0x6 | .s64 => 0x7
  | .u64 => 0x8 | .bf16 => 0x9 | .fp16 => 0xA | .fp32 => 0xB | .notTypeC => 0xC | .pl => 0xD | .b => 0xE
  | .notTypeF => 0xF

/-- The operand class of a class code (R58). -/
def clsOf (c : BitVec 3) : OpClass :=
  match c.toNat with
  | 0 => .scalar | 1 => .vector | 2 => .predicate | 3 => .queue | 4 => .tile | 5 => .special | 6 => .immediate
  | _ => .absent

/-- The code of an operand class (R58). -/
def clsCode : OpClass → BitVec 3
  | .scalar => 0 | .vector => 1 | .predicate => 2 | .queue => 3 | .tile => 4 | .special => 5 | .immediate => 6
  | .absent => 7

/-- The rounding mode of MD[25:24] (R66). -/
def rmOf (c : BitVec 2) : Rm :=
  match c.toNat with
  | 0 => .rne | 1 => .rtz | 2 => .rdn | _ => .rup

/-- The code of a rounding mode (R66). -/
def rmCode : Rm → BitVec 2
  | .rne => 0 | .rtz => 1 | .rdn => 2 | .rup => 3

/-- An operand field of ten bits: class above index (R58). -/
def operandOf (f : BitVec 10) : Operand := ⟨clsOf (f.extractLsb' 7 3), f.extractLsb' 0 7⟩

/-- The bits of an operand field (R58). -/
def operandBits (o : Operand) : BitVec 10 := clsCode o.cls ++ o.idx

/-- A single bit of a word as a Bool. -/
def wordBit (w : BitVec 96) (n : Nat) : Bool := w.getLsbD n

/-- The fields of an instruction word (R57). -/
def fieldsOf (w : BitVec 96) : Enc where
  fn   := w.extractLsb' 84 4
  ty   := tyOf (w.extractLsb' 80 4)
  gneg := wordBit w 79
  gsel := w.extractLsb' 76 3
  la   := w.extractLsb' 72 4
  wm   := w.extractLsb' 64 8
  da   := operandOf (w.extractLsb' 54 10)
  sa   := operandOf (w.extractLsb' 44 10)
  sb   := operandOf (w.extractLsb' 34 10)
  sw   := w.extractLsb' 31 3
  gs   := w.extractLsb' 28 3
  ftz  := wordBit w 27
  sat  := wordBit w 26
  rm   := rmOf (w.extractLsb' 24 2)
  imm  := w.extractLsb' 0 24

/-- The word of an opcode and its fields (R57). -/
def packWord (op : BitVec 8) (e : Enc) : BitVec 96 :=
  op ++ e.fn ++ tyCode e.ty ++ BitVec.ofBool e.gneg ++ e.gsel ++ e.la ++ e.wm ++ operandBits e.da ++
  operandBits e.sa ++ operandBits e.sb ++ e.sw ++ e.gs ++ BitVec.ofBool e.ftz ++ BitVec.ofBool e.sat ++
  rmCode e.rm ++ e.imm

/-- The row that an opcode and a function field select (R74, R76); an unassigned OP is the row ILLEGAL_OPCODE (R75). -/
def instrOf (w : BitVec 96) (op : Nat) (e : Enc) : Instr :=
  match op with
  | 0x01 => .nop e
  | 0x02 => .br e
  | 0x03 => .brl e
  | 0x04 => .jmp e
  | 0x05 => .jmpl e
  | 0x06 => .dbnz e
  | 0x07 => .trap e
  | 0x08 => .brk e
  | 0x09 => .kget e
  | 0x0A => .kset e
  | 0x0B => .kswap e
  | 0x0C => .sret e
  | 0x0D => .uret e
  | 0x10 => .add e
  | 0x11 => .sub e
  | 0x12 => .mul e
  | 0x13 => .mulh e
  | 0x14 => .mad e
  | 0x15 => .div e
  | 0x16 => .rem e
  | 0x17 => .min e
  | 0x18 => .max e
  | 0x19 => .abs e
  | 0x1A => .sel e
  | 0x1B => .ldi e
  | 0x1C => .ldp e
  | 0x20 => .and e
  | 0x21 => .or e
  | 0x22 => .xor e
  | 0x23 => .andn e
  | 0x24 => .shl e
  | 0x25 => .shr e
  | 0x26 => .sar e
  | 0x27 => .rotl e
  | 0x28 => .clz e
  | 0x29 => .ctz e
  | 0x2A => .popc e
  | 0x2B => .bfx e
  | 0x2C => .bfi e
  | 0x2D => .cmp e
  | 0x2E => .plog e
  | 0x30 => .fadd e
  | 0x31 => .fsub e
  | 0x32 => .fmul e
  | 0x33 => .ffma e
  | 0x34 => .fdiv e
  | 0x35 => .fsqrt e
  | 0x36 => .fmin e
  | 0x37 => .fmax e
  | 0x38 => .fcmp e
  | 0x39 => .fcvt e
  | 0x3A => .fsgn e
  | 0x3B => .fclass e
  | 0x40 => .vadd e
  | 0x41 => .vsub e
  | 0x42 => .vmul e
  | 0x43 => .vmulh e
  | 0x44 => .vmad e
  | 0x45 => .vmin e
  | 0x46 => .vmax e
  | 0x47 => .vabs e
  | 0x48 => .vand e
  | 0x49 => .vor e
  | 0x4A => .vxor e
  | 0x4B => .vshl e
  | 0x4C => .vshr e
  | 0x4D => .vsar e
  | 0x4E => .vcmp e
  | 0x4F => .vsel e
  | 0x50 => .vfadd e
  | 0x51 => .vfsub e
  | 0x52 => .vfmul e
  | 0x53 => .vffma e
  | 0x54 => .vfdiv e
  | 0x55 => .vfsqrt e
  | 0x56 => .vfmin e
  | 0x57 => .vfmax e
  | 0x58 => .vfcmp e
  | 0x59 => .vfcvt e
  | 0x5A => .vfsgn e
  | 0x5B => .vfclass e
  | 0x5C => .bmaxe e
  | 0x5D => .malign e
  | 0x60 => if e.fn = 1 then .vbcastEl e else .vbcast e
  | 0x61 => .vperm e
  | 0x62 => .vshuf e
  | 0x63 => if e.fn = 1 then .vextEl e else .vext e
  | 0x64 => .vins e
  | 0x65 => if e.sa.cls = .queue then .vredQueue e else .vred e
  | 0x66 => .vscan e
  | 0x67 => .vcomp e
  | 0x68 => .lbc e
  | 0x69 => .vlq e
  | 0x6A => .pcnt e
  | 0x6B => .pfirst e
  | 0x6C => .pset e
  | 0x70 => .vexp2 e
  | 0x71 => .vlog2 e
  | 0x72 => .vrcp e
  | 0x73 => .vrsq e
  | 0x74 => .vsin e
  | 0x75 => .vcos e
  | 0x76 => .vtanh e
  | 0x77 => .welf e
  | 0x78 => .wmerge e
  | 0x79 => .wred e
  | 0x7A => .wfin e
  | 0x80 => .ld e
  | 0x81 => .st e
  | 0x82 => .vld e
  | 0x83 => .vst e
  | 0x84 => .vlds e
  | 0x85 => .vsts e
  | 0x86 => .vldx e
  | 0x87 => .vstx e
  | 0x90 => .tld e
  | 0x91 => .vtld e
  | 0x92 => .rdm e
  | 0x93 => .rdmm e
  | 0x94 => .tstat e
  | 0x95 => .tdrop e
  | 0x96 => .pull e
  | 0x97 => .pullr e
  | 0xA0 => .fence e
  | 0xA1 => .clean e
  | 0xA2 => if e.fn = 1 then .invalI e else .inval e
  | 0xA3 => .discard e
  | 0xA4 => .pref e
  | 0xA5 => .lease e
  | 0xA6 => .unlease e
  | 0xB0 => if e.fn = 1 then .ldsyncTake e else .ldsync e
  | 0xB1 => .stsync e
  | 0xB2 => .feset e
  | 0xB3 => .festat e
  | 0xB4 => .cinc e
  | 0xB5 => if e.fn = 1 then .csetPend e else .csetCount e
  | 0xB6 => if e.fn = 1 then .cwaitPh e else .cwait e
  | 0xB7 => .cphase e
  | 0xB8 => .bar e
  | 0xB9 => .advseq e
  | 0xBA => .watch e
  | 0xBB => .unwatch e
  | 0xBC => .arm e
  | 0xBD => .disarm e
  | 0xC0 => .aadd e
  | 0xC1 => .aand e
  | 0xC2 => .aor e
  | 0xC3 => .axor e
  | 0xC4 => .amin e
  | 0xC5 => .amax e
  | 0xC6 => .aswp e
  | 0xC7 => .acas e
  | 0xC8 => .rsst e
  | 0xC9 => .rsld e
  | 0xCA => .rsclr e
  | 0xD0 => .msadd e
  | 0xD1 => .msmul e
  | 0xD2 => .msfma e
  | 0xD3 => .msscale e
  | 0xD4 => .mscopy e
  | 0xD5 => .msfill e
  | 0xD6 => .msrow e
  | 0xD7 => .mszero e
  | 0xE0 => .mma e
  | 0xE1 => .mring e
  | 0xE2 => .scacc e
  | 0xE3 => .cld e
  | 0xE4 => .cst e
  | 0xE5 => .czero e
  | 0xE6 => if e.fn = 1 then .cstatClr e else .cstat e
  | 0xE7 => .mprio e
  | 0xE8 => .rgset e
  | 0xE9 => .rgclr e
  | 0xEA => .rgstat e
  | 0xEB => if e.fn = 1 then .cpyL2 e else .cpy e
  | 0xEC => .cpys e
  | 0xF0 => .send e
  | 0xF1 => .sendeos e
  | 0xF2 => .qstat e
  | 0xF3 => .park e
  | 0xF4 => .spawn e
  | 0xF5 => .reap e
  | 0xF6 => .preempt e
  | 0xF7 => if e.fn = 1 then .resumeRun e else .resumeJob e
  | 0xF8 => if e.fn = 1 then .ctxsaveDrop e else .ctxsave e
  | 0xF9 => if e.fn = 1 then .ctxloadDrop e else .ctxload e
  | 0xFA => if e.fn = 1 then .tlbinvOwn e else .tlbinvCtx e
  | 0xFB => if e.fn = 1 then .tprobeOwn e else .tprobeCtx e
  | _ => .illegalOpcode w

/-- The instruction of a 96-bit word. -/
def decodeWord (w : BitVec 96) : Instr := instrOf w (w.extractLsb' 88 8).toNat (fieldsOf w)

/-- Byte b of the word holds bits [8b+7:8b] (R56). -/
def wordOfBytes (b0 b1 b2 b3 b4 b5 b6 b7 b8 b9 b10 b11 : Byte) : BitVec 96 :=
  b11 ++ b10 ++ b9 ++ b8 ++ b7 ++ b6 ++ b5 ++ b4 ++ b3 ++ b2 ++ b1 ++ b0

/-- The twelve bytes of a word, lowest address first (R56). -/
def bytesOfWord (w : BitVec 96) : List Byte :=
  [w.extractLsb' 0 8, w.extractLsb' 8 8, w.extractLsb' 16 8, w.extractLsb' 24 8, w.extractLsb' 32 8,
   w.extractLsb' 40 8, w.extractLsb' 48 8, w.extractLsb' 56 8, w.extractLsb' 64 8, w.extractLsb' 72 8,
   w.extractLsb' 80 8, w.extractLsb' 88 8]

/-- Decode the instruction at the head of a list of bytes and answer it with the bytes after it. -/
def decode : List Byte → Except DecodeError (Instr × List Byte)
  | b0 :: b1 :: b2 :: b3 :: b4 :: b5 :: b6 :: b7 :: b8 :: b9 :: b10 :: b11 :: rest =>
    .ok (decodeWord (wordOfBytes b0 b1 b2 b3 b4 b5 b6 b7 b8 b9 b10 b11), rest)
  | _ => .error .tooShort

/-- The word of an instruction row; the event rows have no word but ILLEGAL_OPCODE. -/
def encodeWord : Instr → Option (BitVec 96)
  | .nop e => some (packWord 0x01#8 e)
  | .br e => some (packWord 0x02#8 e)
  | .brl e => some (packWord 0x03#8 e)
  | .jmp e => some (packWord 0x04#8 e)
  | .jmpl e => some (packWord 0x05#8 e)
  | .dbnz e => some (packWord 0x06#8 e)
  | .trap e => some (packWord 0x07#8 e)
  | .brk e => some (packWord 0x08#8 e)
  | .kget e => some (packWord 0x09#8 e)
  | .kset e => some (packWord 0x0A#8 e)
  | .kswap e => some (packWord 0x0B#8 e)
  | .sret e => some (packWord 0x0C#8 e)
  | .uret e => some (packWord 0x0D#8 e)
  | .add e => some (packWord 0x10#8 e)
  | .sub e => some (packWord 0x11#8 e)
  | .mul e => some (packWord 0x12#8 e)
  | .mulh e => some (packWord 0x13#8 e)
  | .mad e => some (packWord 0x14#8 e)
  | .div e => some (packWord 0x15#8 e)
  | .rem e => some (packWord 0x16#8 e)
  | .min e => some (packWord 0x17#8 e)
  | .max e => some (packWord 0x18#8 e)
  | .abs e => some (packWord 0x19#8 e)
  | .sel e => some (packWord 0x1A#8 e)
  | .ldi e => some (packWord 0x1B#8 e)
  | .ldp e => some (packWord 0x1C#8 e)
  | .and e => some (packWord 0x20#8 e)
  | .or e => some (packWord 0x21#8 e)
  | .xor e => some (packWord 0x22#8 e)
  | .andn e => some (packWord 0x23#8 e)
  | .shl e => some (packWord 0x24#8 e)
  | .shr e => some (packWord 0x25#8 e)
  | .sar e => some (packWord 0x26#8 e)
  | .rotl e => some (packWord 0x27#8 e)
  | .clz e => some (packWord 0x28#8 e)
  | .ctz e => some (packWord 0x29#8 e)
  | .popc e => some (packWord 0x2A#8 e)
  | .bfx e => some (packWord 0x2B#8 e)
  | .bfi e => some (packWord 0x2C#8 e)
  | .cmp e => some (packWord 0x2D#8 e)
  | .plog e => some (packWord 0x2E#8 e)
  | .fadd e => some (packWord 0x30#8 e)
  | .fsub e => some (packWord 0x31#8 e)
  | .fmul e => some (packWord 0x32#8 e)
  | .ffma e => some (packWord 0x33#8 e)
  | .fdiv e => some (packWord 0x34#8 e)
  | .fsqrt e => some (packWord 0x35#8 e)
  | .fmin e => some (packWord 0x36#8 e)
  | .fmax e => some (packWord 0x37#8 e)
  | .fcmp e => some (packWord 0x38#8 e)
  | .fcvt e => some (packWord 0x39#8 e)
  | .fsgn e => some (packWord 0x3A#8 e)
  | .fclass e => some (packWord 0x3B#8 e)
  | .vadd e => some (packWord 0x40#8 e)
  | .vsub e => some (packWord 0x41#8 e)
  | .vmul e => some (packWord 0x42#8 e)
  | .vmulh e => some (packWord 0x43#8 e)
  | .vmad e => some (packWord 0x44#8 e)
  | .vmin e => some (packWord 0x45#8 e)
  | .vmax e => some (packWord 0x46#8 e)
  | .vabs e => some (packWord 0x47#8 e)
  | .vand e => some (packWord 0x48#8 e)
  | .vor e => some (packWord 0x49#8 e)
  | .vxor e => some (packWord 0x4A#8 e)
  | .vshl e => some (packWord 0x4B#8 e)
  | .vshr e => some (packWord 0x4C#8 e)
  | .vsar e => some (packWord 0x4D#8 e)
  | .vcmp e => some (packWord 0x4E#8 e)
  | .vsel e => some (packWord 0x4F#8 e)
  | .vfadd e => some (packWord 0x50#8 e)
  | .vfsub e => some (packWord 0x51#8 e)
  | .vfmul e => some (packWord 0x52#8 e)
  | .vffma e => some (packWord 0x53#8 e)
  | .vfdiv e => some (packWord 0x54#8 e)
  | .vfsqrt e => some (packWord 0x55#8 e)
  | .vfmin e => some (packWord 0x56#8 e)
  | .vfmax e => some (packWord 0x57#8 e)
  | .vfcmp e => some (packWord 0x58#8 e)
  | .vfcvt e => some (packWord 0x59#8 e)
  | .vfsgn e => some (packWord 0x5A#8 e)
  | .vfclass e => some (packWord 0x5B#8 e)
  | .bmaxe e => some (packWord 0x5C#8 e)
  | .malign e => some (packWord 0x5D#8 e)
  | .vbcast e => some (packWord 0x60#8 e)
  | .vbcastEl e => some (packWord 0x60#8 e)
  | .vperm e => some (packWord 0x61#8 e)
  | .vshuf e => some (packWord 0x62#8 e)
  | .vext e => some (packWord 0x63#8 e)
  | .vextEl e => some (packWord 0x63#8 e)
  | .vins e => some (packWord 0x64#8 e)
  | .vred e => some (packWord 0x65#8 e)
  | .vredQueue e => some (packWord 0x65#8 e)
  | .vscan e => some (packWord 0x66#8 e)
  | .vcomp e => some (packWord 0x67#8 e)
  | .lbc e => some (packWord 0x68#8 e)
  | .vlq e => some (packWord 0x69#8 e)
  | .pcnt e => some (packWord 0x6A#8 e)
  | .pfirst e => some (packWord 0x6B#8 e)
  | .pset e => some (packWord 0x6C#8 e)
  | .vexp2 e => some (packWord 0x70#8 e)
  | .vlog2 e => some (packWord 0x71#8 e)
  | .vrcp e => some (packWord 0x72#8 e)
  | .vrsq e => some (packWord 0x73#8 e)
  | .vsin e => some (packWord 0x74#8 e)
  | .vcos e => some (packWord 0x75#8 e)
  | .vtanh e => some (packWord 0x76#8 e)
  | .welf e => some (packWord 0x77#8 e)
  | .wmerge e => some (packWord 0x78#8 e)
  | .wred e => some (packWord 0x79#8 e)
  | .wfin e => some (packWord 0x7A#8 e)
  | .ld e => some (packWord 0x80#8 e)
  | .st e => some (packWord 0x81#8 e)
  | .vld e => some (packWord 0x82#8 e)
  | .vst e => some (packWord 0x83#8 e)
  | .vlds e => some (packWord 0x84#8 e)
  | .vsts e => some (packWord 0x85#8 e)
  | .vldx e => some (packWord 0x86#8 e)
  | .vstx e => some (packWord 0x87#8 e)
  | .tld e => some (packWord 0x90#8 e)
  | .vtld e => some (packWord 0x91#8 e)
  | .rdm e => some (packWord 0x92#8 e)
  | .rdmm e => some (packWord 0x93#8 e)
  | .tstat e => some (packWord 0x94#8 e)
  | .tdrop e => some (packWord 0x95#8 e)
  | .pull e => some (packWord 0x96#8 e)
  | .pullr e => some (packWord 0x97#8 e)
  | .fence e => some (packWord 0xA0#8 e)
  | .clean e => some (packWord 0xA1#8 e)
  | .inval e => some (packWord 0xA2#8 e)
  | .invalI e => some (packWord 0xA2#8 e)
  | .discard e => some (packWord 0xA3#8 e)
  | .pref e => some (packWord 0xA4#8 e)
  | .lease e => some (packWord 0xA5#8 e)
  | .unlease e => some (packWord 0xA6#8 e)
  | .ldsync e => some (packWord 0xB0#8 e)
  | .ldsyncTake e => some (packWord 0xB0#8 e)
  | .stsync e => some (packWord 0xB1#8 e)
  | .feset e => some (packWord 0xB2#8 e)
  | .festat e => some (packWord 0xB3#8 e)
  | .cinc e => some (packWord 0xB4#8 e)
  | .csetCount e => some (packWord 0xB5#8 e)
  | .csetPend e => some (packWord 0xB5#8 e)
  | .cwait e => some (packWord 0xB6#8 e)
  | .cwaitPh e => some (packWord 0xB6#8 e)
  | .cphase e => some (packWord 0xB7#8 e)
  | .bar e => some (packWord 0xB8#8 e)
  | .advseq e => some (packWord 0xB9#8 e)
  | .watch e => some (packWord 0xBA#8 e)
  | .unwatch e => some (packWord 0xBB#8 e)
  | .arm e => some (packWord 0xBC#8 e)
  | .disarm e => some (packWord 0xBD#8 e)
  | .aadd e => some (packWord 0xC0#8 e)
  | .aand e => some (packWord 0xC1#8 e)
  | .aor e => some (packWord 0xC2#8 e)
  | .axor e => some (packWord 0xC3#8 e)
  | .amin e => some (packWord 0xC4#8 e)
  | .amax e => some (packWord 0xC5#8 e)
  | .aswp e => some (packWord 0xC6#8 e)
  | .acas e => some (packWord 0xC7#8 e)
  | .rsst e => some (packWord 0xC8#8 e)
  | .rsld e => some (packWord 0xC9#8 e)
  | .rsclr e => some (packWord 0xCA#8 e)
  | .msadd e => some (packWord 0xD0#8 e)
  | .msmul e => some (packWord 0xD1#8 e)
  | .msfma e => some (packWord 0xD2#8 e)
  | .msscale e => some (packWord 0xD3#8 e)
  | .mscopy e => some (packWord 0xD4#8 e)
  | .msfill e => some (packWord 0xD5#8 e)
  | .msrow e => some (packWord 0xD6#8 e)
  | .mszero e => some (packWord 0xD7#8 e)
  | .mma e => some (packWord 0xE0#8 e)
  | .mring e => some (packWord 0xE1#8 e)
  | .scacc e => some (packWord 0xE2#8 e)
  | .cld e => some (packWord 0xE3#8 e)
  | .cst e => some (packWord 0xE4#8 e)
  | .czero e => some (packWord 0xE5#8 e)
  | .cstat e => some (packWord 0xE6#8 e)
  | .cstatClr e => some (packWord 0xE6#8 e)
  | .mprio e => some (packWord 0xE7#8 e)
  | .rgset e => some (packWord 0xE8#8 e)
  | .rgclr e => some (packWord 0xE9#8 e)
  | .rgstat e => some (packWord 0xEA#8 e)
  | .cpy e => some (packWord 0xEB#8 e)
  | .cpyL2 e => some (packWord 0xEB#8 e)
  | .cpys e => some (packWord 0xEC#8 e)
  | .send e => some (packWord 0xF0#8 e)
  | .sendeos e => some (packWord 0xF1#8 e)
  | .qstat e => some (packWord 0xF2#8 e)
  | .park e => some (packWord 0xF3#8 e)
  | .spawn e => some (packWord 0xF4#8 e)
  | .reap e => some (packWord 0xF5#8 e)
  | .preempt e => some (packWord 0xF6#8 e)
  | .resumeJob e => some (packWord 0xF7#8 e)
  | .resumeRun e => some (packWord 0xF7#8 e)
  | .ctxsave e => some (packWord 0xF8#8 e)
  | .ctxsaveDrop e => some (packWord 0xF8#8 e)
  | .ctxload e => some (packWord 0xF9#8 e)
  | .ctxloadDrop e => some (packWord 0xF9#8 e)
  | .tlbinvCtx e => some (packWord 0xFA#8 e)
  | .tlbinvOwn e => some (packWord 0xFA#8 e)
  | .tprobeCtx e => some (packWord 0xFB#8 e)
  | .tprobeOwn e => some (packWord 0xFB#8 e)
  | .illegalOpcode w => some w
  | .longOpComplete _ _ _ => none
  | .userTrapEntry => none
  | .supervisorTrapEntry => none
  | .messageArrival => none
  | .refusalReceived => none
  | .requestRepresent => none
  | .sendRepresent => none
  | .spawnRecordAdmit => none
  | .spawnPlacement => none
  | .spawnPriorityAge => none
  | .clusterScrub => none
  | .ticketAllocate => none
  | .ticketLineFill => none
  | .ticketLeaseExpiry => none
  | .ticketPresent => none
  | .copyBlockComplete => none
  | .copyJobFault => none
  | .fenceComplete => none
  | .feWordEvent => none
  | .remoteLdsyncRequest => none
  | .acquireAtReleaser => none
  | .pageCountPeriod => none
  | .counterArrival => none
  | .armActionRun => none
  | .watchPlaceRequest => none
  | .watchAnswerDelivery => none
  | .watchAnswerReoffer => none
  | .unwatchRequest => none
  | .atomicExecute _ _ _ => none
  | .msLineComplete => none
  | .matrixOpStart => none
  | .matrixPriorityAge => none
  | .matrixOperandFetch => none
  | .matrixKstep => none
  | .ringGroupForm => none
  | .ringLatchArrival => none
  | .ringWatchdogExpiry => none
  | .regionCopyRow => none
  | .regionCopyFault => none
  | .l2LineInstall => none
  | .pasteEccError => none
  | .l2statSnapshot => none
  | .leaseExpiry _ _ _ => none
  | .establish _ _ => none
  | .cxcDrain _ _ => none
  | .cxcRelease _ _ => none
  | .circuitTuningDone _ _ _ => none
  | .circuitDrainDone _ _ => none
  | .tfence _ _ => none
  | .tableFenceComplete => none
  | .requestBounce => none
  | .linkAdmission => none
  | .permitGrantTimeout => none
  | .linkReplay => none
  | .packetForward _ _ => none
  | .packetDelivery _ _ => none
  | .packetAck => none
  | .dropNotice => none
  | .packetRetransmitTimeout => none
  | .requestAnswerTimeout => none
  | .laneFailure _ _ => none
  | .hostMemWrite _ _ _ => none
  | .hostMemRead _ _ _ => none
  | .hostMemoryWrite _ _ _ => none
  | .registerWrite _ _ _ => none
  | .partcreate => none
  | .partdestroy => none
  | .rekey => none
  | .loadImage => none
  | .drain => none
  | .online => none
  | .resetCluster => none
  | .chretire => none
  | .retrain => none
  | .retrainWindowEnd _ _ => none
  | .fwupdate => none
  | .firmwareActivate _ _ => none
  | .getVersion => none
  | .getCapabilities => none
  | .negotiateAlgorithms _ _ => none
  | .getDigests => none
  | .getCertificate _ _ _ _ => none
  | .challenge _ _ _ => none
  | .getMeasurements _ _ _ => none
  | .keyExchange _ _ _ => none
  | .finish _ _ _ => none
  | .keyUpdate _ _ => none
  | .endSession => none
  | .tdispStop _ _ _ => none
  | .correctedError _ _ => none
  | .uncorrectableError => none
  | .clusterFence => none
  | .deviceReset => none
  | .bringupStageTimeout => none
  | .powerClockStep _ _ => none
  | .thermalThrottle _ _ _ => none
  | .thermalShutdown _ _ => none
  | .pldmMonitor => none
  | .pldmFwUpdate _ _ _ _ => none
  | .tdispLock _ _ => none
  | .tdispStart _ _ => none
  | .podMembershipSet _ _ _ _ _ => none
  | .retrainWindowStart _ _ => none
  | .portTrainingComplete _ _ _ => none

/-- The bytes of an instruction (R56). -/
def encode (i : Instr) : Option (List Byte) := (encodeWord i).map bytesOfWord

/-- The bytes of an instruction whose bits the opcode table numbers from the first byte upwards; bits above `nbits`
are zero. -/
def tableBytes (nbits w : Nat) : List Byte := bytesOfWord (BitVec.ofNat 96 (w % 2 ^ nbits))

/-- The instruction that the decoder reads from the bits of a row of the opcode table. -/
def decodeTableWord (nbits w : Nat) : Option Instr :=
  match decode (tableBytes nbits w) with
  | .ok (i, _) => some i
  | .error _ => none

end Sys2Proof
end

