-- ==== Sys2Proof/Machine/Fetch.lean ====
section
/-! DEFINITION. Instruction fetch (R56, R82): three 4-byte units through the core's L1 instruction cache. -/

namespace Sys2Proof.Machine

/-- The lines of a core's L1 instruction cache that hold a line key. -/
def State.findI (s : State) (k line : Nat) : Option ILine := s.il1.find? fun l => l.core == k && l.line == line

/-- The 64-byte line of a fetch: the cached one, else the line as a reader of the core reaches it, which the cache then
keeps; the line kept longest leaves a full cache (R2, log 10). -/
def State.fetchCached (s : State) (t : Nat) (g : Target) : BitVec 512 × State :=
  let line := g.key / 64
  match s.findI (coreOf t) line with
  | some l => (l.data, s)
  | none =>
    let (data, s') := s.readLine64 t g line
    let mine := s'.il1.filter fun l => l.core == coreOf t
    let il1 := if mine.length < il1Lines then s'.il1 else match mine.head? with | some l => s'.il1.erase l | none => s'.il1
    (data, { s' with il1 := il1 ++ [⟨coreOf t, line, data⟩] })

/-- One 4-byte unit of an instruction at an address: checked as a read, the management range read by its registers. A line
that the instruction cache lacks is requested as a load is (R4, R194). -/
def State.fetchUnit (s : State) (t : Nat) (va : Word) : Except Stop (BitVec 32 × State) :=
  match s.resolve t va 4 4 0 .read false with
  | .error x => .error x
  | .ok (g, s1) =>
    if kindBad g false then .error (.at .pageKind va)
    else if g.home = mgmtHome then .ok (BitVec.ofNat 32 (leNat (s1.mgmtBytes g.key 4)), s1)
    else if (s1.findI (coreOf t) (g.key / 64)).isSome then
      let (data, s2) := s1.fetchCached t g
      .ok ((data >>> (8 * (g.key % 64))).setWidth 32, s2)
    else if s1.linePoisoned (homeSlice g.home g.key) g.key 4 then .error (.at .poison va)
    else match s1.admitReq (targetDie t g) 0 true with
      | .error x => .error x
      | .ok s1 =>
        let (data, s2) := s1.fetchCached t g
        .ok ((data >>> (8 * (g.key % 64))).setWidth 32, s2)

/-- The 96 bits of the instruction at a strand's PC; a first byte outside GLOBAL and OWN is UNMAPPED (R56). -/
def State.fetch (s : State) (t : Nat) (x : Side) : Except Stop (BitVec 96 × State) :=
  let pc := (s.strand t x).pc
  match windowOf pc.toNat with
  | some .global | some .own =>
    (match windowCheck pc.toNat 12 4 .read false with
    | .error c => .error (.at c pc)
    | .ok _ =>
      match s.fetchUnit t pc with
      | .error e => .error e
      | .ok (a, s1) =>
        match s1.fetchUnit t (pc + 4) with
        | .error e => .error e
        | .ok (b, s2) =>
          match s2.fetchUnit t (pc + 8) with
          | .error e => .error e
          | .ok (c, s3) => .ok (c ++ b ++ a, s3))
  | _ => .error (.at .unmapped pc)

end Sys2Proof.Machine
end

