-- ==== Sys2Proof/Machine/Schedule.lean ====
section
/-! DEFINITION. Who moves (R34 to R36): which strands may issue, the issue of a strand's next instruction, the steps
that the device's own units are ready to take, the passing of cycles, and the order in which the model lets them happen
when nothing is on the agenda (log 1, log 3). -/

namespace Sys2Proof.Machine

/-! ### Readiness (R35, R40, R41) -/

/-- Reads that a queue has for a strand: whole entries, or words (R44). -/
def queueReads (whole : Bool) (l : List QEntry) : Nat :=
  if whole then l.length else (l.map fun e => if e.eos then 1 else e.words - e.taken).sum

/-- The condition for which a strand waits has cleared, so that its instruction is executed again. -/
def State.cleared (s : State) (t : Nat) (x : Side) : Cond → Bool
  | .entry q n whole => decide (n ≤ queueReads whole ((s.thread t).getQ q))
  | .space q n long => (s.thread t).hasRoom x q n long
  | .tokens wm => ((s.thread t).faultedToken wm).isSome || !(s.thread t).tokensBusy wm
  | .touch key =>
    (match s.touchWord t key with
    | .wait s' => (match s.regionAt (clusterOf t) key, s'.regionAt (clusterOf t) key with
      | some a, some b => a.2.state != b.2.state
      | _, _ => false)
    | _ => true)
  | .drained child => (match s.thread? child with | none => true | some th => th.drained || !s.childOf t th)
  | .jobSpace ms tok => (s.cluster (clusterOf t)).jobRoom ms t tok
  | .matrixSpace => decide ((s.core (coreOf t)).queue.length < 16)
  | .saving c => !s.unsettled c (s.ctxOf c)
  | .translated own gs a len => !s.translating t own gs a len
  | .ordered => !s.soHeld t x none
  | .more => true
  | .answer | .region .. | .word _ | .counter .. | .barrier .. | .matrix _ | .fence .. | .ticket => false

/-- The status of a strand lets it issue. -/
def State.statusReady (s : State) (t : Nat) (x : Side) (st : Strand) : Bool :=
  match st.status with
  | .ready => true
  | .waiting .answer => st.flight.any fun f => f.phase == .arrived && f.req.isNone
  | .waiting c => s.cleared t x c
  | .parked _ | .dead => false

/-- An outstanding long operation forbids the next issue: its boundary is reached (R40), or it is an admitted atomic that
has not been performed. -/
def LongOp.blocks (o : LongOp) : Bool :=
  o.left == 0 || (match o.kind with | .atomic _ => !o.ready | _ => false)

/-- A strand is ready (R35): its thread is not halted (R338), its cluster in service (R375, R385; log 109), its partition runs
(R380), no trap waits for delivery (R41) and no acquire is on its way (R232). -/
def State.ready (s : State) (t : Nat) (x : Side) : Bool :=
  match s.thread? t with
  | none => false
  | some th =>
    let st := th.strand x
    let cl := s.cluster (clusterOf t)
    (th.isSup || cl.run != .halted) && cl.service == .inService && s.mayRun t && st.trap.isNone && st.acquire.isEmpty &&
    !st.pend.any LongOp.blocks && s.statusReady t x st

/-- A strand is eligible (R34): ready, and four cycles have passed since its last issue. -/
def State.mayIssue (s : State) (t : Nat) (x : Side) : Bool := decide ((s.strand t x).nextIssue ≤ s.now t) && s.ready t x

/-! ### Issue -/

/-- The first eligible strand of a barrel, from the slot after the one that issued last; none in a cycle in which the barrel
has issued (R34). -/
def State.barrel (s : State) (k : Nat) (x : Side) : Option Nat :=
  let c := s.core k
  let last := match x with | .strandA => c.lastA | .strandX => c.lastX
  let used := match x with | .strandA => c.usedA | .strandX => c.usedX
  if used > s.cycleOf (k / 1024) then none
  else ((List.range 8).map fun i => k * 8 + (last + 1 + i) % 8).find? fun t => s.mayIssue t x

/-- It is the strand's turn: its barrel's rotation has come to it, and the A-barrel of its core has issued first (R34, R44;
log 3). -/
def State.turn (s : State) (t : Nat) (x : Side) : Bool :=
  s.barrel (coreOf t) x == some t && (x == .strandA || (s.barrel (coreOf t) .strandA).isNone)

/-- The strand issues in this cycle: its barrel's last slot and cycle, and the cycle before which it may not issue
again (R34). It becomes the strand for which `exec` acts. -/
def State.charge (s : State) (t : Nat) (x : Side) : State :=
  let s := ({ s with curT := t, curX := x }).updStrand t x fun st => { st with nextIssue := s.now t + 4 }
  s.updCore (coreOf t) fun c => match x with
    | .strandA => { c with lastA := slotOf t, usedA := s.now t + 1 }
    | .strandX => { c with lastX := slotOf t, usedX := s.now t + 1 }

/-- A strand whose turn it is issues its next instruction: the word at its PC is fetched, decoded and executed; a fetch that
fails traps. -/
def State.issueNext (s : State) (t : Nat) (x : Side) : Host.Outcome State Fault Refusal :=
  if s.turn t x then
    let s := s.charge t x
    match s.fetch t x with
    | .error e => .next (s.settle t x (.error e))
    | .ok (w, s') => exec (decodeWord w) s'
  else .next s

/-! ### Cycles (R7, R234, R321, R394) -/

/-- Units of `%time` in a cycle of a device, whose clock counts steps of 62.5 MHz (R7, R394). -/
def Device.period (dv : Device) : Nat := 16 * timeScale / dv.clock

/-- Time passes on a device: its cycle ends when none of it is left (R7). -/
def Device.pass (dv : Device) (n : Nat) : Device :=
  let dv := { dv with elapsed := dv.elapsed + n, timeUnits := dv.timeUnits + n }
  if dv.left ≤ n then { dv with cycle := dv.cycle + 1, left := dv.period } else { dv with left := dv.left - n }

/-- Steps that happen at a count of a device's cycles: the L2 reports, the page counts, and the default mover's eviction of
the L1 lines (log 10), so that no copy outlasts every write to its home. -/
def State.due (s : State) (d : Nat) : List Move :=
  let n := s.cycleOf d
  let dies := (List.range 4).map (d * 4 + ·)
  (if n % 1024 = 0 then dies.map fun i => Move.unit .l2statSnapshot i 0 else []) ++
  (if n % 65536 = 0 then dies.map fun i => Move.unit .pageCountPeriod i 0 else []) ++
  (if n % 4096 = 0 then (s.l1.filter fun l => l.core / 1024 == d).map fun l => Move.evictL1 l.core l.line else [])

/-- Units until the first cycle of a device ends. -/
def State.untilEdge (s : State) : Nat := (s.devices.map fun p => p.2.left).foldl min timeScale

/-- Time passes until a cycle of a device ends: of every device, where their clocks agree. -/
def State.tick (s : State) : State := { s with devices := s.devices.map fun p => (p.1, p.2.pass s.untilEdge) }

/-- Devices a cycle of which ends with the next tick. -/
def State.ending (s : State) : List Nat := (s.devices.filter fun p => decide (p.2.left ≤ s.untilEdge)).map (·.1)

/-! ### Steps that the device's own units may take -/

/-- Steps of a strand: results, traps, acquires, requests. -/
def strandSteps (t : Nat) (x : Side) (st : Strand) : List Move :=
  (st.pend.flatMap fun o =>
    if o.ready then [.event (.longOpComplete t x o.id)]
    else match o.kind with | .atomic _ => [.event (.atomicExecute t x o.id)] | _ => []) ++
  (if st.trap.isSome then [.strand .userTrapEntry t x, .strand .supervisorTrapEntry t x] else []) ++
  (if st.acquire.isEmpty then [] else [.strand .acquireAtReleaser t x]) ++
  (match st.status with | .waiting (.fence ..) => [.strand .fenceComplete t x] | _ => []) ++
  (match st.flight with
  | none => []
  | some f =>
    (match f.phase with
    | .atLink _ => [.strand .linkAdmission t x, .strand .permitGrantTimeout t x]
    | .travelling _ | .answering _ => []
    | .refused => [.strand .refusalReceived t x]
    | .bounced => [.strand .requestBounce t x]
    | .backoff _ => [.strand .requestRepresent t x, .strand .sendRepresent t x]
    | .arrived => (match f.req with
      | some (.send _) => [.strand .messageArrival t x]
      | some (.spawn ..) => [.strand .spawnRecordAdmit t x]
      | some (.ticket ..) => [.strand .ticketAllocate t x]
      | some (.present ..) | some (.redeemed ..) => [.strand .ticketPresent t x]
      | some (.ldsync ..) => [.strand .remoteLdsyncRequest t x]
      | some (.watch ..) => [.strand .watchPlaceRequest t x]
      | some (.unwatch ..) => [.strand .unwatchRequest t x]
      | some (.cinc ..) | some (.drop ..) | none => []))) ++
  (if st.flight.isSome || st.pend.any (·.far.isSome) then [.strand .requestAnswerTimeout t x] else [])

/-- Steps of a cluster's units. -/
def clusterSteps (c : Nat) (cl : Cluster) : List Move :=
  (cl.arrivals.map fun a => .unit .counterArrival c a.ctr) ++
  (if cl.actions.isEmpty then [] else [.unit .armActionRun c 0]) ++
  (cl.copyQ.flatMap fun j => [.unit .copyBlockComplete c j.id, .unit .copyJobFault c j.id]) ++
  (cl.msQ.flatMap fun j => [.unit .msLineComplete c j.id, .unit .copyJobFault c j.id]) ++
  (cl.regions.flatMap fun p =>
    if p.2.state = .filling then [.unit .regionCopyRow c p.1, .unit .regionCopyFault c p.1] else []) ++
  (cl.spawnQ.flatMap fun q =>
    [.unit .spawnPlacement c q.id, .unit .spawnPriorityAge c q.id, .unit .clusterScrub c q.ctx]) ++
  (cl.rings.flatMap fun r => [.unit .ringGroupForm c r.key, .unit .ringWatchdogExpiry c r.key])

/-- Steps of a core's matrix unit. -/
def coreSteps (k : Nat) (co : Core) : List Move :=
  (co.queue.flatMap fun q =>
    [.unit .matrixPriorityAge k q.id, .unit .matrixOpStart k q.id, .unit .matrixOperandFetch k q.id]) ++
  (if co.queue.isEmpty then [] else [.unit .ringLatchArrival k 0, .unit .matrixKstep k 0])

/-- Steps of a device's management unit, Rhoty controllers and channels. -/
def deviceSteps (d : Nat) (dv : Device) : List Move :=
  (if dv.doorbell then ([.partcreate, .partdestroy, .rekey, .loadImage, .drain, .online, .resetCluster, .chretire, .retrain,
    .fwupdate] : List Instr).map fun i => .unit i d 0 else []) ++
  (if dv.fenceBusy then [.unit .tableFenceComplete d 0] else []) ++
  (dv.circuits.flatMap fun p =>
    if p.2.state = .tuning then [.event (.circuitTuningDone (d * 4 + p.1 / 64) (p.1 % 64) true)]
    else if p.2.state = .draining then [.event (.circuitDrainDone (d * 4 + p.1 / 64) (p.1 % 64))] else []) ++
  (dv.firmware.flatMap fun p => if p.2.staged.isSome then [.event (.firmwareActivate d p.1)] else []) ++
  (dv.retrain.flatMap fun p =>
    if p.2.open_ then [.event (.retrainWindowEnd (d * 4 + p.1 / 192) (p.1 % 192))] else [])

/-- Steps of the shared tables: the ticket tables, watches, slices, links, leases, stores on their way. -/
def State.sharedSteps (s : State) : List Move :=
  (s.drops.map fun p => .strand .ticketPresent p.1 p.2.1) ++
  (s.tickets.flatMap fun p => match p.2.state with
    | .filling => p.2.lines.map fun l => .unit .ticketLineFill p.1 l.j
    | .ready => [.unit .ticketLeaseExpiry p.1 0]
    | .free => []) ++
  (s.answers.map fun a => .unit (if a.refused then .watchAnswerReoffer else .watchAnswerDelivery) a.id 0) ++
  (s.packets.flatMap fun p => [.event (.packetForward p.id 0), .event (.packetDelivery p.id true), .unit .packetAck p.id 0,
    .unit .dropNotice p.id 0, .unit .packetRetransmitTimeout p.id 0]) ++
  (s.fills.map fun f => .unit .l2LineInstall f.id 0) ++
  (s.leases.map fun l => .event (.leaseExpiry l.die l.ctx l.lid)) ++
  (s.stores.map fun w => .unit .feWordEvent (wordKey w.key) 0) ++
  (s.waiters.map fun w => .unit .feWordEvent (wordKey w.key) 0)

/-- Steps that may be ready, in the order in which the model tries them. -/
def State.steps (s : State) : List Move :=
  (s.threads.flatMap fun p => strandSteps p.1 .strandA p.2.a ++ strandSteps p.1 .strandX p.2.x) ++ s.sharedSteps ++
  (s.clusters.flatMap fun p => clusterSteps p.1 p.2) ++ (s.cores.flatMap fun p => coreSteps p.1 p.2) ++
  (s.devices.flatMap fun p => deviceSteps p.1 p.2)

/-- Whether an instruction of the table is a step or an input, which acts on its own and never by a strand's issue. -/
def isEvent (i : Instr) : Bool := (Instr.op i).isNone && (match i with | .illegalOpcode _ => false | _ => true)

/-- The subject of a step: the strand or the unit for which it happens; a step that names its own has no unit. -/
def State.aim (s : State) : Move → State
  | .strand _ t x => { s with curT := t, curX := x }
  | .unit _ n m => { s with actor := n, item := m }
  | _ => { s with actor := 0, item := 0 }

/-- One step or input of the table. -/
def State.happen (s : State) (m : Move) (i : Instr) : Host.Outcome State Fault Refusal :=
  if isEvent i then exec i (s.aim m) else .next s

/-- A step is ready when it changes more of the state than its subject. -/
def State.changes (s : State) (m : Move) : Bool :=
  match m with
  | .strand i _ _ | .unit i _ _ | .event i =>
    (match s.happen m i with
    | .next s' => s' != s.aim m
    | _ => false)
  | _ => false

/-! ### The default mover (log 1) -/

/-- Cores that hold a thread. -/
def State.busyCores (s : State) : List Nat :=
  s.threads.foldl (fun l p => if l.contains (coreOf p.1) then l else l ++ [coreOf p.1]) []

/-- The strand that issues next in this cycle: cores in order, the A-barrel before the X-barrel. -/
def State.nextIssuer (s : State) : Option (Nat × Side) :=
  s.busyCores.findSome? fun k =>
    match s.barrel k .strandA with
    | some t => some (t, .strandA)
    | none => (s.barrel k .strandX).map fun t => (t, .strandX)

/-- A device that is in a stage of bring-up (R393). -/
def State.bringing (s : State) : Option Nat :=
  (s.devices.find? fun p => decide (1 ≤ p.2.stage ∧ p.2.stage < 8) && !p.2.stopped).map (·.1)

/-- The move of the default mover: bring-up, then what the units are ready to do, then the barrels, then a cycle. -/
def State.choose (s : State) : Move :=
  match s.bringing with
  | some d => .bringup d
  | none =>
    match s.steps.find? s.changes with
    | some m => m
    | none =>
      match s.nextIssuer with
      | some (t, x) => .issue t x
      | none => .tick 1

/-- One move. An agenda may name steps and inputs; instructions are issued by strands alone, and no cycle passes before every
strand whose turn it is has issued (R34). -/
def State.move (s : State) (m : Move) : Host.Outcome State Fault Refusal :=
  match m with
  | .issue t x => s.issueNext t x
  | .strand i t x => s.happen (.strand i t x) i
  | .unit i n m => s.happen (.unit i n m) i
  | .event i => s.happen (.event i) i
  | .tick n =>
    if n = 0 then .next s
    else match s.nextIssuer with
      | some (t, x) => .next { s with agenda := .issue t x :: .tick n :: s.agenda }
      | none =>
        let s' := s.tick
        .next { s' with agenda := s.ending.flatMap s'.due ++ (if n = 1 then [] else [.tick (n - 1)]) ++ s'.agenda }
  | .perform t x => .next (s.performOne t x)
  | .evictL1 k line => .next (match s.findL1 k line with
    | some l => let s' := s.writeBackL1 l
                { s' with l1 := s'.l1.filter fun q => !(q.core == k && q.line == line) }
    | none => s)
  | .evictL2 slice line => .next (match s.findRind slice line with
    | some r => if r.pin then s else s.evictRind slice line
    | none => s)
  | .bringup d => .next (s.nextStage d)
  | .bringupFails d => .next (s.stageFails d)
  | .channelFails d ch => .next (s.channelFails d ch)
  | .cxlLink d idle => .next (s.updDevice d fun dv => { dv with cxlIdle := idle })

/-! ### Placing one instruction -/

/-- The address, its level-1 and level-2 tables and the frame at which `withFetchWord` stores an instruction. -/
def codeVa : Word := 0x20000000000
def codeRoot : Nat := 0x10000
def codeTable : Nat := 0x20000
def codeFrame : Nat := 0x20000000

/-- The thread that runs it: the supervisor thread of die 0 (R393). -/
def codeThread : Nat := 7

/-- An instruction's bytes and the tables that map them, in cluster 0's owned HBM: a level-1 pointer entry, a level-2 leaf
of kind RC that is readable, for the partition of cluster 0 (R329, R330). -/
def codeMemory (m : List Host.Cell) (part : Nat) (bytes : List Byte) : List Host.Cell :=
  let leaf : Nat := part * 2 ^ 58 + codeFrame / 0x10000 * 2 ^ 18 + 2 ^ 12 + 3
  let m := memWrite m (physKey 0 codeRoot) (leBytes 8 (codeTable / 0x10000 * 2 ^ 18 + 1))
  let m := memWrite m (physKey 0 (codeTable + 8 * 4096)) (leBytes 8 leaf)
  memWrite m (physKey 0 codeFrame) bytes

/-- Lines that hold an instruction or its tables. -/
def codeLine (line : Nat) : Bool :=
  line == physKey 0 codeRoot / 64 || line == physKey 0 (codeTable + 8 * 4096) / 64 || line == physKey 0 codeFrame / 64

/-- The X-strand of the thread, about to issue at the address. -/
def codeThreadOf (th : Thread) : Thread :=
  { th with isSup := true, x := { th.x with pc := codeVa, sup := true, status := .ready, pend := [], trap := none, flight := none
                                            nextIssue := 0, acquire := [] } }

/-- A state whose very next step issues an instruction of these bytes (log 6): bring-up complete, the supervisor thread
placed and its turn come, the tables and the bytes in memory and no copy of them in a cache. -/
def State.placeCode (s : State) (bytes : List Byte) : State :=
  let cl := s.cluster 0
  { s with
    devices := tset s.devices 0 { s.device 0 with stage := 8, stopped := false }
    partitions := s.partitions.map fun p => if p.2.device = 0 ∧ p.2.dies.getLsbD 0 = true then (p.1, { p.2 with tdisp := .run }) else p
    threads := tset s.threads codeThread (codeThreadOf (s.thread codeThread))
    cores := tset s.cores 0 { s.core 0 with lastX := 6, usedX := 0, usedA := s.cycleOf 0 + 1 }
    clusters := tset s.clusters 0 { cl with ptroot := wordOf codeRoot, service := .inService }
    mem := codeMemory s.mem cl.part.toNat bytes
    poison := s.poison.filter (fun k => !codeLine (k / 64))
    rind := s.rind.filter (fun r => !codeLine r.line), il1 := s.il1.filter (fun l => !codeLine l.line), tlb := []
    agenda := [.issue codeThread .strandX] }

end Sys2Proof.Machine
end

