-- ==== Sys2Proof/Machine/Describe.lean ====
section
/-! DEFINITION. The table of what each instruction row's description permits (R68, R69): one line a row, the description
that the row's meaning is checked against. -/

namespace Sys2Proof.Machine

/-- The fields of an instruction row and its description; none for a row of device steps. `acc` is the issuing thread's
`%acc`, which `mring` alone asks. -/
def describe (acc : BitVec 8) : Instr → Option (Enc × Desc)
  | .nop e => some (e, controlDesc e)
  | .br e => some (e, brDesc e)
  | .brl e => some (e, brlDesc e)
  | .jmp e => some (e, jmpDesc e)
  | .jmpl e => some (e, jmplDesc e)
  | .dbnz e => some (e, dbnzDesc e)
  | .trap e => some (e, trapDesc e)
  | .brk e => some (e, brkDesc e)
  | .kget e => some (e, kgetDesc e)
  | .kset e => some (e, ksetDesc e)
  | .kswap e => some (e, kswapDesc e)
  | .sret e => some (e, sretDesc e)
  | .uret e => some (e, controlDesc e)
  | .add e => some (e, intDesc e (tyS8toU64 e.ty) true)
  | .sub e => some (e, intDesc e (tyS8toU64 e.ty) true)
  | .mul e => some (e, intDesc e (tyS8toU64 e.ty) true)
  | .mulh e => some (e, intDesc e (ty32or64 e.ty) false)
  | .mad e => some (e, madDesc e)
  | .div e => some (e, intDesc e (tyS8toU64 e.ty) true)
  | .rem e => some (e, intDesc e (tyS8toU64 e.ty) false)
  | .min e => some (e, intDesc e (tyS8toU64 e.ty) false)
  | .max e => some (e, intDesc e (tyS8toU64 e.ty) false)
  | .abs e => some (e, absDesc e)
  | .sel e => some (e, selDesc e)
  | .ldi e => some (e, ldiDesc e)
  | .ldp e => some (e, ldpDesc e)
  | .and e => some (e, bitDesc e)
  | .or e => some (e, bitDesc e)
  | .xor e => some (e, bitDesc e)
  | .andn e => some (e, bitDesc e)
  | .shl e => some (e, shiftDesc e false)
  | .shr e => some (e, shiftDesc e false)
  | .sar e => some (e, shiftDesc e true)
  | .rotl e => some (e, shiftDesc e false)
  | .clz e => some (e, countDesc e)
  | .ctz e => some (e, countDesc e)
  | .popc e => some (e, countDesc e)
  | .bfx e => some (e, bfxDesc e)
  | .bfi e => some (e, bfiDesc e)
  | .cmp e => some (e, cmpDesc e)
  | .plog e => some (e, plogDesc e)
  | .fadd e => some (e, floatDesc e true)
  | .fsub e => some (e, floatDesc e true)
  | .fmul e => some (e, floatDesc e true)
  | .ffma e => some (e, ffmaDesc e)
  | .fdiv e => some (e, floatDesc e true)
  | .fsqrt e => some (e, fsqrtDesc e)
  | .fmin e => some (e, floatDesc e false)
  | .fmax e => some (e, floatDesc e false)
  | .fcmp e => some (e, fcmpDesc e)
  | .fcvt e => some (e, fcvtDesc e)
  | .fsgn e => some (e, fsgnDesc e)
  | .fclass e => some (e, fclassDesc e)
  | .vadd e => some (e, vecIntDesc e true)
  | .vsub e => some (e, vecIntDesc e true)
  | .vmul e => some (e, vecIntDesc e true)
  | .vmulh e => some (e, vecIntDesc e false)
  | .vmad e => some (e, vmadDesc e)
  | .vmin e => some (e, vecIntDesc e false)
  | .vmax e => some (e, vecIntDesc e false)
  | .vabs e => some (e, vabsDesc e)
  | .vand e => some (e, vecBitDesc e)
  | .vor e => some (e, vecBitDesc e)
  | .vxor e => some (e, vecBitDesc e)
  | .vshl e => some (e, vecDesc (e.fn == 0 && tyIsInt e.ty && !tySigned e.ty))
  | .vshr e => some (e, vecDesc (e.fn == 0 && tyIsInt e.ty && !tySigned e.ty))
  | .vsar e => some (e, vecDesc (e.fn == 0 && tyIsInt e.ty && tySigned e.ty))
  | .vcmp e => some (e, vcmpDesc e)
  | .vsel e => some (e, vselDesc e)
  | .vfadd e => some (e, vecFloatDesc e true)
  | .vfsub e => some (e, vecFloatDesc e true)
  | .vfmul e => some (e, vecFloatDesc e true)
  | .vffma e => some (e, vffmaDesc e)
  | .vfdiv e => some (e, vecFloatDesc e true)
  | .vfsqrt e => some (e, vfsqrtDesc e)
  | .vfmin e => some (e, vecFloatDesc e false)
  | .vfmax e => some (e, vecFloatDesc e false)
  | .vfcmp e => some (e, vfcmpDesc e)
  | .vfcvt e => some (e, vfcvtDesc e)
  | .vfsgn e => some (e, vecDesc (e.fn.toNat ≤ 2 && tyIsFloat e.ty))
  | .vfclass e => some (e, vfclassDesc e)
  | .bmaxe e => some (e, bmaxeDesc e)
  | .malign e => some (e, malignDesc e)
  | .vbcast e => some (e, vbcastDesc e)
  | .vbcastEl e => some (e, vbcastElDesc e)
  | .vperm e => some (e, vpermDesc e)
  | .vshuf e => some (e, vshufDesc e)
  | .vext e => some (e, vextDesc e)
  | .vextEl e => some (e, vextElDesc e)
  | .vins e => some (e, vinsDesc e)
  | .vred e => some (e, vredDesc e)
  | .vredQueue e => some (e, vredQueueDesc e)
  | .vscan e => some (e, vscanDesc e)
  | .vcomp e => some (e, vcompDesc e)
  | .lbc e => some (e, lbcDesc e)
  | .vlq e => some (e, vlqDesc e)
  | .pcnt e => some (e, predCountDesc e)
  | .pfirst e => some (e, predCountDesc e)
  | .pset e => some (e, psetDesc e)
  | .vexp2 e => some (e, sfDesc e)
  | .vlog2 e => some (e, sfDesc e)
  | .vrcp e => some (e, sfDesc e)
  | .vrsq e => some (e, sfDesc e)
  | .vsin e => some (e, sfDesc e)
  | .vcos e => some (e, sfDesc e)
  | .vtanh e => some (e, sfDesc e)
  | .welf e => some (e, welfRowDesc e)
  | .wmerge e => some (e, wmergeDesc e)
  | .wred e => some (e, wredDesc e)
  | .wfin e => some (e, wfinDesc e)
  | .ld e => some (e, ldDesc e)
  | .st e => some (e, stDesc e)
  | .vld e => some (e, vldDesc e)
  | .vst e => some (e, vstDesc e)
  | .vlds e => some (e, vldsDesc e)
  | .vsts e => some (e, vstsDesc e)
  | .vldx e => some (e, vldxDesc e)
  | .vstx e => some (e, vstxDesc e)
  | .tld e => some (e, tldDesc e)
  | .vtld e => some (e, vtldDesc e)
  | .rdm e => some (e, rdmDesc e)
  | .rdmm e => some (e, rdmmDesc e)
  | .tstat e => some (e, tstatDesc e)
  | .tdrop e => some (e, tdropDesc e)
  | .pull e => some (e, pullDesc e)
  | .pullr e => some (e, pullrDesc e)
  | .fence e => some (e, fenceDesc e)
  | .clean e => some (e, maintDesc e 0)
  | .inval e => some (e, maintDesc e 0)
  | .invalI e => some (e, maintDesc e 1)
  | .discard e => some (e, maintDesc e 0)
  | .pref e => some (e, prefDesc e)
  | .lease e => some (e, leaseDesc e)
  | .unlease e => some (e, unleaseDesc e)
  | .ldsync e => some (e, feDesc e 0)
  | .ldsyncTake e => some (e, feDesc e 1)
  | .stsync e => some (e, stsyncDesc e)
  | .feset e => some (e, fesetDesc e)
  | .festat e => some (e, festatDesc e)
  | .cinc e => some (e, cincDesc e)
  | .csetCount e => some (e, csetCountDesc e)
  | .csetPend e => some (e, csetPendDesc e)
  | .cwait e => some (e, cwaitDesc e)
  | .cwaitPh e => some (e, cwaitPhDesc e)
  | .cphase e => some (e, cphaseDesc e)
  | .bar e => some (e, barDesc e)
  | .advseq e => some (e, advseqDesc e)
  | .watch e => some (e, watchDesc e)
  | .unwatch e => some (e, unwatchDesc e)
  | .arm e => some (e, armDesc e)
  | .disarm e => some (e, disarmDesc e)
  | .aadd e => some (e, atomicDesc e)
  | .aand e => some (e, atomicDesc e)
  | .aor e => some (e, atomicDesc e)
  | .axor e => some (e, atomicDesc e)
  | .amin e => some (e, atomicDesc e)
  | .amax e => some (e, atomicDesc e)
  | .aswp e => some (e, atomicDesc e)
  | .acas e => some (e, acasDesc e)
  | .rsst e => some (e, rsstDesc e)
  | .rsld e => some (e, rsldDesc e)
  | .rsclr e => some (e, rsclrDesc e)
  | .msadd e => some (e, msDesc e true true)
  | .msmul e => some (e, msDesc e true true)
  | .msfma e => some (e, msDesc e true true)
  | .msscale e => some (e, msDesc e true true)
  | .mscopy e => some (e, msDesc e false false)
  | .msfill e => some (e, msDesc e true false)
  | .msrow e => some (e, msDesc e false false)
  | .mszero e => some (e, msDesc e false false)
  | .mma e => some (e, mmaDesc e (if e.ty == .pl then [0, 1, 2, 3] else [0]) [0])
  | .mring e => some (e, mringDesc e acc)
  | .scacc e => some (e, scaccDesc e)
  | .cld e => some (e, tileMemDesc e)
  | .cst e => some (e, cstDesc e)
  | .czero e => some (e, czeroDesc e)
  | .cstat e => some (e, cstatDesc e 0)
  | .cstatClr e => some (e, cstatDesc e 1)
  | .mprio e => some (e, mprioDesc e)
  | .rgset e => some (e, rgsetDesc e)
  | .rgclr e => some (e, rgclrDesc e)
  | .rgstat e => some (e, rgstatDesc e)
  | .cpy e => some (e, cpyDesc e)
  | .cpyL2 e => some (e, cpyL2Desc e)
  | .cpys e => some (e, cpysDesc e)
  | .send e => some (e, sendDesc e)
  | .sendeos e => some (e, sendeosDesc e)
  | .qstat e => some (e, qstatDesc e)
  | .park e => some (e, parkDesc e)
  | .spawn e => some (e, spawnDesc e)
  | .reap e => some (e, reapDesc e)
  | .preempt e => some (e, preemptDesc e)
  | .resumeJob e => some (e, resumeJobDesc e)
  | .resumeRun e => some (e, sysDesc e 1)
  | .ctxsave e => some (e, ctxsaveDesc e)
  | .ctxsaveDrop e => some (e, sysDesc e 1)
  | .ctxload e => some (e, ctxloadDesc e)
  | .ctxloadDrop e => some (e, ctxloadDropDesc e)
  | .tlbinvCtx e => some (e, tlbinvDesc e 0 [3, 4, 5])
  | .tlbinvOwn e => some (e, tlbinvDesc e 1 [3])
  | .tprobeCtx e => some (e, sysDesc e 0)
  | .tprobeOwn e => some (e, sysDesc e 1)
  | .illegalOpcode _ => none
  | .longOpComplete _ _ _ => none
  | .userTrapEntry => none
  | .supervisorTrapEntry => none
  | .messageArrival => none
  | .refusalReceived => none
  | .requestRepresent => none
  | .sendRepresent => none
  | .spawnRecordAdmit => none
  | .spawnPlacement => none
  | .spawnPriorityAge => none
  | .clusterScrub => none
  | .ticketAllocate => none
  | .ticketLineFill => none
  | .ticketLeaseExpiry => none
  | .ticketPresent => none
  | .copyBlockComplete => none
  | .copyJobFault => none
  | .fenceComplete => none
  | .feWordEvent => none
  | .remoteLdsyncRequest => none
  | .acquireAtReleaser => none
  | .pageCountPeriod => none
  | .counterArrival => none
  | .armActionRun => none
  | .watchPlaceRequest => none
  | .watchAnswerDelivery => none
  | .watchAnswerReoffer => none
  | .unwatchRequest => none
  | .atomicExecute _ _ _ => none
  | .msLineComplete => none
  | .matrixOpStart => none
  | .matrixPriorityAge => none
  | .matrixOperandFetch => none
  | .matrixKstep => none
  | .ringGroupForm => none
  | .ringLatchArrival => none
  | .ringWatchdogExpiry => none
  | .regionCopyRow => none
  | .regionCopyFault => none
  | .l2LineInstall => none
  | .pasteEccError => none
  | .l2statSnapshot => none
  | .leaseExpiry _ _ _ => none
  | .establish _ _ => none
  | .cxcDrain _ _ => none
  | .cxcRelease _ _ => none
  | .circuitTuningDone _ _ _ => none
  | .circuitDrainDone _ _ => none
  | .tfence _ _ => none
  | .tableFenceComplete => none
  | .requestBounce => none
  | .linkAdmission => none
  | .permitGrantTimeout => none
  | .linkReplay => none
  | .packetForward _ _ => none
  | .packetDelivery _ _ => none
  | .packetAck => none
  | .dropNotice => none
  | .packetRetransmitTimeout => none
  | .requestAnswerTimeout => none
  | .laneFailure _ _ => none
  | .hostMemWrite _ _ _ => none
  | .hostMemRead _ _ _ => none
  | .hostMemoryWrite _ _ _ => none
  | .registerWrite _ _ _ => none
  | .partcreate => none
  | .partdestroy => none
  | .rekey => none
  | .loadImage => none
  | .drain => none
  | .online => none
  | .resetCluster => none
  | .chretire => none
  | .retrain => none
  | .retrainWindowEnd _ _ => none
  | .fwupdate => none
  | .firmwareActivate _ _ => none
  | .getVersion => none
  | .getCapabilities => none
  | .negotiateAlgorithms _ _ => none
  | .getDigests => none
  | .getCertificate _ _ _ _ => none
  | .challenge _ _ _ => none
  | .getMeasurements _ _ _ => none
  | .keyExchange _ _ _ => none
  | .finish _ _ _ => none
  | .keyUpdate _ _ => none
  | .endSession => none
  | .tdispStop _ _ _ => none
  | .correctedError _ _ => none
  | .uncorrectableError => none
  | .clusterFence => none
  | .deviceReset => none
  | .bringupStageTimeout => none
  | .powerClockStep _ _ => none
  | .thermalThrottle _ _ _ => none
  | .thermalShutdown _ _ => none
  | .pldmMonitor => none
  | .pldmFwUpdate _ _ _ _ => none
  | .tdispLock _ _ => none
  | .tdispStart _ _ => none
  | .podMembershipSet _ _ _ _ _ => none
  | .retrainWindowStart _ _ => none
  | .portTrainingComplete _ _ _ => none

/-- An instruction row, which a strand issues. -/
def isRow (i : Instr) : Bool := (describe 0 i).isSome

/-- The state in which an instruction row has its own effect: the strand exists, steps 1 to 5 of R69 pass, no token of
the wait mask stands in the way (R63), and the guard enables the instruction (R62). None where one of these fails, and
for a row of device steps. -/
def accept (i : Instr) (s : State) : Option State :=
  match describe s.me.acc i, s.thread? s.curT with
  | some (e, d), some _ =>
    match d.check e s.me s.curX, s.waitMask e.wm with
    | none, .ok s1 => if !d.vec && !s1.my.guardOn e then none else some s1
    | _, _ => none
  | _, _ => none

end Sys2Proof.Machine
end

