-- ==== Sys2Proof/Safety.lean ====
section
/-! DEFINITION. What counts as a safe run, and the forms in which the statements say what a row's next state is. -/

namespace Sys2Proof

open Machine

/-! ### Element values -/

/-- The integer that an element of the instruction's type holds (R65, R104). -/
def Enc.int (e : Enc) (v : Word) : Int := intOf (tySigned e.ty) (tyWidth false e.ty) v.toNat

/-- The register value of an exact integer result: clamped under SAT, else reduced modulo 2^w, then extended to 64 bits
by the signedness of the type (R104, R132). -/
def Enc.fromInt (e : Enc) (t : Int) : Word :=
  extendInt (tySigned e.ty) (tyWidth false e.ty) (narrowInt e.sat (tySigned e.ty) (tyWidth false e.ty) t)

/-- Bits [w−1:0] of a source (R132). -/
def Enc.bits (e : Enc) (v : Word) : Nat := v.toNat % 2 ^ tyWidth false e.ty

/-- The register value of a result of w bits (R132). -/
def Enc.fromBits (e : Enc) (n : Nat) : Word := extendInt (tySigned e.ty) (tyWidth false e.ty) n

/-- The integer that a vector element of the instruction's type holds. -/
def Enc.elemInt (e : Enc) (v : Nat) : Int := intOf (tySigned e.ty) (tyWidth true e.ty) v

/-- The element of an exact integer result (R104). -/
def Enc.elemFrom (e : Enc) (t : Int) : Nat := narrowInt e.sat (tySigned e.ty) (tyWidth true e.ty) t

end Sys2Proof

namespace Sys2Proof.Machine

/-! ### Safe runs -/

/-- The invariant of the model: memory is in its one canonical form. -/
def State.Inv (s : State) : Prop := s.memOk = true

/-- A run of k steps that stops nowhere. -/
def SafeRun : Nat → State → Prop
  | 0, _ => True
  | k + 1, s => ∃ t, step s = .next t ∧ SafeRun k t

/-! ### Results of scalar rows -/

/-- A scalar row of one result: wherever it is accepted, a queue destination has room and its sources can be read, it
retires with the value and the flags that `f` gives. `f` sees the fields, the strand before the sources are read, and
SA and SB. -/
def ScalarResult (row : Enc → Instr) (long : Bool) (f : Enc → Strand → Word → Word → Word × List RegWrite) : Prop :=
  ∀ (e : Enc) (s s1 s2 : State) (a b : Word) (ws : List RegWrite),
    accept (row e) s = some s1 →
    s1.needRoom e.da 1 (long || popsQueue e) = .ok () →
    s1.readPair e = .ok ((a, b), ws, s2) →
    exec (row e) s = .next (s2.retire e.la (long || popsQueue e)
      (ws ++ (f e s1.my a b).2 ++ [destWrite s2.my e.da (f e s1.my a b).1]))

/-- A scalar comparison: every bit of the destination predicate receives the relation (R145). -/
def CompareResult (row : Enc → Instr) (f : Enc → Word → Word → Bool × BitVec 5) : Prop :=
  ∀ (e : Enc) (s s1 s2 : State) (a b : Word) (ws : List RegWrite),
    accept (row e) s = some s1 →
    s1.readPair e = .ok ((a, b), ws, s2) →
    exec (row e) s = .next (s2.retire e.la (popsQueue e)
      (ws ++ [.fps (f e a b).2, .p e.da.idx.toNat (BitVec.allOnes 256) (allBits (f e a b).1)]))

/-- A row that retires at once with register writes computed from the accepted state. -/
def WritesResult (row : Enc → Instr) (long : Bool) (f : Enc → State → List RegWrite) : Prop :=
  ∀ (e : Enc) (s s1 : State), accept (row e) s = some s1 →
    exec (row e) s = .next (s1.retire e.la long (f e s1))

/-! ### Results of vector rows -/

/-- The vector, and the flags, of a function of old destination, SA and SB elements, on the enabled elements of a
strand (R119, R160). -/
def vectorOf (e : Enc) (st : Strand) (d a b : VReg) (f : Nat → Nat → Nat → FRes) : VReg × BitVec 5 :=
  let w := tyWidth true e.ty
  let rs := (enabledElems st e w).map fun i => (i, f (elemOf w d i) (elemOf w a i) (elemOf w b i))
  (packElems w (rs.map fun r => (r.1, r.2.1)), orFlags (rs.map (·.2)))

/-- A vector row of one result: wherever it is accepted, a queue destination has room and its sources can be read, the
enabled elements of the destination receive the values of `f`. -/
def VectorResult (row : Enc → Instr) (long : Bool) (f : Enc → Nat → Nat → Nat → FRes) : Prop :=
  ∀ (e : Enc) (s s1 s2 s3 : State) (a b : VReg) (wa wb : List RegWrite),
    accept (row e) s = some s1 →
    s1.needRoom e.da 1 (long || popsQueue e) = .ok () →
    s1.readVecSrc e (tyWidth true e.ty) e.sa = .ok (a, wa, s2) →
    s2.readVecSrc e (tyWidth true e.ty) e.sb = .ok (b, wb, s3) →
    exec (row e) s = .next (s3.retire e.la (long || popsQueue e)
      (wa ++ wb ++ [.fps (vectorOf e s3.my (s3.me.getV e.da.idx.toNat) a b (f e)).2,
        destWriteV s3.my e.da (elemMask (s3.my.guard e) (tyWidth true e.ty))
          (vectorOf e s3.my (s3.me.getV e.da.idx.toNat) a b (f e)).1]))

/-- A vector comparison: the predicate bits of the enabled elements receive the relation (R161, R165). -/
def VectorCompareResult (row : Enc → Instr) (f : Enc → Nat → Nat → Bool × BitVec 5) : Prop :=
  ∀ (e : Enc) (s s1 s2 s3 : State) (a b : VReg) (wa wb : List RegWrite),
    accept (row e) s = some s1 →
    s1.readVecSrc e (tyWidth true e.ty) e.sa = .ok (a, wa, s2) →
    s2.readVecSrc e (tyWidth true e.ty) e.sb = .ok (b, wb, s3) →
    let w := tyWidth true e.ty
    let rs := (enabledElems s3.my e w).map fun i => (i, f e (elemOf w a i) (elemOf w b i))
    exec (row e) s = .next (s3.retire e.la (popsQueue e) (wa ++ wb ++
      [.fps (rs.foldl (fun a r => a ||| r.2.2) 0),
       .p e.da.idx.toNat (predMask (s3.my.guard e) w) (predOf w ((rs.filter fun r => r.2.1).map (·.1)))]))

/-- A row that moves elements: element i of the destination, where enabled, receives `f i` (R162). -/
def movedTo (e : Enc) (long : Bool) (ws : List RegWrite) (f : Nat → Nat) (s : State) : State :=
  s.retire e.la long (ws ++ [destWriteV s.my e.da (elemMask (s.my.guard e) (tyWidth true e.ty))
    (packElems (tyWidth true e.ty) ((enabledElems s.my e (tyWidth true e.ty)).map fun i => (i, f i)))])

/-! ### Results of memory rows -/

/-- A vector load of the elements that `at_` lists: wherever it is accepted, a queue destination has room, the range of
a contiguous form lies in one window and every element's address passes its checks, the enabled elements receive what
memory holds. -/
def VectorLoadResult (row : Enc → Instr) (range : Enc → State → Except Stop Unit)
    (at_ : Enc → State → List (Nat × Word × Option Nat)) : Prop :=
  ∀ (e : Enc) (s s1 s2 s3 s4 : State) (els : List Elem),
    accept (row e) s = some s1 →
    s1.needRoom e.da 1 true = .ok () →
    range e s1 = .ok () →
    s1.checkElems s1.curT (tyWidth true e.ty / 8) e.sw.toNat false (at_ e s1) = .ok (els, s2) →
    s2.touchAll s2.curT els = .ok s3 →
    s3.admitAll 0 els = .ok s4 →
    let r := s4.readElems s4.curT s4.curX (tyWidth true e.ty / 8) (e.gs == 1) els
    exec (row e) s = .next (r.2.2.retireLoad e.la
      [destWriteV r.2.2.my e.da (elemMask (s4.my.guard e) (tyWidth true e.ty)) (packElems (tyWidth true e.ty) r.1)] r.2.1)

/-- A vector store to the elements that `at_` lists. -/
def VectorStoreResult (row : Enc → Instr) (range : Enc → State → Except Stop Unit)
    (at_ : Enc → State → List (Nat × Word × Option Nat)) : Prop :=
  ∀ (e : Enc) (s s1 s2 s3 : State) (els : List Elem) (v : VReg) (ws : List RegWrite),
    accept (row e) s = some s1 →
    s1.needEntry e.da = .ok () →
    range e s1 = .ok () →
    s1.checkElems s1.curT (tyWidth true e.ty / 8) e.sw.toNat true (at_ e s1) = .ok (els, s2) →
    s2.readVec e.da = .ok (v, ws, s3) →
    let p := s3.storeRelease (e.gs == 2)
    exec (row e) s = .next ((p.2.storeElems p.2.curT p.2.curX (tyWidth true e.ty / 8) p.1 (elemOf (tyWidth true e.ty) v)
      els).retire e.la (e.da.cls == .queue) ws)

/-- A read-modify-write row, wherever it is accepted and its place passes its checks: one whose request needs no admission, or
has it, is accepted as a long operation that the place performs once; any other presents its request (R194, R271, R275,
R276). -/
def AtomicAccepted (row : Enc → Instr) (op : AtomicOp) : Prop :=
  ∀ (e : Enc) (s s1 s2 s3 : State) (g : Target),
    accept (row e) s = some s1 →
    s1.resolve s1.curT (effAddr s1 e) (tyWidth false e.ty / 8) (tyWidth false e.ty / 8) e.sw.toNat .atomic false = .ok (g, s2) →
    atomicPlaceBad op e.ty g = none →
    s2.touchRange s2.curT g = .ok s3 →
    let dm := s3.lineDomain s2.curT g
    let a : AtomicWait := ⟨{ op := op, ty := e.ty, key := g.key, va := effAddr s1 e, home := g.home, kind := g.kind
                             b := s3.my.getS e.sb.idx.toNat, d := s3.my.getS e.da.idx.toNat, dst := e.da.idx.toNat
                             acq := e.gs.getLsbD 0, rel := [], part := dm.1, dom := dm.2.1, ctx := dm.2.2 },
                           e.gs.getLsbD 1, e.la⟩
    let die := targetDie s2.curT g
    (∀ s4, s3.admitReq die 0 = .ok s4 → exec (row e) s = .next (s4.acceptAtomic s2.curT s4.curX a)) ∧
    (crossesLink s3.curT die = true → (s3.my.flight.any fun f => f.has die false) = false →
      exec (row e) s = .next ((s3.updMy fun st =>
        { st with flight := some { newFlight s3 s3.curT s3.curX die 0 none with atomic := some a } }).block s.curT s.curX .answer))

/-- What the holding slice answers to a ticket that a thread's strand presents (R198). -/
def State.ticketAsked (s : State) (t : Nat) (w : Word) : TicketAnswer :=
  s.ticketAnswer (deviceOf t) ((s.cluster (clusterOf t)).part.toNat) w

/-! ### Frames -/

/-- A strand is as it was, or, where `p` allows it, was parked and goes on (R52). -/
def Strand.keptOrResumed (p : Prop) (a b : Strand) : Prop := b = a ∨ (p ∧ (∃ m, a.status = .parked m) ∧ b = a.advance)

/-- An operand of the row is a queue. -/
def namesQueue (e : Enc) : Prop := ∃ o ∈ [e.da, e.sa, e.sb], o.cls = .queue

/-- What a row that completes leaves as it was, `vs` naming the vector registers that it may write, `ks` the special registers
beside `%fps` and `%eos`, and `fl` saying whether it may raise floating-point flags: all of memory; every other thread; the
other strand, which only a row with a queue operand may resume where it is parked (R52); every scalar register but a class-0
DA; every predicate register but a class-2 DA; the other vector registers, the tiles and clusters; every queue that no operand
names; every other special register but `%fps`, whose flags are only ever set, and, where a source is a queue, `%eos`; the
level and the handler bit. -/
def RowFrame (e : Enc) (vs ks : List Nat) (fl : Bool) (s t : State) : Prop :=
  t.curT = s.curT ∧ t.curX = s.curX ∧ (∀ a, memGet t.mem a = memGet s.mem a) ∧ t.feEmpty = s.feEmpty ∧
  (∀ k, k ≠ s.curT → t.thread k = s.thread k) ∧
  (∀ x, x ≠ s.curX → Strand.keptOrResumed (namesQueue e) (s.me.strand x) (t.me.strand x)) ∧
  (∀ n, (n ≠ e.da.idx.toNat ∨ e.da.cls ≠ .scalar) → t.my.getS n = s.my.getS n) ∧
  (∀ n, (n ≠ e.da.idx.toNat ∨ e.da.cls ≠ .predicate) → t.my.getP n = s.my.getP n) ∧
  (∀ n, n ∉ vs → t.me.getV n = s.me.getV n) ∧ t.cores = s.cores ∧ t.clusters = s.clusters ∧ t.devices = s.devices ∧
  (∀ q, (∀ o ∈ [e.da, e.sa, e.sb], o.cls = .queue → o.idx.toNat ≠ q) → t.me.getQ q = s.me.getQ q) ∧
  (∀ k, k ∉ ks → k ≠ 9 → (k ≠ 11 ∨ popsQueue e = false) → t.special k = s.special k) ∧
  (fl = false → t.my.fps = s.my.fps) ∧ s.my.fps &&& t.my.fps = s.my.fps ∧
  t.my.sup = s.my.sup ∧ t.my.uh = s.my.uh

/-- The frame of a scalar row, which writes no vector register. -/
abbrev ScalarFrame (e : Enc) (fl : Bool) (s t : State) : Prop := RowFrame e [] [] fl s t

/-- The issuing strand's instruction has completed, rather than trapped or gone to wait: one more instruction is behind it. -/
def completed (s t : State) : Prop := (t.strand s.curT s.curX).order = s.my.order + 1

/-- The vector registers that DA names, n of them in a row. -/
def daVectors (n : Nat) (e : Enc) : List Nat := if e.da.cls = .vector then (List.range n).map (e.da.idx.toNat + ·) else []

/-- A row leaves its frame as it was wherever it completes, DA naming n vector registers. -/
def RowFramed (row : Enc → Instr) (n : Nat) (fl : Bool) : Prop :=
  ∀ (e : Enc) (s t : State), exec (row e) s = .next t → completed s t → RowFrame e (daVectors n e) [] fl s t

/-- What a write of special register k0, and of scalar register d where one is written, leaves as it was: all of memory, every
other thread, strand, register, queue and special register, and in the clusters all but the special registers of the own. -/
def SpecialFrame (k0 : Nat) (d : Option Nat) (s t : State) : Prop :=
  let off (cl : Cluster) : Cluster := { cl with svec := 0, ptroot := 0, ownroot := 0, ctxReg := 0, watchdog := 0 }
  t.curT = s.curT ∧ t.curX = s.curX ∧ (∀ a, memGet t.mem a = memGet s.mem a) ∧ t.feEmpty = s.feEmpty ∧
  (∀ k, k ≠ s.curT → t.thread k = s.thread k) ∧ (∀ x, x ≠ s.curX → t.me.strand x = s.me.strand x) ∧
  (∀ n, d ≠ some n → t.my.getS n = s.my.getS n) ∧ (∀ n, t.my.getP n = s.my.getP n) ∧ (∀ n, t.me.getV n = s.me.getV n) ∧
  (∀ q, t.me.getQ q = s.me.getQ q) ∧ t.cores = s.cores ∧ t.devices = s.devices ∧
  (∀ c, c ≠ clusterOf s.curT → t.cluster c = s.cluster c) ∧
  off (t.cluster (clusterOf s.curT)) = off (s.cluster (clusterOf s.curT)) ∧
  (∀ k, k ≠ k0 → t.special k = s.special k) ∧ t.my.sup = s.my.sup ∧ t.my.uh = s.my.uh

/-- A scalar row completes wherever it is accepted, a queue destination has room and its sources can be read, and leaves
the frame as it was. -/
def ScalarFramed (row : Enc → Instr) (long fl : Bool) : Prop :=
  ∀ (e : Enc) (s s1 s2 : State) (a b : Word) (ws : List RegWrite),
    accept (row e) s = some s1 →
    s1.needRoom e.da 1 (long || popsQueue e) = .ok () →
    s1.readPair e = .ok ((a, b), ws, s2) →
    ∃ t, exec (row e) s = .next t ∧ ScalarFrame e fl s t

/-- A key outside every place of n bytes that a list of elements names. -/
def outside (l : List Elem) (n a : Nat) : Prop := ∀ el ∈ l, a < el.g.key ∨ el.g.key + n ≤ a

/-- What core k's L1 holds of a byte: its value and whether it is dirty. -/
def State.l1Byte (s : State) (k a : Nat) : Option (Byte × Bool) :=
  match s.findL1 k (a / 64) with
  | some l => if l.valid.getLsbD (a % 64) then some ((l.data >>> (8 * (a % 64))).setWidth 8, l.dirty.getLsbD (a % 64)) else none
  | none => none

/-- The issuing core's L1 has room for n lines more. -/
def State.l1Room (s : State) (n : Nat) : Prop := (s.l1.filter fun q => q.core == coreOf s.curT).length + n ≤ l1Lines

/-- What a load leaves as it was where it is accepted: every scalar, predicate and vector register, queue and special register
of the issuing thread, its results not yet known; every other thread and strand; the matrix cores, the full/empty bits and the
stores on their way. -/
def LoadFrame (s t : State) : Prop :=
  (∀ k, k ≠ s.curT → t.thread k = s.thread k) ∧ (∀ x, x ≠ s.curX → t.me.strand x = s.me.strand x) ∧
  (∀ n, t.my.getS n = s.my.getS n) ∧ (∀ n, t.my.getP n = s.my.getP n) ∧ (∀ n, t.me.getV n = s.me.getV n) ∧
  (∀ q, t.me.getQ q = s.me.getQ q) ∧ (∀ k, t.special k = s.special k) ∧ t.my.sup = s.my.sup ∧ t.my.uh = s.my.uh ∧
  t.cores = s.cores ∧ t.feEmpty = s.feEmpty ∧ t.stores = s.stores

/-- A load of elements of n bytes at the addresses that `at_` lists leaves its frame as it was wherever it completes. Where no
release is recorded with its bytes, so that it brings no line to its home, and the core's L1 has room for a line for each
element, so that none leaves it, every byte of memory is as it was too. -/
def LoadFramed (row : Enc → Instr) (n : Enc → Nat) (at_ : Enc → State → List (Nat × Word × Option Nat)) : Prop :=
  (∀ (e : Enc) (s t : State), exec (row e) s = .next t → completed s t → LoadFrame s t) ∧
  (∀ (e : Enc) (s s1 s2 t : State) (els : List Elem), accept (row e) s = some s1 →
    s1.checkElems s1.curT (n e) e.sw.toNat false (at_ e s1) = .ok (els, s2) →
    exec (row e) s = .next t → completed s t → s.l1Room els.length → (∀ el ∈ els, s.relOf el.g.key = []) →
    ∀ a, memGet t.mem a = memGet s.mem a)

/-- What a store of elements of n bytes leaves as it was: every byte outside its elements, as every strand's pending
stores hold it, and, where the core's L1 has room for a line for each element so that no line leaves it, as memory, the
slices and every core's L1 hold it; every register, queue and special register of the issuing thread but its PC; every
other thread. -/
def StoreFrame (l : List Elem) (n : Nat) (s t : State) : Prop :=
  (∀ a, outside l n a → ∀ u x b, t.forward u x a [b] = s.forward u x a [b]) ∧
  (s.l1Room l.length →
    (∀ a, outside l n a → memGet t.mem a = memGet s.mem a ∧ ∀ k, t.l1Byte k a = s.l1Byte k a) ∧ t.rind = s.rind) ∧
  (∀ k, k ≠ s.curT → t.thread k = s.thread k) ∧
  (∀ x, x ≠ s.curX → t.me.strand x = s.me.strand x) ∧
  (∀ k, t.my.getS k = s.my.getS k) ∧ (∀ k, t.my.getP k = s.my.getP k) ∧ (∀ k, t.me.getV k = s.me.getV k) ∧
  (∀ q, t.me.getQ q = s.me.getQ q) ∧ (∀ k, k ≠ 11 → t.special k = s.special k) ∧
  t.my.sup = s.my.sup ∧ t.my.uh = s.my.uh ∧ t.cores = s.cores

end Sys2Proof.Machine
end

