-- ==== Sys2Proof/Certificates/Slice0/Obligations.lean ====
section
/-! DEFINITION. The statements for the provers. -/

open Sys2Proof Sys2Proof.Machine

/-- R138 to R140, R104, R105, R131, R132: the scalar integer rows compute exactly, narrow once and extend; a zero
divisor gives a quotient with every bit set and the dividend as remainder, whatever SAT holds; `div` and `rem` are
long. -/
def Obligations.ScalarIntegerResults : Prop :=
  ScalarResult .add false (fun e _ a b => (e.fromInt (e.int a + e.int b), [])) ∧
  ScalarResult .sub false (fun e _ a b => (e.fromInt (e.int a - e.int b), [])) ∧
  ScalarResult .mul false (fun e _ a b => (e.fromInt (e.int a * e.int b), [])) ∧
  ScalarResult .mulh false (fun e _ a b =>
    (e.fromInt (Int.fdiv (e.int a * e.int b) ((2 ^ tyWidth false e.ty : Nat) : Int)), [])) ∧
  ScalarResult .mad false (fun e st a b => (e.fromInt (e.int (st.getS e.da.idx.toNat) + e.int a * e.int b), [])) ∧
  ScalarResult .div true (fun e _ a b =>
    (if e.int b = 0 then extendInt (tySigned e.ty) (tyWidth false e.ty) (2 ^ tyWidth false e.ty - 1)
     else e.fromInt ((e.int a).tdiv (e.int b)), [])) ∧
  ScalarResult .rem true (fun e _ a b => (e.fromInt (if e.int b = 0 then e.int a else (e.int a).tmod (e.int b)), [])) ∧
  ScalarResult .min false (fun e _ a b => (e.fromInt (if e.int a < e.int b then e.int a else e.int b), [])) ∧
  ScalarResult .max false (fun e _ a b => (e.fromInt (if e.int a > e.int b then e.int a else e.int b), [])) ∧
  ScalarResult .abs false (fun e _ a _ =>
    (extendInt true (tyWidth false e.ty) (narrowInt e.sat true (tyWidth false e.ty)
      (intOf true (tyWidth false e.ty) a.toNat).natAbs), [])) ∧
  ScalarResult .sel false (fun e st a b =>
    (if ((st.getP (e.imm.extractLsb' 0 4).toNat).getLsbD 0) != e.imm.getLsbD 4 then a else b, [])) ∧
  WritesResult .ldi false (fun e _ => [.s e.da.idx.toNat (e.imm.signExtend 64)]) ∧
  WritesResult .ldp false (fun e s => [.s e.da.idx.toNat (ldpRes e.fn.toNat e.imm (s.my.getS e.da.idx.toNat))])

/-- R141 to R144, R131, R132: the bitwise rows over 64 bits, the shifts with k = B mod w, the counts of leading zeros,
trailing zeros and set bits, and the bit fields at POS with length LEN. -/
def Obligations.BitAndShiftResults : Prop :=
  ScalarResult .and false (fun _ _ a b => (a &&& b, [])) ∧
  ScalarResult .or false (fun _ _ a b => (a ||| b, [])) ∧
  ScalarResult .xor false (fun _ _ a b => (a ^^^ b, [])) ∧
  ScalarResult .andn false (fun _ _ a b => (a &&& ~~~b, [])) ∧
  ScalarResult .shl false (fun e _ a b =>
    (e.fromBits ((e.bits a * 2 ^ (b.toNat % tyWidth false e.ty)) % 2 ^ tyWidth false e.ty), [])) ∧
  ScalarResult .shr false (fun e _ a b => (e.fromBits (e.bits a / 2 ^ (b.toNat % tyWidth false e.ty)), [])) ∧
  ScalarResult .sar false (fun e _ a b =>
    (e.fromBits (wrapNat (tyWidth false e.ty)
      (Int.fdiv (intOf true (tyWidth false e.ty) a.toNat) ((2 ^ (b.toNat % tyWidth false e.ty) : Nat) : Int))), [])) ∧
  ScalarResult .rotl false (fun e _ a b =>
    (e.fromBits ((e.bits a * 2 ^ (b.toNat % tyWidth false e.ty) +
      e.bits a / 2 ^ (tyWidth false e.ty - b.toNat % tyWidth false e.ty)) % 2 ^ tyWidth false e.ty), [])) ∧
  ScalarResult .clz false (fun e _ a _ => (wordOf (clzNat (tyWidth false e.ty) (e.bits a)), [])) ∧
  ScalarResult .ctz false (fun e _ a _ => (wordOf (ctzNat (tyWidth false e.ty) (e.bits a)), [])) ∧
  ScalarResult .popc false (fun e _ a _ => (wordOf (popcNat (tyWidth false e.ty) (e.bits a)), [])) ∧
  ScalarResult .bfx false (fun e _ a _ =>
    (extendInt (e.ty == .s64) (e.imm.extractLsb' 6 7).toNat (a.toNat / 2 ^ (e.imm.extractLsb' 0 6).toNat), [])) ∧
  ScalarResult .bfi false (fun e st a _ => (bfiRes e (st.getS e.da.idx.toNat) a, []))

/-- R145, R146, R148, R117: a comparison sets every bit of the destination predicate to its relation, `fcmp` raises IV
as its table says, and `plog` combines predicates bitwise. -/
def Obligations.ComparePredicateResults : Prop :=
  CompareResult .cmp (fun e a b => (intRel e.fn.toNat (tyWidth false e.ty) a.toNat b.toNat, 0)) ∧
  CompareResult .fcmp (fun e a b =>
    fRel e.fn.toNat (fDecode (fmtOf e.ty) e.ftz a.toNat) (fDecode (fmtOf e.ty) e.ftz b.toNat)) ∧
  WritesResult .plog false (fun e s => [.p e.da.idx.toNat (BitVec.allOnes 256)
    (plogRes e.fn.toNat (s.my.getP e.sa.idx.toNat) (s.my.getP e.sb.idx.toNat))])

/-- R147, R149, R150, R109 to R111, R114: the scalar floating-point rows round once in the mode of RM under FTZ and
SAT, and OR their flags into `%fps`; `fdiv` and `fsqrt` are long; `fsgn` and `fclass` raise no flag. -/
def Obligations.ScalarFloatResults : Prop :=
  ScalarResult .fadd false (fun e _ a b => fBin .add e a b) ∧
  ScalarResult .fsub false (fun e _ a b => fBin .sub e a b) ∧
  ScalarResult .fmul false (fun e _ a b => fBin .mul e a b) ∧
  ScalarResult .fdiv true (fun e _ a b => fBin .div e a b) ∧
  ScalarResult .fmin false (fun e _ a b => fBin .min e a b) ∧
  ScalarResult .fmax false (fun e _ a b => fBin .max e a b) ∧
  ScalarResult .ffma false (fun e st a b => fmaRes e (st.getS e.da.idx.toNat) a b) ∧
  ScalarResult .fsqrt true (fun e _ a _ =>
    fResult (sqrtBits (fmtOf e.ty) e.rm e.ftz e.sat (a.toNat % 2 ^ (fmtOf e.ty).width))) ∧
  ScalarResult .fcvt false (fun e _ a _ => cvtRes e a) ∧
  ScalarResult .fsgn false (fun e _ a b => (wordOf (fSgn (fmtOf e.ty) e.fn.toNat a.toNat b.toNat), [])) ∧
  ScalarResult .fclass false (fun e _ a _ => (wordOf (fClass (fmtOf e.ty) a.toNat), []))

/-- R133, R60: where each transfer goes. A label form goes to the instruction's address + 12 × sext(IMM) modulo 2^64,
a register form to A, which raises ALIGN where it is not 4-byte aligned; the link is the instruction's address + 12;
`dbnz` decrements and branches while the result is not zero. That a `dbnz` whose counter is `s0` never branches (log 33) and
that this ALIGN carries no access address (log 34) are the model's readings. -/
def Obligations.ControlTransfers : Prop :=
  (∀ (e : Enc) (s s1 : State), accept (.nop e) s = some s1 → exec (.nop e) s = .next (s1.updMy Strand.advance)) ∧
  (∀ (e : Enc) (s s1 : State), accept (.br e) s = some s1 →
    exec (.br e) s = .next (s1.updMy fun st => st.goTo (st.pc + 12 * e.imm.signExtend 64))) ∧
  (∀ (e : Enc) (s s1 : State), accept (.brl e) s = some s1 →
    exec (.brl e) s = .next (s1.updMy fun st =>
      (st.setS e.da.idx.toNat (st.pc + 12)).goTo (st.pc + 12 * e.imm.signExtend 64))) ∧
  (∀ (e : Enc) (s s1 : State), accept (.jmp e) s = some s1 → (s1.my.getS e.sa.idx.toNat).toNat % 4 = 0 →
    exec (.jmp e) s = .next (s1.updMy fun st => st.goTo (st.getS e.sa.idx.toNat))) ∧
  (∀ (e : Enc) (s s1 : State), accept (.jmp e) s = some s1 → (s1.my.getS e.sa.idx.toNat).toNat % 4 ≠ 0 →
    exec (.jmp e) s = .next (s.raise s.curT s.curX (TrapInfo.plain .align))) ∧
  (∀ (e : Enc) (s s1 : State), accept (.jmpl e) s = some s1 → (s1.my.getS e.sa.idx.toNat).toNat % 4 = 0 →
    exec (.jmpl e) s = .next (s1.updMy fun st =>
      (st.setS e.da.idx.toNat (st.pc + 12)).goTo (st.getS e.sa.idx.toNat))) ∧
  (∀ (e : Enc) (s s1 : State), accept (.jmpl e) s = some s1 → (s1.my.getS e.sa.idx.toNat).toNat % 4 ≠ 0 →
    exec (.jmpl e) s = .next (s.raise s.curT s.curX (TrapInfo.plain .align))) ∧
  (∀ (e : Enc) (s s1 : State), accept (.dbnz e) s = some s1 → e.da.idx.toNat ≠ 0 → s1.my.getS e.da.idx.toNat ≠ 1 →
    exec (.dbnz e) s = .next (s1.updMy fun st =>
      (st.setS e.da.idx.toNat (st.getS e.da.idx.toNat - 1)).goTo (st.pc + 12 * e.imm.signExtend 64))) ∧
  (∀ (e : Enc) (s s1 : State), accept (.dbnz e) s = some s1 → e.da.idx.toNat ≠ 0 → s1.my.getS e.da.idx.toNat = 1 →
    exec (.dbnz e) s = .next (s1.updMy fun st => (st.setS e.da.idx.toNat 0).advance)) ∧
  (∀ (e : Enc) (s s1 : State), accept (.dbnz e) s = some s1 → e.da.idx.toNat = 0 →
    exec (.dbnz e) s = .next (s1.updMy Strand.advance))

/-- R135, R136, R75: `trap` raises SOFTWARE and `brk` BREAK at their own address, an unassigned OP raises ILLEGAL, and
`uret` and `sret` return. -/
def Obligations.TrapsAndReturns : Prop :=
  (∀ (e : Enc) (s s1 : State), accept (.trap e) s = some s1 →
    exec (.trap e) s = .next (s.raise s.curT s.curX (TrapInfo.plain .software))) ∧
  (∀ (e : Enc) (s s1 : State), accept (.brk e) s = some s1 →
    exec (.brk e) s = .next (s.raise s.curT s.curX (TrapInfo.plain .breakpoint))) ∧
  (∀ (w : BitVec 96) (s : State), (s.thread? s.curT).isSome →
    exec (.illegalOpcode w) s = .next (s.raise s.curT s.curX (TrapInfo.plain .illegal))) ∧
  (∀ (e : Enc) (s s1 : State), accept (.uret e) s = some s1 →
    exec (.uret e) s = .next (s1.updMy fun st =>
      { st.count with pc := st.uepc, uh := false, status := .ready, flight := none })) ∧
  (∀ (e : Enc) (s s1 : State), accept (.sret e) s = some s1 →
    exec (.sret e) s = .next (s1.updMy fun st =>
      { st.count with pc := st.sepc, sup := st.scause.getLsbD 9, uh := st.scause.getLsbD 10, status := .ready, flight := none }))

/-- R137, R71, R72: `kget` reads the special register that SA names, `kset` writes A to the one that DA names under
its field rules, and `kswap` does both in one step, D receiving the old value. -/
def Obligations.SpecialRegisterAccess : Prop :=
  WritesResult .kget false (fun e s => [.s e.da.idx.toNat (s.special e.sa.idx.toNat)]) ∧
  (∀ (e : Enc) (s s1 : State), accept (.kset e) s = some s1 →
    exec (.kset e) s = .next ((s1.setSpecial e.da.idx.toNat (s1.my.getS e.sa.idx.toNat)).updMy Strand.advance)) ∧
  (∀ (e : Enc) (s s1 : State), accept (.kswap e) s = some s1 →
    exec (.kswap e) s = .next ((s1.setSpecial e.sa.idx.toNat (s1.my.getS e.sb.idx.toNat)).retire e.la false
      [.s e.da.idx.toNat (s1.special e.sa.idx.toNat)]))

/-- R163 to R165, R160, R162, R104: the vector integer and bitwise rows act on each enabled element as the scalar rows
act on a register, and raise no flag. -/
def Obligations.VectorIntegerResults : Prop :=
  VectorResult .vadd false (fun e _ a b => (e.elemFrom (e.elemInt a + e.elemInt b), 0)) ∧
  VectorResult .vsub false (fun e _ a b => (e.elemFrom (e.elemInt a - e.elemInt b), 0)) ∧
  VectorResult .vmul false (fun e _ a b => (e.elemFrom (e.elemInt a * e.elemInt b), 0)) ∧
  VectorResult .vmulh false (fun e _ a b =>
    (e.elemFrom (Int.fdiv (e.elemInt a * e.elemInt b) ((2 ^ tyWidth true e.ty : Nat) : Int)), 0)) ∧
  VectorResult .vmin false (fun e _ a b => (e.elemFrom (if e.elemInt a < e.elemInt b then e.elemInt a else e.elemInt b), 0)) ∧
  VectorResult .vmax false (fun e _ a b => (e.elemFrom (if e.elemInt a > e.elemInt b then e.elemInt a else e.elemInt b), 0)) ∧
  VectorResult .vmad false (fun e d a b => (e.elemFrom (e.elemInt d + e.elemInt a * e.elemInt b), 0)) ∧
  VectorResult .vabs false (fun e _ a _ =>
    (narrowInt e.sat true (tyWidth true e.ty) (intOf true (tyWidth true e.ty) a).natAbs, 0)) ∧
  VectorResult .vand false (fun _ _ a b => ((BitVec.ofNat 64 a &&& BitVec.ofNat 64 b).toNat, 0)) ∧
  VectorResult .vor false (fun _ _ a b => ((BitVec.ofNat 64 a ||| BitVec.ofNat 64 b).toNat, 0)) ∧
  VectorResult .vxor false (fun _ _ a b => ((BitVec.ofNat 64 a ^^^ BitVec.ofNat 64 b).toNat, 0)) ∧
  VectorResult .vshl false (fun e _ a b =>
    (a % 2 ^ tyWidth true e.ty * 2 ^ (b % tyWidth true e.ty) % 2 ^ tyWidth true e.ty, 0)) ∧
  VectorResult .vshr false (fun e _ a b => (a % 2 ^ tyWidth true e.ty / 2 ^ (b % tyWidth true e.ty), 0)) ∧
  VectorResult .vsar false (fun e _ a b =>
    (wrapNat (tyWidth true e.ty)
      (Int.fdiv (intOf true (tyWidth true e.ty) a) ((2 ^ (b % tyWidth true e.ty) : Nat) : Int)), 0)) ∧
  VectorCompareResult .vcmp (fun e a b => (intRel e.fn.toNat (tyWidth true e.ty) a b, 0))

/-- R167, R168, R170, R184, R126, R160, R162: the vector floating-point rows and the special functions act on each
enabled element and OR the flags of those elements into `%fps`; `vfdiv`, `vfsqrt` and the special functions are long.
-/
def Obligations.VectorFloatResults : Prop :=
  VectorResult .vfadd false (fun e _ a b => FOp.add.eval (fmtOf e.ty) e.rm e.ftz e.sat a b) ∧
  VectorResult .vfsub false (fun e _ a b => FOp.sub.eval (fmtOf e.ty) e.rm e.ftz e.sat a b) ∧
  VectorResult .vfmul false (fun e _ a b => FOp.mul.eval (fmtOf e.ty) e.rm e.ftz e.sat a b) ∧
  VectorResult .vffma false (fun e d a b => fmaBits (fmtOf e.ty) e.rm e.ftz e.sat a b d) ∧
  VectorResult .vfdiv true (fun e _ a b => FOp.div.eval (fmtOf e.ty) e.rm e.ftz e.sat a b) ∧
  VectorResult .vfsqrt true (fun e _ a _ => sqrtBits (fmtOf e.ty) e.rm e.ftz e.sat a) ∧
  VectorResult .vfmin false (fun e _ a b => FOp.min.eval (fmtOf e.ty) e.rm e.ftz e.sat a b) ∧
  VectorResult .vfmax false (fun e _ a b => FOp.max.eval (fmtOf e.ty) e.rm e.ftz e.sat a b) ∧
  VectorCompareResult .vfcmp (fun e a b =>
    fRel e.fn.toNat (fDecode (fmtOf e.ty) e.ftz a) (fDecode (fmtOf e.ty) e.ftz b)) ∧
  VectorResult .vfsgn false (fun e _ a b => (fSgn (fmtOf e.ty) e.fn.toNat a b, 0)) ∧
  VectorResult .vfclass false (fun e _ a _ => (fClass (fmtOf e.ty) a, 0)) ∧
  VectorResult .vexp2 true (fun e _ a _ => SfOp.exp2.eval (fmtOf e.ty) (floatCode e.ty) e.ftz e.sat a) ∧
  VectorResult .vlog2 true (fun e _ a _ => SfOp.log2.eval (fmtOf e.ty) (floatCode e.ty) e.ftz e.sat a) ∧
  VectorResult .vrcp true (fun e _ a _ => SfOp.rcp.eval (fmtOf e.ty) (floatCode e.ty) e.ftz e.sat a) ∧
  VectorResult .vrsq true (fun e _ a _ => SfOp.rsq.eval (fmtOf e.ty) (floatCode e.ty) e.ftz e.sat a) ∧
  VectorResult .vsin true (fun e _ a _ => SfOp.sin.eval (fmtOf e.ty) (floatCode e.ty) e.ftz e.sat a) ∧
  VectorResult .vcos true (fun e _ a _ => SfOp.cos.eval (fmtOf e.ty) (floatCode e.ty) e.ftz e.sat a) ∧
  VectorResult .vtanh true (fun e _ a _ => SfOp.tanh.eval (fmtOf e.ty) (floatCode e.ty) e.ftz e.sat a)

/-- R166, R173 to R177: what each move row writes to each enabled element: A or B by a predicate bit, a source value,
A[B[i] mod n], the shuffles, the concatenation of A and B from element k, one element out, one element in, and the
enabled elements moved down to the front with zero above them. -/
def Obligations.LaneMoves : Prop :=
  (∀ (e : Enc) (s s1 s2 s3 : State) (a b : VReg) (wa wb : List RegWrite), accept (.vsel e) s = some s1 →
    s1.needRoom e.da 1 (popsQueue e) = .ok () →
    s1.readVecSrc e (tyWidth true e.ty) e.sa = .ok (a, wa, s2) → s2.readVecSrc e (tyWidth true e.ty) e.sb = .ok (b, wb, s3) →
    exec (.vsel e) s = .next (movedTo e (popsQueue e) (wa ++ wb) (fun i =>
      if laneOn (s3.my.getP (e.imm.extractLsb' 0 4).toNat) (tyWidth true e.ty) i != e.imm.getLsbD 4
      then elemOf (tyWidth true e.ty) a i else elemOf (tyWidth true e.ty) b i) s3)) ∧
  (∀ (e : Enc) (s s1 s2 : State) (a : Word) (wa : List RegWrite), accept (.vbcast e) s = some s1 →
    s1.needRoom e.da 1 false = .ok () → s1.readScalar e.ty e.imm e.sa = .ok (a, wa, s2) →
    exec (.vbcast e) s = .next (movedTo e false [] (fun _ => a.toNat) s2)) ∧
  (∀ (e : Enc) (s s1 s2 : State) (b : Word) (wb : List RegWrite), accept (.vbcastEl e) s = some s1 →
    s1.needRoom e.da 1 false = .ok () → s1.readScalar e.ty e.imm e.sb = .ok (b, wb, s2) →
    exec (.vbcastEl e) s = .next (movedTo e false [] (fun _ =>
      elemOf (tyWidth true e.ty) (s2.me.getV e.sa.idx.toNat) (b.toNat % lanes (tyWidth true e.ty))) s2)) ∧
  (∀ (e : Enc) (s s1 s2 : State) (a : VReg) (wa : List RegWrite), accept (.vperm e) s = some s1 →
    s1.needRoom e.da 1 (popsQueue e) = .ok () → s1.readVecSrc e (tyWidth true e.ty) e.sa = .ok (a, wa, s2) →
    exec (.vperm e) s = .next (movedTo e (popsQueue e) wa (fun i => elemOf (tyWidth true e.ty) a
      (elemOf (tyWidth true e.ty) (s2.me.getV e.sb.idx.toNat) i % lanes (tyWidth true e.ty))) s2)) ∧
  (∀ (e : Enc) (s s1 s2 s3 : State) (a b : VReg) (wa wb : List RegWrite), accept (.vshuf e) s = some s1 →
    s1.needRoom e.da 1 (popsQueue e) = .ok () →
    s1.readVecSrc e (tyWidth true e.ty) e.sa = .ok (a, wa, s2) → s2.readVecSrc e (tyWidth true e.ty) e.sb = .ok (b, wb, s3) →
    exec (.vshuf e) s = .next (movedTo e (popsQueue e) (wa ++ wb) (shufElem e.fn.toNat (tyWidth true e.ty) a b) s3)) ∧
  (∀ (e : Enc) (s s1 : State), accept (.vext e) s = some s1 → s1.needRoom e.da 1 false = .ok () →
    exec (.vext e) s = .next (movedTo e false [] (fun i =>
      if i + e.imm.toNat % lanes (tyWidth true e.ty) < lanes (tyWidth true e.ty)
      then elemOf (tyWidth true e.ty) (s1.me.getV e.sa.idx.toNat) (i + e.imm.toNat % lanes (tyWidth true e.ty))
      else elemOf (tyWidth true e.ty) (s1.me.getV e.sb.idx.toNat)
        (i + e.imm.toNat % lanes (tyWidth true e.ty) - lanes (tyWidth true e.ty))) s1)) ∧
  (∀ (e : Enc) (s s1 s2 : State) (b : Word) (wb : List RegWrite), accept (.vextEl e) s = some s1 →
    s1.readScalar e.ty e.imm e.sb = .ok (b, wb, s2) →
    exec (.vextEl e) s = .next (s2.retire e.la false [.s e.da.idx.toNat (extendInt (tySigned e.ty) (tyWidth true e.ty)
      (if laneOn (s2.my.guard e) (tyWidth true e.ty) (b.toNat % lanes (tyWidth true e.ty))
       then elemOf (tyWidth true e.ty) (s2.me.getV e.sa.idx.toNat) (b.toNat % lanes (tyWidth true e.ty)) else 0))])) ∧
  (∀ (e : Enc) (s s1 s2 s3 : State) (a b : Word) (wa wb : List RegWrite), accept (.vins e) s = some s1 →
    s1.readScalar e.ty e.imm e.sa = .ok (a, wa, s2) → s2.readScalar e.ty e.imm e.sb = .ok (b, wb, s3) →
    exec (.vins e) s = .next (s3.retire e.la false [.v e.da.idx.toNat
      (if laneOn (s3.my.guard e) (tyWidth true e.ty) (b.toNat % lanes (tyWidth true e.ty))
       then packElems (tyWidth true e.ty) [(b.toNat % lanes (tyWidth true e.ty), 2 ^ tyWidth true e.ty - 1)] else 0)
      (packElems (tyWidth true e.ty) [(b.toNat % lanes (tyWidth true e.ty), a.toNat)])])) ∧
  (∀ (e : Enc) (s s1 s2 : State) (a : VReg) (wa : List RegWrite), accept (.vcomp e) s = some s1 →
    s1.needRoom e.da 1 (popsQueue e) = .ok () → s1.readVecSrc e (tyWidth true e.ty) e.sa = .ok (a, wa, s2) →
    exec (.vcomp e) s = .next (s2.retire e.la (popsQueue e) (wa ++ [destWriteV s2.my e.da (BitVec.allOnes 2048)
      (packElems (tyWidth true e.ty) ((enabledElems s2.my e (tyWidth true e.ty)).zipIdx.map fun p =>
        (p.2, elemOf (tyWidth true e.ty) a p.1)))])))

/-- R169, R171, R172, R178 to R183: the conversions, the block exponent and its alignment, reductions, scans and the
predicate rows. -/
def Obligations.VectorConvertReducePredicates : Prop :=
  (∀ (e : Enc) (s s1 s2 : State) (a : VReg) (wa : List RegWrite), accept (.vfcvt e) s = some s1 →
    s1.needRoom e.da 1 (popsQueue e) = .ok () →
    s1.readVecSrc e (tyWidth true (vcvtSource e.fn.toNat)) e.sa = .ok (a, wa, s2) →
    let src := vcvtSource e.fn.toNat
    let wd := tyWidth true e.ty
    let wm := max (tyWidth true src) wd
    let on := (List.range (2048 / wm)).filter fun i => laneOn (s2.my.guard e) wm i
    let rs := on.map fun i => (i, convert src e.ty e.rm e.ftz e.sat (elemOf (tyWidth true src) a i))
    exec (.vfcvt e) s = .next (s2.retire e.la (popsQueue e) (wa ++ [.fps (orFlags (rs.map (·.2))),
      destWriteV s2.my e.da (cvtMask wd on (2048 / wm) (wd < tyWidth true src)) (packElems wd (rs.map fun r => (r.1, r.2.1)))]))) ∧
  WritesResult .bmaxe false (fun e s => [.s e.da.idx.toNat (wordOf (maxExponent e.ty (tyWidth true e.ty)
    (s.me.getV e.sa.idx.toNat) (enabledElems s.my e (tyWidth true e.ty))))]) ∧
  (∀ (e : Enc) (s s1 s2 s3 : State) (b : Word) (a : VReg) (wb wa : List RegWrite), accept (.malign e) s = some s1 →
    s1.readScalar e.ty e.imm e.sb = .ok (b, wb, s2) → s2.needRoom e.da 1 (e.sa.cls == .queue) = .ok () →
    s2.readVecSrc e (tyWidth true e.ty) e.sa = .ok (a, wa, s3) →
    exec (.malign e) s = .next (movedTo e (e.sa.cls == .queue) (wa ++ [.fps 0]) (fun i =>
      malignNat (((b.extractLsb' 8 8).toNat : Int) - ((b.extractLsb' 0 8).toNat : Int)) (elemOf (tyWidth true e.ty) a i)) s3)) ∧
  (∀ (e : Enc) (s s1 : State), accept (.vred e) s = some s1 → s1.needRoom e.da 1 false = .ok () →
    let r := redTree e.fn.toNat e (s1.me.getV e.sa.idx.toNat) (s1.my.guard e)
    exec (.vred e) s = .next (s1.retire e.la false
      [.fps r.2, destWrite s1.my e.da (extendInt (tySigned e.ty) (tyWidth true e.ty) r.1)])) ∧
  (∀ (e : Enc) (s s1 : State), accept (.vredQueue e) s = some s1 → e.imm.toNat ≤ s1.my.prog.toNat →
    exec (.vredQueue e) s = .next ((s1.updMy fun st => { st with prog := 0 }).updMy Strand.advance)) ∧
  (∀ (e : Enc) (s s1 : State) (en : QEntry) (r : List QEntry), accept (.vredQueue e) s = some s1 →
    s1.my.prog.toNat < e.imm.toNat → s1.me.getQ e.sa.idx.toNat = en :: r → en.eos = false →
    (s1.combineEntry e e.sa.idx.toNat en).my.prog.toNat ≥ e.imm.toNat →
    exec (.vredQueue e) s =
      .next (((s1.combineEntry e e.sa.idx.toNat en).updMy fun st => { st with prog := 0 }).updMy Strand.advance)) ∧
  (∀ (e : Enc) (s s1 : State) (en : QEntry) (r : List QEntry), accept (.vredQueue e) s = some s1 →
    s1.my.prog.toNat < e.imm.toNat → s1.me.getQ e.sa.idx.toNat = en :: r → en.eos = false →
    (s1.combineEntry e e.sa.idx.toNat en).my.prog.toNat < e.imm.toNat →
    exec (.vredQueue e) s = .next ((s1.combineEntry e e.sa.idx.toNat en).block s.curT s.curX .more)) ∧
  (∀ (e : Enc) (s s1 : State) (en : QEntry) (r : List QEntry), accept (.vredQueue e) s = some s1 →
    s1.my.prog.toNat < e.imm.toNat → s1.me.getQ e.sa.idx.toNat = en :: r → en.eos = true →
    let q := e.sa.idx.toNat
    let s2 := s1.setThread s1.curT { s1.me.popTo q r with eos := s1.me.eos ||| (1#16 <<< q) }
    exec (.vredQueue e) s =
      .next ((s2.updMy fun st => { st.observePop q en with prog := 0 }).updMy Strand.advance)) ∧
  (∀ (e : Enc) (s s1 : State), accept (.vredQueue e) s = some s1 → s1.my.prog.toNat < e.imm.toNat →
    s1.me.getQ e.sa.idx.toNat = [] →
    exec (.vredQueue e) s = .next (s.block s.curT s.curX (.entry e.sa.idx.toNat 1 true))) ∧
  (∀ (e : Enc) (s s1 s2 : State) (a : VReg) (wa : List RegWrite), accept (.vscan e) s = some s1 →
    s1.needRoom e.da 1 (popsQueue e) = .ok () → s1.readVecSrc e (tyWidth true e.ty) e.sa = .ok (a, wa, s2) →
    let r := (enabledElems s2.my e (tyWidth true e.ty)).foldl
      (scanStep (e.fn.toNat % 8) (decide (e.fn.toNat ≥ 8)) e a) (none, [], 0)
    exec (.vscan e) s = .next (s2.retire e.la (popsQueue e) (wa ++ [.fps r.2.2,
      destWriteV s2.my e.da (elemMask (s2.my.guard e) (tyWidth true e.ty)) (packElems (tyWidth true e.ty) r.2.1)]))) ∧
  WritesResult .lbc false (fun e s => [.p e.da.idx.toNat (predMask (s.my.guard e) (tyWidth true e.ty))
    (predOf (tyWidth true e.ty) ((enabledElems s.my e (tyWidth true e.ty)).filter fun i =>
      decide (lbcSource s e e.sa + i < lbcSource s e e.sb)))]) ∧
  WritesResult .vlq false (fun e _ => [.s e.da.idx.toNat (wordOf (lanes (tyWidth true e.ty)))]) ∧
  WritesResult .pcnt false (fun e s => [.s e.da.idx.toNat (wordOf (pickedElems s e).length)]) ∧
  WritesResult .pfirst false (fun e s =>
    [.s e.da.idx.toNat (wordOf ((pickedElems s e).head?.getD (lanes (tyWidth true e.ty))))]) ∧
  WritesResult .pset false (fun e s => [.p e.da.idx.toNat (predMask (s.my.guard e) (tyWidth true e.ty))
    (predOf (tyWidth true e.ty) ((enabledElems s.my e (tyWidth true e.ty)).filter fun i => decide (i < e.imm.toNat)))])

/-- R185 to R187, R127 to R130: the Welford rows on triples of vector registers; they are long. -/
def Obligations.WelfordResults : Prop :=
  WritesResult .welf true (fun e s => tripleWrites e.da.idx.toNat (elemMask (s.my.guard e) 32)
    ((wLanes s e).map fun i => (i, welfLane e (s.me.triple e.da.idx.toNat i)
      (if e.ty == .fp32 then (elemOf (tyWidth true e.ty) (s.me.getV e.sa.idx.toNat) i, 0)
       else convert e.ty .fp32 .rne e.ftz false (elemOf (tyWidth true e.ty) (s.me.getV e.sa.idx.toNat) i))))) ∧
  WritesResult .wmerge true (fun e s => tripleWrites e.da.idx.toNat (elemMask (s.my.guard e) 32)
    ((wLanes s e).map fun i => (i, mergeLane e (s.me.triple e.da.idx.toNat i) (s.me.triple e.sa.idx.toNat i)))) ∧
  WritesResult .wred true (fun e s => tripleWrites e.da.idx.toNat (BitVec.allOnes 2048)
    [(0, (treeReduce (mergeLane e) 6 ((List.range 64).map fun i =>
      if laneOn (s.my.guard e) 32 i then some (s.me.triple e.sa.idx.toNat i) else none)).getD ⟨0, 0, 0, 0⟩)]) ∧
  (∀ (e : Enc) (s s1 s2 : State) (b : Word) (wb : List RegWrite), accept (.wfin e) s = some s1 →
    s1.readScalar e.ty e.imm e.sb = .ok (b, wb, s2) →
    let l := (wLanes s2 e).map fun i => (i, finLane e (b.toNat % 2 ^ 32) (s2.me.triple e.sa.idx.toNat i))
    exec (.wfin e) s = .next (s2.retire e.la true [.fps (orFlags (l.map (·.2))),
      .v e.da.idx.toNat (elemMask (s2.my.guard e) 32) (s2.me.getV (e.sa.idx.toNat + 1)),
      .v (e.da.idx.toNat + 1) (elemMask (s2.my.guard e) 32) (packElems 32 (l.map fun p => (p.1, p.2.1)))]))

/-- R188, R189, R224: `ld` delivers the element at its address, extended, and `.acq` acquires the releases of the
bytes that it reads; `st` writes bits [w−1:0] of its source at its address, and `.rel` is a release at pod scope. Both
complete wherever their address passes its checks. -/
def Obligations.ScalarLoadStore : Prop :=
  (∀ (e : Enc) (s s1 s2 s3 s4 : State) (l : List Elem), accept (.ld e) s = some s1 →
    s1.needRoom e.da 1 true = .ok () →
    s1.checkElems s1.curT (tyWidth false e.ty / 8) e.sw.toNat false [(0, effAddr s1 e, none)] = .ok (l, s2) →
    s2.touchAll s2.curT l = .ok s3 → s3.admitAll 0 l = .ok s4 →
    let r := s4.readElems s4.curT s4.curX (tyWidth false e.ty / 8) (e.gs == 1) l
    exec (.ld e) s = .next (r.2.2.retireLoad e.la
      [destWrite r.2.2.my e.da (extendInt (tySigned e.ty) (tyWidth false e.ty) (((r.1.head?).map (·.2)).getD 0))] r.2.1)) ∧
  (∀ (e : Enc) (s s1 s2 s3 : State) (l : List Elem) (v : Word) (ws : List RegWrite), accept (.st e) s = some s1 →
    s1.needEntry e.da = .ok () →
    s1.checkElems s1.curT (tyWidth false e.ty / 8) e.sw.toNat true [(0, effAddr s1 e, none)] = .ok (l, s2) →
    s2.readScalar e.ty e.imm e.da = .ok (v, ws, s3) →
    let p := s3.storeRelease (e.gs == 2)
    exec (.st e) s = .next ((p.2.storeElems p.2.curT p.2.curX (tyWidth false e.ty / 8) p.1 (fun _ => v.toNat) l).retire
      e.la (e.da.cls == .queue) ws))

/-- R188, R190 to R193: the vector loads and stores move the enabled elements at contiguous, strided and indexed
addresses. -/
def Obligations.VectorLoadStore : Prop :=
  VectorLoadResult .vld
    (fun e s => rangeCheck (effAddr s e) (tyWidth true e.ty) (enabledElems s.my e (tyWidth true e.ty)) false)
    (fun e s => contiguous (effAddr s e) (tyWidth true e.ty) (enabledElems s.my e (tyWidth true e.ty))) ∧
  VectorLoadResult .vlds (fun _ _ => .ok ())
    (fun e s => strided (effAddr s e) (s.my.getS e.sb.idx.toNat) (tyWidth true e.ty) (enabledElems s.my e (tyWidth true e.ty))) ∧
  VectorLoadResult .vldx (fun _ _ => .ok ())
    (fun e s => indexed (effAddr s e) (s.me.getV e.sb.idx.toNat) (tyWidth true e.ty) (enabledElems s.my e (tyWidth true e.ty))) ∧
  VectorStoreResult .vst
    (fun e s => rangeCheck (effAddr s e) (tyWidth true e.ty) (enabledElems s.my e (tyWidth true e.ty)) true)
    (fun e s => contiguous (effAddr s e) (tyWidth true e.ty) (enabledElems s.my e (tyWidth true e.ty))) ∧
  VectorStoreResult .vsts (fun _ _ => .ok ())
    (fun e s => strided (effAddr s e) (s.my.getS e.sb.idx.toNat) (tyWidth true e.ty) (enabledElems s.my e (tyWidth true e.ty))) ∧
  VectorStoreResult .vstx (fun _ _ => .ok ())
    (fun e s => indexed (effAddr s e) (s.me.getV e.sb.idx.toNat) (tyWidth true e.ty) (enabledElems s.my e (tyWidth true e.ty)))

/-- R197, R199 to R205: where the ticket rows' requests go, and what the holding slice then does: for `tld` and `vtld`
it reads the lines and gives entries, and writes the tickets once every chunk has its entries, or goes on with the next
chunk's request, or refuses for want of entries; `rdm`, `rdmm` and `tstat` present a ticket and receive its answer; `tdrop`
goes on while its drop is on its way, waits first for its link to admit it where it crosses one, and one that names no slice
only goes on. -/
def Obligations.TicketRows : Prop :=
  (∀ (e : Enc) (s s1 s2 : State) (h : Nat) (ls : List TLine) (r : List (Nat × List TLine)),
    accept (.tld e) s = some s1 → s1.needRoom e.da 1 false = .ok () →
    s1.allChunks s1.curT (e.fn.toNat + 1) e.sw.toNat [effAddr s1 e + wordOf (64 * (e.fn.toNat + 1) * 0)] = .ok ((h, ls) :: r, s2) →
    exec (.tld e) s = .next ((s2.updMy fun st => { st with flight := some (newFlight s2 s2.curT s2.curX (sliceDie h) 0
      (some (.ticket ((h, ls) :: r) e.gs.toNat e.da []))) }).block s.curT s.curX .answer)) ∧
  (∀ (e : Enc) (s s1 s2 : State) (h : Nat) (ls : List TLine) (r : List (Nat × List TLine)),
    accept (.vtld e) s = some s1 →
    let n := (s1.my.getS e.sb.idx.toNat).toNat
    n ≤ 8 → (e.da.cls = .scalar → n > 0 → e.da.idx.toNat + n ≤ 64) → s1.needRoom e.da n false = .ok () →
    s1.allChunks s1.curT (e.fn.toNat + 1) e.sw.toNat
      ((List.range n).map fun i => effAddr s1 e + wordOf (64 * (e.fn.toNat + 1) * i)) = .ok ((h, ls) :: r, s2) →
    exec (.vtld e) s = .next ((s2.updMy fun st => { st with flight := some (newFlight s2 s2.curT s2.curX (sliceDie h) 0
      (some (.ticket ((h, ls) :: r) e.gs.toNat e.da []))) }).block s.curT s.curX .answer)) ∧
  (∀ (e : Enc) (s s1 : State), accept (.vtld e) s = some s1 → s1.my.getS e.sb.idx.toNat = 0 →
    s1.needRoom e.da 0 false = .ok () → exec (.vtld e) s = .next (s1.retire e.la true [])) ∧
  (∀ (s : State) (f : Flight) (h : Nat) (ls : List TLine) (lease : Nat) (dst : Operand) (got : List (Nat × Word)) (ent : Nat),
    (s.strand s.curT s.curX).flight = some f → f.phase = .arrived → f.req = some (.ticket [(h, ls)] lease dst got) →
    s.freeRun h ls.length = some ent →
    let p := s.readLines s.curT s.curX ls
    let s1 := p.2.takeEntries s.curT s.curX h ent lease p.1
    let w := s1.ticketValue ((s1.cluster (clusterOf s.curT)).part.toNat) h ent p.1.length (s1.ticket (h * 1024 + ent)).gen
    exec .ticketAllocate s =
      .next (s1.replyTo s.curT s.curX (.done (ticketWrites dst ((got ++ [(h * 1024 + ent, w)]).map (·.2)))))) ∧
  (∀ (s : State) (f : Flight) (h h2 : Nat) (ls ls2 : List TLine) (r : List (Nat × List TLine)) (lease : Nat) (dst : Operand)
      (got : List (Nat × Word)) (ent : Nat),
    (s.strand s.curT s.curX).flight = some f → f.phase = .arrived →
    f.req = some (.ticket ((h, ls) :: (h2, ls2) :: r) lease dst got) → s.freeRun h ls.length = some ent →
    let p := s.readLines s.curT s.curX ls
    let s1 := p.2.takeEntries s.curT s.curX h ent lease p.1
    let w := s1.ticketValue ((s1.cluster (clusterOf s.curT)).part.toNat) h ent p.1.length (s1.ticket (h * 1024 + ent)).gen
    let req : Req := .ticket ((h2, ls2) :: r) lease dst (got ++ [(h * 1024 + ent, w)])
    exec .ticketAllocate s =
      .next ((s1.setFlight s.curT s.curX { f with req := some req }).replyTo s.curT s.curX (.next (sliceDie h2) req))) ∧
  (∀ (s : State) (f : Flight) (h : Nat) (ls : List TLine) (r : List (Nat × List TLine)) (lease : Nat) (dst : Operand)
      (got : List (Nat × Word)),
    (s.strand s.curT s.curX).flight = some f → f.phase = .arrived → f.req = some (.ticket ((h, ls) :: r) lease dst got) →
    s.freeRun h ls.length = none → exec .ticketAllocate s = .next (s.refuse s.curT s.curX)) ∧
  (∀ (s : State) (l : TLine), (s.ticket s.actor).state = .filling →
    (s.ticket s.actor).lines.find? (fun l => l.j == s.item) = some l → l.todo = [] →
    exec .ticketLineFill s = .next (s.lineDone s.actor l)) ∧
  (∀ (s : State), (s.ticket s.actor).state = .ready → (s.ticket s.actor).ends ≤ s.cycleOf (sliceDie (s.actor / 1024) / 4) →
    exec .ticketLeaseExpiry s = .next (s.freeTicket s.actor .expired)) ∧
  (∀ (e : Enc) (s s1 : State), accept (.rdm e) s = some s1 → s1.needRoom e.da 1 false = .ok () →
    let w := s1.my.getS e.sa.idx.toNat
    s1.ticketForm (deviceOf s1.curT) w = true →
    exec (.rdm e) s = .next ((s1.updMy fun st => { st with flight := some (newFlight s1 s1.curT s1.curX
      (sliceDie (ticketSlice w)) 0 (some (.present (ticketSlice w) w (.redeem e.da e.imm e.sb.idx.toNat (e.gs == 0))))) }).block
        s.curT s.curX .answer)) ∧
  (∀ (e : Enc) (s s1 s2 : State) (win : Window) (l : List Elem), accept (.rdmm e) s = some s1 →
    let w := s1.my.getS e.da.idx.toNat
    windowCheck (effAddr s1 e).toNat (64 * ticketSpan w) 8 .store true = .ok win →
    s1.checkElems s1.curT 8 e.sw.toNat true ((List.range (64 * ticketSpan w / 8)).map fun i =>
      (i, effAddr s1 e + wordOf (8 * i), none)) = .ok (l, s2) →
    s2.ticketForm (deviceOf s2.curT) w = true →
    exec (.rdmm e) s = .next ((s2.updMy fun st => { st with flight := some (newFlight s2 s2.curT s2.curX
      (sliceDie (ticketSlice w)) 0 (some (.present (ticketSlice w) w
        (.redeemMem (effAddr s1 e) e.sw e.sb.idx.toNat (e.gs == 0))))) }).block s.curT s.curX .answer)) ∧
  (∀ (e : Enc) (s s1 : State), accept (.tstat e) s = some s1 →
    let w := s1.my.getS e.sa.idx.toNat
    s1.ticketForm (deviceOf s1.curT) w = true →
    exec (.tstat e) s = .next ((s1.updMy fun st => { st with flight := some (newFlight s1 s1.curT s1.curX
      (sliceDie (ticketSlice w)) 0 (some (.present (ticketSlice w) w (.stat e.da.idx.toNat)))) }).block s.curT s.curX .answer)) ∧
  (∀ (s : State) (f : Flight) (sl : Nat) (w : Word) (how : Present),
    s.drops.find? (fun p => p.1 == s.curT && p.2.1 == s.curX) = none →
    (s.strand s.curT s.curX).flight = some f → f.phase = .arrived → f.req = some (.present sl w how) →
    exec .ticketPresent s = .next (s.presentTicket s.curT s.curX w how)) ∧
  (∀ (e : Enc) (s s1 : State), accept (.tdrop e) s = some s1 →
    let w := s1.my.getS e.sa.idx.toNat
    s1.ticketForm (deviceOf s1.curT) w = true → crossesLink s1.curT (sliceDie (ticketSlice w)) = false →
    exec (.tdrop e) s = .next (({ s1 with drops := s1.drops ++ [(s1.curT, s1.curX, w, s1.partOf s1.curT)] } : State).updMy
      Strand.advance)) ∧
  (∀ (e : Enc) (s s1 : State), accept (.tdrop e) s = some s1 →
    let w := s1.my.getS e.sa.idx.toNat
    let die := sliceDie (ticketSlice w)
    s1.ticketForm (deviceOf s1.curT) w = true → crossesLink s1.curT die = true →
    exec (.tdrop e) s = .next ((s1.updMy fun st => { st with flight := some (newFlight s1 s1.curT s1.curX die 0
      (some (.drop (s1.partOf s1.curT) w))) }).block s.curT s.curX .answer)) ∧
  (∀ (e : Enc) (s s1 : State), accept (.tdrop e) s = some s1 → s1.ticketForm (deviceOf s1.curT) (s1.my.getS e.sa.idx.toNat) = false →
    exec (.tdrop e) s = .next (s1.updMy Strand.advance)) ∧
  (∀ (s : State) (p : Nat × Side × Word × Nat), s.drops.find? (fun p => p.1 == s.curT && p.2.1 == s.curX) = some p →
    exec .ticketPresent s =
      .next (({ s with drops := s.drops.erase p } : State).dropTicket (deviceOf s.curT) p.2.2.2 p.2.2.1))

/-- R198, R202 to R204, R206, R223: what a ticket that is presented gives. A READY entry is freed and delivers its
data or its recorded cause, a redeem into memory performing its stores before the status is written; a blocking redeem of a
FILLING entry waits in its order of arrival, a non-blocking one receives PENDING; SPENT, EXPIRED and PENDING write their
status alone; a failed check and a fenced home are answered with their traps; `tstat` receives the status, of an entry with a
recorded cause too, and the remaining lease of a READY one. -/
def Obligations.TicketAnswers : Prop :=
  (∀ (s : State) (t : Nat) (x : Side) (w : Word) (how : Present), s.ticketAsked t w = .fails →
    s.presentTicket t x w how = s.replyTo t x (.trap (TrapInfo.plain .ticketCheck))) ∧
  (∀ (s : State) (t : Nat) (x : Side) (w : Word) (how : Present), s.ticketAsked t w = .fenced →
    s.presentTicket t x w how = s.replyTo t x (.trap (TrapInfo.plain .homeFenced))) ∧
  (∀ (s : State) (t : Nat) (x : Side) (w : Word) (da : Operand) (imm : BitVec 24) (sb : Nat) (wait : Bool),
    s.ticketAsked t w = .ok → (s.ticket (ticketKey w)).fault = none →
    let s1 := s.freeTicket (ticketKey w) .redeemed
    s.presentTicket t x w (.redeem da imm sb wait) =
      s1.replyTo t x (.done (redeemWrites (s1.strand t x) da imm sb (s.ticket (ticketKey w))))) ∧
  (∀ (s s2 : State) (t : Nat) (x : Side) (w va : Word) (sw : BitVec 3) (sb : Nat) (wait : Bool),
    s.ticketAsked t w = .ok → (s.ticket (ticketKey w)).fault = none → crossesLink t (sliceDie (ticketSlice w)) = false →
    (s.freeTicket (ticketKey w) .redeemed).redeemStore t x va sw.toNat (s.ticket (ticketKey w)).bytes
      (List.range (8 * (s.ticket (ticketKey w)).span)) = .ok s2 →
    s.presentTicket t x w (.redeemMem va sw sb wait) = (s2.drainStores t x).finish t x [.s sb 0]) ∧
  (∀ (s : State) (t : Nat) (x : Side) (w va : Word) (sw : BitVec 3) (sb : Nat) (wait : Bool),
    s.ticketAsked t w = .ok → (s.ticket (ticketKey w)).fault = none → crossesLink t (sliceDie (ticketSlice w)) = true →
    s.presentTicket t x w (.redeemMem va sw sb wait) = (s.freeTicket (ticketKey w) .redeemed).replyTo t x
      (.next (dieOf t) (.redeemed va sw sb (s.ticket (ticketKey w)).span (s.ticket (ticketKey w)).bytes))) ∧
  (∀ (s s2 : State) (f : Flight) (va : Word) (sw : BitVec 3) (sb span : Nat) (data : VReg),
    s.drops.find? (fun p => p.1 == s.curT && p.2.1 == s.curX) = none →
    (s.strand s.curT s.curX).flight = some f → f.phase = .arrived → f.req = some (.redeemed va sw sb span data) →
    s.redeemStore s.curT s.curX va sw.toNat data (List.range (8 * span)) = .ok s2 →
    exec .ticketPresent s = .next ((s2.drainStores s.curT s.curX).finish s.curT s.curX [.s sb 0])) ∧
  (∀ (s : State) (t : Nat) (x : Side) (w : Word) (da : Operand) (imm : BitVec 24) (sb : Nat) (wait : Bool) (i : TrapInfo),
    s.ticketAsked t w = .ok → (s.ticket (ticketKey w)).fault = some i →
    s.presentTicket t x w (.redeem da imm sb wait) = (s.freeTicket (ticketKey w) .redeemed).replyTo t x (.trap i)) ∧
  (∀ (s : State) (t : Nat) (x : Side) (w va : Word) (sw : BitVec 3) (sb : Nat) (wait : Bool) (i : TrapInfo),
    s.ticketAsked t w = .ok → (s.ticket (ticketKey w)).fault = some i →
    s.presentTicket t x w (.redeemMem va sw sb wait) = (s.freeTicket (ticketKey w) .redeemed).replyTo t x (.trap i)) ∧
  (∀ (s : State) (t : Nat) (x : Side) (w : Word) (how : Present) (da : Operand) (imm : BitVec 24) (va : Word) (sw : BitVec 3)
      (sb : Nat), how = .redeem da imm sb true ∨ how = .redeemMem va sw sb true → s.ticketAsked t w = .pending →
    (s.ticket (ticketKey w)).redeems.contains (t, x) = false →
    s.presentTicket t x w how = (s.setTicket (ticketKey w) { s.ticket (ticketKey w) with
      redeems := (s.ticket (ticketKey w)).redeems ++ [(t, x)] }).updStrand t x fun st => { st with status := .waiting .ticket }) ∧
  (∀ (s : State) (t : Nat) (x : Side) (w : Word) (how : Present) (da : Operand) (imm : BitVec 24) (va : Word) (sw : BitVec 3)
      (sb : Nat), how = .redeem da imm sb false ∨ how = .redeemMem va sw sb false → s.ticketAsked t w = .pending →
    s.presentTicket t x w how = s.replyTo t x (.done [.s sb 3])) ∧
  (∀ a code, (a, code) ∈ [(TicketAnswer.spent, (1 : Word)), (.expired, 2)] →
    ∀ (s : State) (t : Nat) (x : Side) (w : Word) (how : Present) (da : Operand) (imm : BitVec 24) (va : Word) (sw : BitVec 3)
      (sb : Nat) (wait : Bool), how = .redeem da imm sb wait ∨ how = .redeemMem va sw sb wait → s.ticketAsked t w = a →
    s.presentTicket t x w how = s.replyTo t x (.done [.s sb code])) ∧
  (∀ a code, (a, code) ∈ [(TicketAnswer.spent, (1 : Word)), (.expired, 2), (.pending, 3)] →
    ∀ (s : State) (t : Nat) (x : Side) (w : Word) (dst : Nat), s.ticketAsked t w = a →
    s.presentTicket t x w (.stat dst) = s.replyTo t x (.done [.s dst code])) ∧
  (∀ (s : State) (t : Nat) (x : Side) (w : Word) (dst : Nat), s.ticketAsked t w = .ok →
    s.presentTicket t x w (.stat dst) = s.replyTo t x (.done [.s dst (wordOf (((s.ticket (ticketKey w)).ends -
      s.cycleOf (sliceDie (ticketSlice w) / 4)) * 2 ^ 32))]))

/-- R207, R208, R283 to R285, R307, R308: the copy-unit and ms-unit rows hand the unit a job, wherever the control
word and the named ranges pass their checks and the queue has room: 64 jobs in the copy unit, 16 in the ms unit. That
the held jobs of the new job's token are not counted against that room is the model's reading of R352 (log 47). -/
def Obligations.JobRows : Prop :=
  (∀ row kind lease reduce, (row, kind, lease, reduce) ∈ [(Instr.pull, (fun _ => JobKind.pull : Enc → JobKind), false, false),
      (Instr.pullr, (fun e => JobKind.reduce e.ty e.rm e.ftz), false, true), (Instr.cpy, (fun _ => JobKind.pull), true, false)] →
    ∀ (e : Enc) (s s1 : State) (w w' : Window), accept (row e) s = some s1 →
    let ctl := s1.my.getS e.sb.idx.toNat
    let src := s1.my.getS e.da.idx.toNat
    let j := s1.newJob s1.curT s1.curX (kind e) (effAddr s1 e) e.sw src (ctlLen ctl) ctl
      (if lease then ctlLease ctl else none) s1.me.syncretry.toNat false
    ctlReserved ctl lease = false → ctlLen ctl % 8 = 0 → (reduce = true → ctlEmp ctl = false) →
    copyRange (effAddr s1 e) (ctlLen ctl) true 8 = .ok w → copyRange src (ctlLen ctl) false 8 = .ok w' →
    (s1.cluster (clusterOf s1.curT)).jobRoom false j.t j.tok = true →
    let s2 := s1.drainStores s1.curT s1.curX
    exec (row e) s = .next (((if ctlEmp ctl then s2.emptyWords s2.curT w e.sw.toNat (effAddr s1 e).toNat (ctlLen ctl) else s2).acceptJob
      (clusterOf s1.curT) false j).updMy Strand.advance)) ∧
  (∀ (e : Enc) (s s1 : State) (lid : Nat), accept (.cpyL2 e) s = some s1 →
    let ctl := s1.my.getS e.sb.idx.toNat
    let src := s1.my.getS e.da.idx.toNat
    let j := s1.newJob s1.curT s1.curX (.pin lid) 0 0 src (ctlLen ctl) ctl (some lid) s1.me.syncretry.toNat false
    ctlReserved ctl true = false → ctlEmp ctl = false → ctlLease ctl = some lid → ctlLen ctl % 64 = 0 →
    l2Range src (ctlLen ctl) = .ok () →
    (s1.cluster (clusterOf s1.curT)).jobRoom false j.t j.tok = true →
    exec (.cpyL2 e) s = .next (((s1.drainStores s1.curT s1.curX).acceptJob (clusterOf s1.curT) false j).updMy Strand.advance)) ∧
  (∀ (e : Enc) (s s1 : State) (w w' : Window), accept (.cpys e) s = some s1 →
    let ctl := s1.my.getS e.sb.idx.toNat
    let sstr := s1.my.getS (e.sb.idx.toNat + 1)
    let dstr := s1.my.getS (e.sb.idx.toNat + 2)
    let dst := effAddr s1 e
    let src := s1.my.getS e.da.idx.toNat
    let rowb := (ctl.extractLsb' 0 16).toNat
    let nrow := (ctl.extractLsb' 16 16).toNat
    let j := s1.newJob s1.curT s1.curX (.rows rowb nrow sstr dstr) dst e.sw src nrow ctl none s1.me.syncretry.toNat false
    ctlReserved ctl false = false → (rowb = 0 → nrow = 0) →
    copyRange (rowSpan dst dstr rowb nrow).1 (rowSpan dst dstr rowb nrow).2 true 8 = .ok w →
    rowb % 8 = 0 → dst.toNat % 8 = 0 → dstr.toNat % 8 = 0 →
    copyRange (rowSpan src sstr rowb nrow).1 (rowSpan src sstr rowb nrow).2 false 8 = .ok w' →
    src.toNat % 8 = 0 → sstr.toNat % 8 = 0 →
    (s1.cluster (clusterOf s1.curT)).jobRoom false j.t j.tok = true →
    let s2 := s1.drainStores s1.curT s1.curX
    exec (.cpys e) s = .next (((if ctlEmp ctl then (List.range nrow).foldl (fun s r =>
      s.emptyWords s.curT w e.sw.toNat (dst + wordOf r * dstr).toNat rowb) s2 else s2).acceptJob
        (clusterOf s1.curT) false j).updMy Strand.advance)) ∧
  (∀ op row, (op, row) ∈ [(0, Instr.msadd), (1, .msmul), (2, .msfma), (3, .msscale), (4, .mscopy), (5, .msfill),
      (6, .msrow), (7, .mszero)] →
    ∀ (e : Enc) (s s1 s2 : State) (l : List Word), accept (row e) s = some s1 →
    s1.recordLoad (effAddr s1 e) e.sw.toNat = .ok (l, s2) →
    let w (i : Nat) : Word := (l[i]?).getD 0
    let ctl := s2.my.getS e.sb.idx.toNat
    let align := if op = 6 ∨ op = 7 then 1024 else 64
    let j := s2.newJob s2.curT s2.curX (.ms op e.ty e.rm e.sat e.ftz (w 2) (w 3) ((w 4).setWidth 32)) (w 0) 0 (w 1)
      (ctlLen ctl) ctl none s2.me.syncretry.toNat false
    msRecordBad op e.ty l = false → ctlReserved ctl false = false → ctlEmp ctl = false → ctlLen ctl % align = 0 →
    msRanges (ctlLen ctl) align (w 0 :: (msUses op).map w) = .ok () →
    (s2.cluster (clusterOf s2.curT)).jobRoom true j.t j.tok = true →
    exec (row e) s = .next (((s2.drainStores s2.curT s2.curX).acceptJob (clusterOf s2.curT) true j).updMy Strand.advance))

/-- R209, R210, R286: the steps of a job of either unit. A job with nothing left ends. Its next unit, where it can be
carried out, is carried out and its progress noted; one whose request waits or is refused leaves the job where it
stands; one that faults ends the job at the boundary below the fault, with its fault. Any other item of the agenda's,
and a step that does not apply, leaves the state as it is. -/
def Obligations.JobEvents : Prop :=
  (∀ (ms : Bool) (s t : State) (j : Job) (k : Nat), s.runnable s.actor s.item ms = some j → j.ofs < j.len →
    s.jobTry s.actor ms j = .done k t →
    exec (if ms then .msLineComplete else .copyBlockComplete) s = .next (t.jobDone s.actor ms j k)) ∧
  (∀ (ms : Bool) (s t : State) (j : Job), s.runnable s.actor s.item ms = some j → j.ofs < j.len →
    s.jobTry s.actor ms j = .hold t → exec (if ms then .msLineComplete else .copyBlockComplete) s = .next t) ∧
  (∀ (ms : Bool) (s : State) (j : Job), s.runnable s.actor s.item ms = some j → j.len ≤ j.ofs →
    exec (if ms then .msLineComplete else .copyBlockComplete) s = .next (s.endJob s.actor ms j none)) ∧
  (∀ (ms : Bool) (s : State), s.runnable s.actor s.item ms = none →
    exec (if ms then .msLineComplete else .copyBlockComplete) s = .next s) ∧
  (∀ (s t : State) (j : Job) (f : FaultRec), s.runnable s.actor s.item false = some j → j.ofs < j.len →
    s.jobTry s.actor false j = .fault f t →
    exec .copyJobFault s = .next (t.endJob s.actor false j (some f))) ∧
  (∀ (s t : State) (j : Job) (f : FaultRec), s.runnable s.actor s.item false = none →
    s.runnable s.actor s.item true = some j → j.ofs < j.len → s.jobTry s.actor true j = .fault f t →
    exec .copyJobFault s = .next (t.endJob s.actor true j (some f))) ∧
  (∀ (s : State), s.runnable s.actor s.item false = none → s.runnable s.actor s.item true = none →
    exec .copyJobFault s = .next s)

/-- R302 to R306: `rgset` takes a free entry, of several the lowest (the model's choice, log 18), for a region whose record is
good and empties its words, and answers FULL, BADREC or OVERLAP else; `rgclr` frees an entry that is not FILLING, waits for one that is, and answers 1 for a
handle of none; `rgstat` reads its word; the next row of a FILLING region is copied, waits or faults. -/
def Obligations.RegionRows : Prop :=
  (∀ (e : Enc) (s s1 s2 : State) (l : List Word) (win : Window) (va len rowb : Nat) (src sstr : Word) (ctr : Option Nat)
      (n : Nat),
    accept (.rgset e) s = some s1 → s1.recordLoad (effAddr s1 e) e.sw.toNat = .ok (l, s2) →
    regionRecord l = some (win, va, len, rowb, src, sstr, ctr) →
    let c := clusterOf s2.curT
    let key := localKey s2.curT win 0 va
    s2.regionOverlap c key len = false → (List.range 64).find? (fun n => (s2.region c n).state == .free) = some n →
    let g := (s2.region c n).gen + 1
    let r : Region := { gen := g, state := .absent, win := key, len := len, rowb := rowb, src := src, sstr := sstr
                        ctr := ctr, rows := 0, fault := none, core := coreOf s2.curT, t := s2.curT
                        ctx := s2.threadCtx s2.curT, touched := [], refusals := 0, after := 0, pages := [], net := .idle }
    let s3 := (List.range (len / 8)).foldl (fun s i => (s.setEmpty (key + 8 * i)).served (key + 8 * i) 8)
      ((s2.drainStores s2.curT s2.curX).setRegion c n r)
    exec (.rgset e) s = .next (s3.retire e.la false [.s e.da.idx.toNat (wordOf (n + g.toNat * 64)), .s e.sb.idx.toNat 0])) ∧
  (∀ (e : Enc) (s s1 s2 : State) (l : List Word), accept (.rgset e) s = some s1 →
    s1.recordLoad (effAddr s1 e) e.sw.toNat = .ok (l, s2) → regionRecord l = none →
    exec (.rgset e) s = .next (s2.retire e.la false [.s e.da.idx.toNat 0, .s e.sb.idx.toNat 2])) ∧
  (∀ (e : Enc) (s s1 s2 : State) (l : List Word) (win : Window) (va len rowb : Nat) (src sstr : Word) (ctr : Option Nat),
    accept (.rgset e) s = some s1 → s1.recordLoad (effAddr s1 e) e.sw.toNat = .ok (l, s2) →
    regionRecord l = some (win, va, len, rowb, src, sstr, ctr) →
    s2.regionOverlap (clusterOf s2.curT) (localKey s2.curT win 0 va) len = true →
    exec (.rgset e) s = .next (s2.retire e.la false [.s e.da.idx.toNat 0, .s e.sb.idx.toNat 3])) ∧
  (∀ (e : Enc) (s s1 s2 : State) (l : List Word) (win : Window) (va len rowb : Nat) (src sstr : Word) (ctr : Option Nat),
    accept (.rgset e) s = some s1 → s1.recordLoad (effAddr s1 e) e.sw.toNat = .ok (l, s2) →
    regionRecord l = some (win, va, len, rowb, src, sstr, ctr) →
    s2.regionOverlap (clusterOf s2.curT) (localKey s2.curT win 0 va) len = false →
    (List.range 64).find? (fun n => (s2.region (clusterOf s2.curT) n).state == .free) = none →
    exec (.rgset e) s = .next (s2.retire e.la false [.s e.da.idx.toNat 0, .s e.sb.idx.toNat 1])) ∧
  (∀ (e : Enc) (s s1 : State) (n : Nat) (r : Region), accept (.rgclr e) s = some s1 →
    s1.regionHandle (clusterOf s1.curT) (s1.my.getS e.sa.idx.toNat) = some (n, r) → r.state ≠ .filling →
    exec (.rgclr e) s = .next ((s1.setRegion (clusterOf s1.curT) n { Region.zero with gen := r.gen }).retire e.la false
      [.s e.da.idx.toNat 0])) ∧
  (∀ (e : Enc) (s s1 : State) (n : Nat) (r : Region), accept (.rgclr e) s = some s1 →
    s1.regionHandle (clusterOf s1.curT) (s1.my.getS e.sa.idx.toNat) = some (n, r) → r.state = .filling →
    exec (.rgclr e) s = .next (s.block s.curT s.curX (.region n e.da.idx.toNat))) ∧
  (∀ (e : Enc) (s s1 : State), accept (.rgclr e) s = some s1 →
    s1.regionHandle (clusterOf s1.curT) (s1.my.getS e.sa.idx.toNat) = none →
    exec (.rgclr e) s = .next (s1.retire e.la false [.s e.da.idx.toNat 1])) ∧
  WritesResult .rgstat false (fun e s =>
    let h := s.my.getS e.sa.idx.toNat
    let r := s.region (clusterOf s.curT) (h.extractLsb' 0 6).toNat
    [.s e.da.idx.toNat (if h.extractLsb' 6 9 = r.gen then r.word else 0)]) ∧
  (∀ (s t : State), (s.region s.actor s.item).state = .filling →
    (s.region s.actor s.item).after ≤ s.cycleOf (s.actor / 128) →
    (s.regionStep s.actor s.item (s.region s.actor s.item) = .done t ∨
      s.regionStep s.actor s.item (s.region s.actor s.item) = .hold t) → exec .regionCopyRow s = .next t) ∧
  (∀ (s t : State) (f : FaultRec), (s.region s.actor s.item).state = .filling →
    (s.region s.actor s.item).after ≤ s.cycleOf (s.actor / 128) →
    s.regionStep s.actor s.item (s.region s.actor s.item) = .fault f t →
    exec .regionCopyFault s = .next (t.faultRegion s.actor s.item (t.region s.actor s.item) f))

/-- R211, R212, R226, R232: a fence waits, without moving on, while an access that its mask covers is outstanding;
else it has its effect and completes, at once or at FENCE_COMPLETE; ACQUIRE_AT_RELEASER carries out the acquires that
pops and fences left pending. -/
def Obligations.FenceRows : Prop :=
  (∀ (e : Enc) (s s1 : State), accept (.fence e) s = some s1 →
    s1.fenceWaits s1.curT s1.curX e.fn.toNat e.gs.toNat (e.imm.extractLsb' 0 5) = false →
    exec (.fence e) s =
      .next ((s1.fenceEffect s1.curT s1.curX e.fn.toNat e.gs.toNat (e.imm.extractLsb' 0 5)).updMy Strand.advance)) ∧
  (∀ (e : Enc) (s s1 : State), accept (.fence e) s = some s1 →
    s1.fenceWaits s1.curT s1.curX e.fn.toNat e.gs.toNat (e.imm.extractLsb' 0 5) = true →
    exec (.fence e) s = .next (s.block s.curT s.curX (.fence e.fn.toNat e.gs.toNat (e.imm.extractLsb' 0 5)))) ∧
  (∀ (s : State) (th : Thread) (form scope : Nat) (mask : BitVec 5), s.thread? s.curT = some th →
    (th.strand s.curX).status = .waiting (.fence form scope mask) → s.fenceWaits s.curT s.curX form scope mask = false →
    exec .fenceComplete s = .next ((s.fenceEffect s.curT s.curX form scope mask).finish s.curT s.curX [])) ∧
  (∀ (s : State) (th : Thread), s.thread? s.curT = some th →
    exec .acquireAtReleaser s =
      .next (((th.strand s.curX).acquire.foldl (fun r p => r.acquireFrom s.curT p.1 p.2) s).updStrand s.curT s.curX
        fun st => { st with acquire := [] }))

/-- R213 to R218: a maintenance row deals with the line at `%prog` and stays, `%prog` at the next line, until the last
line of its range, after which, as on a range that has none, it leaves `%prog` zero and goes on (the unit of one line
a step is the model's choice, log 90); `pref` only goes on; `lease` answers its status and opens the lease on success;
`unlease` ends it, and so does its expiry. -/
def Obligations.MaintenanceRows : Prop :=
  (∀ row op, (row, op) ∈ [(Instr.clean, Maint.clean), (.inval, .inval), (.invalI, .invalI), (.discard, .discard)] →
    ∀ (e : Enc) (s s1 s2 : State) (w : Window), accept (row e) s = some s1 →
    let va := effAddr s1 e
    let n := (s1.my.getS e.sb.idx.toNat).toNat
    s1.maintRange s1.curT va n = .ok (w, s2) →
    let at_ := va.toNat + s2.my.prog.toNat
    let next := at_ / 64 * 64 + 64 - va.toNat
    let s3 := s2.maintAt s2.curT op (decide (e.gs.toNat ≥ 4)) w at_
    ((n ≤ s2.my.prog.toNat ∨ (w ≠ .own ∧ w ≠ .global ∧ w ≠ .pod)) →
      exec (row e) s = .next ((s2.updMy fun st => { st with prog := 0 }).updMy Strand.advance)) ∧
    (s2.my.prog.toNat < n → (w = .own ∨ w = .global ∨ w = .pod) → n ≤ next →
      exec (row e) s = .next ((s3.updMy fun st => { st with prog := 0 }).updMy Strand.advance)) ∧
    (s2.my.prog.toNat < n → (w = .own ∨ w = .global ∨ w = .pod) → next < n →
      exec (row e) s = .next ((s3.updMy fun st => { st with prog := BitVec.ofNat 64 next }).block s.curT s.curX .more))) ∧
  (∀ (e : Enc) (s s1 : State), accept (.pref e) s = some s1 → exec (.pref e) s = .next (s1.updMy Strand.advance)) ∧
  (∀ (e : Enc) (s s1 : State), accept (.lease e) s = some s1 →
    let a := s1.my.getS e.sa.idx.toNat
    let b := s1.my.getS e.sb.idx.toNat
    let st := s1.leaseStatus (dieOf s1.curT) (s1.threadCtx s1.curT) a b
    let s2 : State := if st = 0 then { s1 with leases := s1.leases ++ [⟨dieOf s1.curT, s1.threadCtx s1.curT,
      (a.extractLsb' 0 3).toNat, (b.extractLsb' 0 13).toNat, s1.now s1.curT + 2 ^ (16 + (b.extractLsb' 16 3).toNat)⟩] } else s1
    exec (.lease e) s = .next (s2.retire e.la false [.s e.da.idx.toNat st])) ∧
  (∀ (e : Enc) (s s1 : State), accept (.unlease e) s = some s1 →
    exec (.unlease e) s = .next ((s1.endLease (dieOf s1.curT) (s1.threadCtx s1.curT)
      ((s1.my.getS e.sa.idx.toNat).extractLsb' 0 3).toNat).updMy Strand.advance)) ∧
  (∀ (die ctx lid : Nat) (s : State) (l : Lease), l ∈ s.leases → l.die = die → l.ctx = ctx → l.lid = lid →
    l.ends ≤ s.cycleOf (die / 4) → exec (.leaseExpiry die ctx lid) s = .next (s.endLease die ctx lid))

/-- R317, R318, R321, R234, R384: a fill whose data is on its slice's die and whose line is neither present nor poisoned is
installed, and its die joins the page's sharers where it holds a replica of a page that is in replicated mode; any other fill
ends without effect, and one whose data is on its way does nothing yet. A paste error marks its entry, and
the clean lines that point at it are invalid. The capacity report is taken at every 1,024th cycle of the die's device
and the page counts of a home die are cleared at every 65,536th; at other cycles the two leave the state as it is. -/
def Obligations.SharedCacheEvents : Prop :=
  (∀ (s : State) (f : Fill), s.fills.find? (fun f => f.id == s.actor && !f.onWay) = some f →
    let s1 : State := { s with fills := s.fills.filter (fun q => q.id != s.actor) }
    ((s1.findRind f.slice f.line).isSome = false →
      s1.linePoisoned (homeSlice f.home (f.line * 64)) (f.line * 64) 64 = false → s1.fillKept f = true →
      exec .l2LineInstall s = .next ((s1.install ⟨f.slice, f.line, f.home, s1.fillData f, f.part, f.dom, f.ctx, false, false⟩
        f.pin).addSharer f)) ∧
    (((s1.findRind f.slice f.line).isSome = true ∨ s1.linePoisoned (homeSlice f.home (f.line * 64)) (f.line * 64) 64 = true ∨
      s1.fillKept f = false) → exec .l2LineInstall s = .next s1)) ∧
  (∀ (s : State), s.fills.find? (fun f => f.id == s.actor && !f.onWay) = none → exec .l2LineInstall s = .next s) ∧
  (∀ (s : State),
    let s1 : State := { s with paste := s.paste.map fun p =>
      if p.slice == s.actor && p.idx == s.item then { p with psn := true } else p }
    exec .pasteEccError s = .next ((s.rind.filter fun r => r.slice == s.actor && r.st == .clean && r.pptr == s.item).foldl
      (fun s r => s.invalidRind r.slice r.line) s1)) ∧
  (∀ (s : State), s.cycleOf (s.actor / 4) % 1024 = 0 →
    exec .l2statSnapshot s = .next (s.updDevice (s.actor / 4) fun d =>
      { d with l2stat := (s.l2Parts s.actor).foldl (fun l p => tset l (s.actor * 64 + p) (s.l2Report s.actor p)) d.l2stat })) ∧
  (∀ (s : State), s.cycleOf (s.actor / 4) % 1024 ≠ 0 → exec .l2statSnapshot s = .next s) ∧
  (∀ (s : State), s.cycleOf (s.actor / 4) % 65536 = 0 →
    exec .pageCountPeriod s = .next { s with pages := s.pages.map fun p =>
      if p.die = s.actor then { p with reads := 0, writes := 0 } else p }) ∧
  (∀ (s : State), s.cycleOf (s.actor / 4) % 65536 ≠ 0 → exec .pageCountPeriod s = .next s)

/-- R244 to R249: `ldsync` and `stsync` complete at once on a word whose bit is as they ask, after which the word's
waiters are tried again, and join its waiters else; `feset` sets the word at `%prog` and stays, until the last word of
its range, after which it leaves `%prog` zero and goes on (one word a step is the model's choice, log 90); `festat`
reads the sixteen bits of a line and its summary; a remote `ldsync` is served, or waits where the port has room, or is
refused, or meets a fenced home. That one whose word holds what it asks is served at once, before older waiters, is the
model's reading (log 31). -/
def Obligations.FullEmptyRows : Prop :=
  (∀ (take : Bool) (e : Enc) (s s1 s2 s3 : State) (g : Target),
    accept (if take then .ldsyncTake e else .ldsync e) s = some s1 → s1.fePlace e take false = .ok (g, s2) →
    g.home = clusterOf s2.curT → (s2.drainStores s2.curT s2.curX).touchStart s2.curT g.key = .ok s3 →
    (s3.feFull g.key = true → s3.poisoned g.key (tyWidth false e.ty / 8) = false →
      let p := s3.ldsyncRead s2.curT s2.curX g.key e.ty take e.gs.toNat
      exec (if take then .ldsyncTake e else .ldsync e) s =
        .next ((p.2.retire e.la true [.s e.da.idx.toNat p.1]).served g.key 1)) ∧
    (s3.feFull g.key = false →
      exec (if take then .ldsyncTake e else .ldsync e) s = .next (({ s3 with waiters := s3.waiters ++ [⟨s2.curT, s2.curX, g.key,
        effAddr s3 e, .load e.ty e.da.idx.toNat take e.gs.toNat, false⟩] } : State).block s.curT s.curX (.word g.key)))) ∧
  (∀ (e : Enc) (s s1 s2 : State) (g : Target), accept (.stsync e) s = some s1 → s1.fePlace e false true = .ok (g, s2) →
    let s3 := s2.drainStores s2.curT s2.curX
    (s3.feFull g.key = false →
      exec (.stsync e) s = .next (((s3.stsyncWrite s2.curT s2.curX g.key e.ty (s3.my.getS e.da.idx.toNat) e.gs.toNat).updMy
        Strand.advance).served g.key 1)) ∧
    (s3.feFull g.key = true →
      exec (.stsync e) s = .next (({ s3 with waiters := s3.waiters ++ [⟨s2.curT, s2.curX, g.key, effAddr s3 e,
        .store e.ty (s3.my.getS e.da.idx.toNat) e.gs.toNat, false⟩] } : State).block s.curT s.curX (.word g.key)))) ∧
  (∀ (e : Enc) (s s1 s2 : State) (w : Window), accept (.feset e) s = some s1 →
    let b := s1.my.getS e.sb.idx.toNat
    b.extractLsb' 32 32 = 0 → s1.feRange (effAddr s1 e) b.toNat e.sw.toNat = .ok (w, s2) →
    let s3 := s2.drainStores s2.curT s2.curX
    let done := s3.my.prog.toNat
    let k := localKey s3.curT w e.sw.toNat ((effAddr s1 e).toNat + done)
    let s4 := (if e.fn = 1 then s3.setFull k else s3.setEmpty k).served k 8
    (b.toNat ≤ done → exec (.feset e) s = .next ((s3.updMy fun st => { st with prog := 0 }).updMy Strand.advance)) ∧
    (done < b.toNat → b.toNat ≤ done + 8 →
      exec (.feset e) s = .next ((s4.updMy fun st => { st with prog := 0 }).updMy Strand.advance)) ∧
    (done + 8 < b.toNat → exec (.feset e) s =
      .next ((s4.updMy fun st => { st with prog := BitVec.ofNat 64 (done + 8) }).block s.curT s.curX .more))) ∧
  (∀ (e : Enc) (s s1 s2 s3 : State) (g : Target), accept (.festat e) s = some s1 →
    s1.resolve s1.curT (effAddr s1 e) 1 1 e.sw.toNat .read false = .ok (g, s2) → feTarget g = true →
    s2.admitReq (targetDie s2.curT g) 0 = .ok s3 →
    let s4 := s3.drainStores s3.curT s3.curX
    let bits := (List.range 16).foldl (fun a i => if s4.feFull (g.key / 128 * 128 + 8 * i) then a + 2 ^ i else a) 0
    exec (.festat e) s =
      .next (s4.retire e.la false [.s e.da.idx.toNat (wordOf (bits + if bits = 0xFFFF then 0x10000 else 0))])) ∧
  (∀ (s : State), s.nextStoreAt s.actor = none →
    exec .feWordEvent s = .next (s.serveWord s.actor (s.waiters.length + 1))) ∧
  (∀ (s : State) (f : Flight) (key : Nat) (va : Word) (ty : Ty) (da scope : Nat),
    (s.strand s.curT s.curX).flight = some f → f.phase = .arrived → f.req = some (.ldsync key va ty da scope) →
    (s.strand s.curT s.curX).status = .waiting .answer →
    let w : Waiter := ⟨s.curT, s.curX, key, va, .load ty da false scope, true⟩
    (s.fencedCluster (sramCluster key) = true →
      exec .remoteLdsyncRequest s = .next (s.replyTo s.curT s.curX (.trap (TrapInfo.at .homeFenced va)))) ∧
    (s.fencedCluster (sramCluster key) = false → s.feFull key = true → exec .remoteLdsyncRequest s = .next (s.serveOne w)) ∧
    (s.fencedCluster (sramCluster key) = false → s.feFull key = false → s.portWaiters key < 256 →
      exec .remoteLdsyncRequest s = .next (({ s with waiters := s.waiters ++ [w] } : State).updStrand s.curT s.curX fun st =>
        { st with status := .waiting (.word key) })) ∧
    (s.fencedCluster (sramCluster key) = false → s.feFull key = false → 256 ≤ s.portWaiters key →
      exec .remoteLdsyncRequest s = .next (s.refuse s.curT s.curX)))

/-- R251 to R257, R348 to R350. `cinc` to its own cluster becomes an arrival there and completes before the counter rises
(log 24); to another cluster it is a request, which waits for that cluster's answer. `cset` sets mode, value and reload and
clears OVR. `cwait` and `cwait.ph` deliver a recorded overrun first, then a posted fault, each cleared by its delivery; then
they complete, acquiring, where the counter holds their condition, and else they wait. `cphase` reads the counter. What an
arrival and a posted fault do to a counter, and that an arrival on its way is made at a counter of its live context, recorded
in an open log with room, discarded, or, being of a `cinc`, refused (the log entry of an increment is the model's, log 97). -/
def Obligations.CounterRows : Prop :=
  (∀ (e : Enc) (s s1 s2 : State) (b : Word) (wb : List RegWrite) (c k : Nat), accept (.cinc e) s = some s1 →
    s1.readScalar e.ty e.imm e.sb = .ok (b, wb, s2) → counterRef s1.curT (s2.my.getS e.sa.idx.toNat) = some (c, k) →
    let p := s2.release s1.curT s1.curX e.gs.toNat
    let rel := p.2.storeRel s1.curT s1.curX ++ [p.1]
    (c = clusterOf s1.curT → exec (.cinc e) s =
      .next ((p.2.sendArrival c ⟨k, b.toNat % 2 ^ 32, none, rel, none, p.2.ctxOf c, some (s1.curT, s1.curX)⟩).updMy
        Strand.advance)) ∧
    (c ≠ clusterOf s1.curT → s2.clusterCheck s1.curT c = none → exec (.cinc e) s =
      .next (((p.2.updMy fun st => { st with flight := some (newFlight p.2 s1.curT s1.curX (c / 32) 0
        (some (.cinc c k (b.toNat % 2 ^ 32) rel))) }).joinCinc s1.curT s1.curX).block s.curT s.curX .answer))) ∧
  (∀ (e : Enc) (s s1 : State), accept (.csetCount e) s = some s1 →
    let c := clusterOf s1.curT
    exec (.csetCount e) s = .next (((s1.setCounter c (counterNum e) { s1.counter c (counterNum e) with
      pending := false, val := (s1.my.getS e.sa.idx.toNat).setWidth 32, rld := 0, ovr := false }).updMy
        Strand.advance).counterEvent c (counterNum e))) ∧
  (∀ (e : Enc) (s s1 : State), accept (.csetPend e) s = some s1 →
    let c := clusterOf s1.curT
    exec (.csetPend e) s = .next (((s1.setCounter c (counterNum e) { s1.counter c (counterNum e) with
      pending := true, val := (s1.my.getS e.sa.idx.toNat).setWidth 32, rld := (s1.my.getS e.sb.idx.toNat).setWidth 32,
      ovr := false }).updMy Strand.advance).counterEvent c (counterNum e))) ∧
  (∀ (ph : Bool) (e : Enc) (s s1 : State), accept (if ph then .cwaitPh e else .cwait e) s = some s1 →
    let c := clusterOf s1.curT
    let v := s1.counter c (counterNum e)
    let a := s1.my.getS e.sa.idx.toNat
    let age := (v.ph - a.setWidth 16).toNat
    let holds := if ph then 1 ≤ age ∧ age < 2 ^ 15 else v.val.toNat ≥ a.toNat % 2 ^ 32
    let s2 := ((s1.acquireAll s1.curT e.gs.toNat v.rel).acquireSeen s1.curT s1.curX v.seen).acquireEngine s1.curT
    (v.ovr = true → exec (if ph then .cwaitPh e else .cwait e) s =
      .next ((s1.setCounter c (counterNum e) { v with ovr := false }).raise s.curT s.curX
        ⟨.barrierOverrun, none, BitVec.ofNat 8 (counterNum e), false, none, some (.overrun (counterNum e))⟩)) ∧
    (∀ f, v.ovr = false → v.flt = some f → exec (if ph then .cwaitPh e else .cwait e) s =
      .next ((s1.setCounter c (counterNum e) { v with flt := none }).raise s.curT s.curX (counterFault (counterNum e) f))) ∧
    (v.ovr = false → v.flt = none → holds → exec (if ph then .cwaitPh e else .cwait e) s = .next (s2.finish s1.curT s1.curX
      (if ph then [.p e.da.idx.toNat (BitVec.allOnes 256) (allBits (decide (2 ≤ age)))] else []))) ∧
    (v.ovr = false → v.flt = none → ¬holds → exec (if ph then .cwaitPh e else .cwait e) s =
      .next (s.block s.curT s.curX (.counter (counterNum e) ph a e.gs.toNat (if ph then e.da.idx.toNat else 0))))) ∧
  WritesResult .cphase false (fun e s => [.s e.da.idx.toNat (s.counter (clusterOf s.curT) (counterNum e)).word]) ∧
  (∀ (v : Counter) (m : Nat), v.pending = false → v.val.toNat + m ≤ 2 ^ 32 - 1 →
    v.arrive m = { v with val := v.val + BitVec.ofNat 32 m }) ∧
  (∀ (v : Counter) (m : Nat), v.pending = false → 2 ^ 32 - 1 < v.val.toNat + m →
    v.arrive m = { v with val := BitVec.allOnes 32, ovr := true }) ∧
  (∀ (v : Counter) (m : Nat), v.pending = true → m < v.val.toNat →
    v.arrive m = { v with val := v.val - BitVec.ofNat 32 m }) ∧
  (∀ (v : Counter) (m : Nat), v.pending = true → v.val.toNat ≤ m → 0 < m →
    v.arrive m = { v with val := v.rld, ph := v.ph + 1, ovr := v.ovr || decide (v.val.toNat < m) }) ∧
  (∀ (v : Counter) (f : FaultRec), (v.post f).flt = some (v.flt.getD f)) ∧
  (∀ (s : State) (a : Arrival), (s.cluster s.actor).arrivals.find? (fun a => a.ctr == s.item) = some a →
    let r := s.updCluster s.actor fun cl => { cl with arrivals := cl.arrivals.erase a }
    (s.steerArrival s.actor a = .live → exec .counterArrival s = .next ((match a.fault with
      | some f => r.postFault s.actor a.ctr f
      | none => r.arrive s.actor a.ctr a.amt a.watch a.rel).replyCinc s.actor a (.done []))) ∧
    (∀ i, s.steerArrival s.actor a = .log i → s.logHolds s.actor i a = true → exec .counterArrival s =
      .next ((r.appendLog i a.record a.rel (some a) a.watch).replyCinc s.actor a (.done []))) ∧
    (s.steerArrival s.actor a = .discard → exec .counterArrival s = .next (r.replyCinc s.actor a (.done []))) ∧
    ((s.steerArrival s.actor a = .refuse ∨ ∃ i, s.steerArrival s.actor a = .log i ∧ s.logHolds s.actor i a = false) →
      (a.sender.isSome = true → exec .counterArrival s = .next (r.replyCinc s.actor a .refused)) ∧
      (a.sender.isSome = false → exec .counterArrival s = .next s)))

/-- R55, R258: an arrival at a barrier that is not its last waits; the last one opens the barrier for every waiter and
goes on; scope `ln` and a count of zero complete at once. -/
def Obligations.BarrierArrival : Prop :=
  (∀ (e : Enc) (s s1 : State), accept (.bar e) s = some s1 →
    ((s1.my.getS e.sa.idx.toNat).toNat % 2 ^ 32 = 0 ∨ e.gs = 0) →
    exec (.bar e) s = .next (s1.updMy Strand.advance)) ∧
  (∀ (e : Enc) (s s1 : State), accept (.bar e) s = some s1 →
    let count := (s1.my.getS e.sa.idx.toNat).toNat % 2 ^ 32
    count ≠ 0 → e.gs ≠ 0 →
    let key := barrierKey e.gs.toNat s1.curT (s1.cluster (clusterOf s1.curT)).part.toNat (e.imm.extractLsb' 0 4).toNat
    let b := (tget s1.barriers key).getD Barrier.zero
    let cnt := if b.arrived = 0 then count else b.count
    let rel := b.rel ++ s1.my.fenceRel
    let done := if s1.savedWaits key b.gen then b.relDone ++ [(b.gen, rel)] else b.relDone
    if b.arrived + 1 ≥ cnt then
      exec (.bar e) s = .next (((({ s1 with barriers := tset s1.barriers key ⟨b.gen + 1, 0, 0, [], done⟩ } : State).updMy
        fun st => { st with obs := st.obs ++ rel }).updMy Strand.advance).releaseBarrier key b.gen rel)
    else
      let b' : Barrier := { b with count := cnt, arrived := b.arrived + 1, rel := rel }
      exec (.bar e) s =
        .next (({ s1 with barriers := tset s1.barriers key b' } : State).block s.curT s.curX (.barrier key b.gen)))

/-- R260, R261, R263, R264: `advseq` stores its value where it is greater and says whether it did; `watch` sends its
request to the slice that holds the variable, which answers at once where the threshold is reached or the home is fenced, keeps
an entry, or refuses for want of one; `unwatch` answers GONE at once for a handle of no entry, and else asks the slice, which
cancels the watch or answers GONE. -/
def Obligations.WatchRows : Prop :=
  (∀ (e : Enc) (s s1 s2 s3 : State) (g : Target), accept (.advseq e) s = some s1 →
    s1.resolve s1.curT (effAddr s1 e) (tyWidth false e.ty / 8) (tyWidth false e.ty / 8) e.sw.toNat .store true = .ok (g, s2) →
    kindBad g true = false → (g.kind == 1 && s2.soHeld s2.curT s2.curX none) = false → s2.touchRange s2.curT g = .ok s3 →
    let p := s3.advance s3.curT s3.curX g (tyWidth false e.ty) (s3.my.getS e.da.idx.toNat).toNat e.gs.toNat
    exec (.advseq e) s = .next (p.2.retire e.la false [.p e.sb.idx.toNat (BitVec.allOnes 256) (allBits p.1)])) ∧
  (∀ (e : Enc) (s s1 s2 : State) (g : Target), accept (.watch e) s = some s1 →
    s1.resolve s1.curT (effAddr s1 e) (tyWidth false e.ty / 8) (tyWidth false e.ty / 8) e.sw.toNat .read false = .ok (g, s2) →
    watchBad g = false →
    let ctl := s2.my.getS (e.sb.idx.toNat + 1)
    ctl.extractLsb' 7 25 = 0 → (ctl.getLsbD 6 = true ∨ ctl.extractLsb' 0 6 = 0) →
    exec (.watch e) s = .next (State.block (s2.updMy fun st => { st with flight := some (newFlight s2 s2.curT s2.curX
      (targetDie s2.curT g) 2 (some (.watch g.key (tyWidth false e.ty) (s2.my.getS e.sb.idx.toNat)
        ((ctl.extractLsb' 32 32).setWidth 64) (if ctl.getLsbD 6 then some (ctl.extractLsb' 0 6).toNat else none)
        (holdingSlice s2.curT g) e.da.idx.toNat e.gs.toNat))) }) s.curT s.curX .answer)) ∧
  (∀ (s : State) (f : Flight) (key width : Nat) (thr tag : Word) (counter : Option Nat) (sl da scope n : Nat),
    (s.strand s.curT s.curX).flight = some f → f.phase = .arrived →
    f.req = some (.watch key width thr tag counter sl da scope) → s.fencedCluster (watchHome key) = false →
    s.watchValue sl key width < thr.toNat % 2 ^ width → s.freeWatch sl = some n →
    let g := (s.watchEntry (sl * 256 + n)).gen + 1
    exec .watchPlaceRequest s = .next (({ s with watches := tset s.watches (sl * 256 + n) ⟨g, true, key, width, thr, tag,
      counter, s.curT, s.threadCtx s.curT, (s.cluster (clusterOf s.curT)).part.toNat, scope⟩ } : State).replyTo s.curT s.curX
        (.done [.s da (watchHandle (sl * 256 + n) g.toNat)]))) ∧
  (∀ (s : State) (f : Flight) (key width : Nat) (thr tag : Word) (counter : Option Nat) (sl da scope : Nat),
    (s.strand s.curT s.curX).flight = some f → f.phase = .arrived →
    f.req = some (.watch key width thr tag counter sl da scope) → s.fencedCluster (watchHome key) = false →
    s.watchValue sl key width < thr.toNat % 2 ^ width → s.freeWatch sl = none →
    exec .watchPlaceRequest s = .next (s.refuse s.curT s.curX)) ∧
  (∀ (s : State) (f : Flight) (key width : Nat) (thr tag : Word) (counter : Option Nat) (sl da scope : Nat),
    (s.strand s.curT s.curX).flight = some f → f.phase = .arrived →
    f.req = some (.watch key width thr tag counter sl da scope) → s.fencedCluster (watchHome key) = true →
    exec .watchPlaceRequest s = .next ((s.answerNow (sliceDie sl) s.curT key tag counter scope 0 true).replyTo s.curT s.curX
      (.done [.s da handleNow]))) ∧
  (∀ (s : State) (f : Flight) (key width : Nat) (thr tag : Word) (counter : Option Nat) (sl da scope : Nat),
    (s.strand s.curT s.curX).flight = some f → f.phase = .arrived →
    f.req = some (.watch key width thr tag counter sl da scope) → s.fencedCluster (watchHome key) = false →
    thr.toNat % 2 ^ width ≤ s.watchValue sl key width →
    exec .watchPlaceRequest s = .next ((s.answerNow (sliceDie sl) s.curT key tag counter scope (wordOf (s.watchValue sl key width)) false).replyTo
      s.curT s.curX (.done [.s da handleNow]))) ∧
  (∀ (s : State), exec .watchAnswerDelivery s = .next (s.offer s.actor false)) ∧
  (∀ (s : State), exec .watchAnswerReoffer s = .next (s.offer s.actor true)) ∧
  (∀ (e : Enc) (s s1 : State), accept (.unwatch e) s = some s1 → handleEntry (s1.my.getS e.sa.idx.toNat) = none →
    exec (.unwatch e) s = .next (s1.retire e.la false [.s e.da.idx.toNat 1])) ∧
  (∀ (e : Enc) (s s1 : State), accept (.unwatch e) s = some s1 →
    let h := s1.my.getS e.sa.idx.toNat
    (handleEntry h).isSome = true → s1.devices.any (fun p => p.1 == (h.extractLsb' 35 13).toNat / 4) = true →
    exec (.unwatch e) s = .next (State.block (s1.updMy fun st => { st with flight := some (newFlight s1 s1.curT s1.curX
      (h.extractLsb' 35 13).toNat 2 (some (.unwatch h e.da.idx.toNat))) }) s.curT s.curX .answer)) ∧
  (∀ (s : State) (f : Flight) (h : Word) (da k : Nat) (g : BitVec 10), (s.strand s.curT s.curX).flight = some f →
    f.phase = .arrived → f.req = some (.unwatch h da) → handleEntry h = some (k, g) → (s.watchEntry k).held = true →
    (s.watchEntry k).gen = g → (s.watchEntry k).part = (s.cluster (clusterOf s.curT)).part.toNat →
    exec .unwatchRequest s = .next (({ s with watches := tset s.watches k { s.watchEntry k with held := false } } : State).replyTo
      s.curT s.curX (.done [.s da 0]))) ∧
  (∀ (s : State) (f : Flight) (h : Word) (da k : Nat) (g : BitVec 10), (s.strand s.curT s.curX).flight = some f →
    f.phase = .arrived → f.req = some (.unwatch h da) → handleEntry h = some (k, g) → ((s.watchEntry k).held = false ∨
    (s.watchEntry k).gen ≠ g ∨ (s.watchEntry k).part ≠ (s.cluster (clusterOf s.curT)).part.toNat) →
    exec .unwatchRequest s = .next (s.replyTo s.curT s.curX (.done [.s da 1])))

/-- R265 to R269: `arm` takes a free entry, of several the lowest (log 18), for a good record and answers its handle with
status 0, and 2 for a bad record whatever the table holds (log 85); `disarm` frees an armed entry (0) or a failed one (2) and
answers 1 for any other, a fired entry staying occupied until its action has ended (log 19); and the next action that is due
runs, after which its entry is free, or FAILED where it meets a trap or exhausts its retries. -/
def Obligations.ArmRows : Prop :=
  (∀ (e : Enc) (s s1 s2 : State) (l : List Word) (r : ArmRec) (n : Nat), accept (.arm e) s = some s1 →
    s1.recordLoad (effAddr s1 e) e.sw.toNat = .ok (l, s2) → armRecord l = some r →
    s2.freeArm (clusterOf s2.curT) = some n →
    let c := clusterOf s2.curT
    let g := (s2.armEntry c n).gen + 1
    let s3 : State := { s2 with nextId := s2.nextId + 1 }
    exec (.arm e) s = .next (((s3.setArm c n ⟨g, .armed, r, s3.curT, s3.curX, s3.ctxOf c, s3.me.syncretry.toNat, s2.nextId⟩).retire
      e.la false [.s e.da.idx.toNat (wordOf (n + g.toNat * 128)), .s e.sb.idx.toNat 0]).fireArms c r.ctr)) ∧
  (∀ (e : Enc) (s s1 s2 : State) (l : List Word), accept (.arm e) s = some s1 →
    s1.recordLoad (effAddr s1 e) e.sw.toNat = .ok (l, s2) → armRecord l = none →
    exec (.arm e) s = .next (s2.retire e.la false [.s e.da.idx.toNat 0, .s e.sb.idx.toNat 2])) ∧
  (∀ (e : Enc) (s s1 s2 : State) (l : List Word) (r : ArmRec), accept (.arm e) s = some s1 →
    s1.recordLoad (effAddr s1 e) e.sw.toNat = .ok (l, s2) → armRecord l = some r →
    s2.freeArm (clusterOf s2.curT) = none →
    exec (.arm e) s = .next (s2.retire e.la false [.s e.da.idx.toNat 0, .s e.sb.idx.toNat 1])) ∧
  (∀ (e : Enc) (s s1 : State), accept (.disarm e) s = some s1 →
    let c := clusterOf s1.curT
    let h := s1.my.getS e.sa.idx.toNat
    let n := (h.extractLsb' 0 7).toNat
    let a := s1.armEntry c n
    let bad := h.extractLsb' 16 48 ≠ 0 ∨ h.extractLsb' 7 9 ≠ a.gen
    let put (v : Word) (s : State) : State := s.retire e.la false [.s e.da.idx.toNat v]
    (bad → exec (.disarm e) s = .next (put 1 s1)) ∧
    (¬bad → (a.state = .free ∨ a.state = .fired) → exec (.disarm e) s = .next (put 1 s1)) ∧
    (¬bad → a.state = .armed → exec (.disarm e) s = .next (put 0 (s1.setArm c n { a with state := .free }))) ∧
    (¬bad → a.state = .failed → exec (.disarm e) s = .next (put 2 (s1.setArm c n { a with state := .free })))) ∧
  (∀ (s t : State) (a : Action), nextAction (s.cycleOf (s.actor / 128)) [] (s.cluster s.actor).actions = some a →
    (s.runAction s.actor a = .done t →
      exec .armActionRun s = .next ((t.dropAction s.actor a).endEntry s.actor a .free)) ∧
    (s.runAction s.actor a = .failed t →
      exec .armActionRun s = .next ((t.dropAction s.actor a).endEntry s.actor a .failed)) ∧
    (s.runAction s.actor a = .waits t → exec .armActionRun s = .next t) ∧
    (∀ b, s.runAction s.actor a = .net b t → exec .armActionRun s = .next (t.setAction s.actor a b)) ∧
    (∀ b, s.runAction s.actor a = .refused b t → a.limit ≤ a.refusals →
      exec .armActionRun s = .next ((t.dropAction s.actor a).endEntry s.actor a .failed)) ∧
    (∀ b, s.runAction s.actor a = .refused b t → a.refusals < a.limit →
      exec .armActionRun s = .next (t.setAction s.actor a { b with
        refusals := a.refusals + 1, after := s.cycleOf (s.actor / 128) + 64, net := .idle })))

/-- R271 to R276, R39: each atomic whose place passes its checks is accepted with its operation and its releases, at once
within its die, else once its request is admitted; and the place performs the oldest one of the strand once, or answers
HOME_FENCED. -/
def Obligations.AtomicRows : Prop :=
  AtomicAccepted .aadd .add ∧ AtomicAccepted .aand .and ∧ AtomicAccepted .aor .or ∧ AtomicAccepted .axor .xor ∧
  AtomicAccepted .amin .min ∧ AtomicAccepted .amax .max ∧ AtomicAccepted .aswp .swp ∧ AtomicAccepted .acas .cas ∧
  (∀ (s : State) (t : Nat) (x : Side) (a : AtomicWait),
    let p := s.release t x 6
    (a.rel = false → ((s.strand t x).flight.filter (·.atomic.isSome)) = none → s.acceptAtomic t x a =
      s.updStrand t x fun st => st.acceptFar a.la (.atomic { a.r with rel := s.storeRel t x }) none) ∧
    (a.rel = true → ((p.2.strand t x).flight.filter (·.atomic.isSome)) = none → s.acceptAtomic t x a =
      p.2.updStrand t x fun st => st.acceptFar a.la (.atomic { a.r with rel := s.storeRel t x ++ [p.1] }) none)) ∧
  (∀ (t : Nat) (x : Side) (id : Nat) (s : State) (th : Thread) (r : AtomicReq), s.thread? t = some th →
    firstAtomic (th.strand x).pend = some (id, r) → s.stackFenced r = false →
    exec (.atomicExecute t x id) s = .next (s.atomicRun t x id r)) ∧
  (∀ (t : Nat) (x : Side) (id : Nat) (s : State) (th : Thread) (r : AtomicReq), s.thread? t = some th →
    firstAtomic (th.strand x).pend = some (id, r) → s.stackFenced r = true →
    exec (.atomicExecute t x id) s = .next (s.result t x (r.die t) id [] (some (TrapInfo.at .homeFenced r.va))))

/-- R277 to R281: `rsst` writes the issuing core's own slot of the location, zero above w bits, and the bank keeps no
sum of it; `rsld` delivers the sum that the bank keeps for its type and mode, or else the sum of the 1,024 slots,
which the bank then keeps; `rsclr` clears the location at `%prog` and stays, until the last location of its range,
after which it leaves `%prog` zero and goes on (one location a step is the model's choice, log 90). -/
def Obligations.SlotRows : Prop :=
  (∀ (e : Enc) (s s1 s2 s3 : State) (g : Target), accept (.rsst e) s = some s1 →
    s1.slotPlace s1.curT (effAddr s1 e) e.sw.toNat .slotWrite = .ok (g, s2) → s2.admitReq (targetDie s2.curT g) 0 = .ok s3 →
    let p := s3.storeRelease (e.gs == 2)
    let s4 := p.2.recordRel g.key p.1
    let k := g.key + 8 * packageCore s4.curT
    let v := leBytes 8 ((s4.my.getS e.da.idx.toNat).toNat % 2 ^ tyWidth false e.ty)
    exec (.rsst e) s = .next (({ (s4.clearPoison k 8) with mem := memWrite s4.mem k v, sums := tdel s4.sums g.key } : State).updMy
      Strand.advance)) ∧
  (∀ (e : Enc) (s s1 s2 s3 : State) (g : Target), accept (.rsld e) s = some s1 →
    s1.slotPlace s1.curT (effAddr s1 e) e.sw.toNat .slotRead = .ok (g, s2) → s2.admitReq (targetDie s2.curT g) 0 = .ok s3 →
    let s4 := if e.gs == 1 then s3.acquireAll s3.curT 6 (s3.relOf g.key) else s3.updMy fun st => st.observe g.home (s3.relOf g.key)
    let made (k : KeptSum) : Bool := k.ty == e.ty && k.rm == e.rm && k.ftz == e.ftz && k.sat == e.sat
    let r := if e.ty == .fp32 then slotSumF e.rm e.ftz e.sat (s4.slots g.key)
      else (slotSumI e.sat (tyWidth false e.ty) (s4.slots g.key), 0)
    let v := extendInt (tySigned e.ty) (tyWidth false e.ty) r.1
    (∀ k, (tget s4.sums g.key).filter made = some k →
      exec (.rsld e) s = .next (s4.retireLoad e.la [.s e.da.idx.toNat k.val, .fps k.flags] none)) ∧
    ((tget s4.sums g.key).filter made = none → s4.poisoned g.key 8192 = false →
      exec (.rsld e) s = .next (({ s4 with sums := tset s4.sums g.key ⟨e.ty, e.rm, e.ftz, e.sat, v, r.2⟩ } : State).retireLoad e.la
        [.s e.da.idx.toNat v, .fps r.2] none)) ∧
    ((tget s4.sums g.key).filter made = none → s4.poisoned g.key 8192 = true →
      exec (.rsld e) s = .next (s4.retireLoad e.la [.s e.da.idx.toNat v, .fps r.2] (some (effAddr s4 e))))) ∧
  (∀ (e : Enc) (s s1 s2 s3 s4 : State) (w : Window) (g : Target), accept (.rsclr e) s = some s1 →
    let n := (s1.my.getS e.sb.idx.toNat).toNat
    let va := effAddr s1 e
    (s1.my.getS e.sb.idx.toNat).extractLsb' 32 32 = 0 → windowCheck va.toNat n 8 .slotWrite false = .ok w → n % 8 = 0 → n ≠ 0 →
    s1.slotPages s1.curT e.sw.toNat ((va.toNat + n - 1) / 65536 - va.toNat / 65536 + 1) va.toNat = .ok s2 →
    let done := s2.my.prog.toNat
    done < n → s2.slotPlace s2.curT (va + wordOf done) e.sw.toNat .slotWrite = .ok (g, s3) →
    s3.admitReq (targetDie s3.curT g) 0 = .ok s4 →
    let p := s4.storeRelease (e.gs == 2)
    let s5 := (p.2.clearSlots g.key).recordRel g.key p.1
    (n ≤ done + 8 → exec (.rsclr e) s = .next ((s5.updMy fun st => { st with prog := 0 }).updMy Strand.advance)) ∧
    (done + 8 < n → exec (.rsclr e) s =
      .next ((s5.updMy fun st => { st with prog := BitVec.ofNat 64 (done + 8) }).block s.curT s.curX .more))) ∧
  (∀ (e : Enc) (s s1 : State) (w : Window), accept (.rsclr e) s = some s1 →
    s1.my.getS e.sb.idx.toNat = 0 → windowCheck (effAddr s1 e).toNat 0 8 .slotWrite false = .ok w →
    exec (.rsclr e) s = .next ((s1.updMy fun st => { st with prog := 0 }).updMy Strand.advance))
/-- R38, R289, R291 to R294, R299 to R301: a multiply whose operand ranges pass their checks enters the core's queue
where it has room, and its strand waits for it; a tile row whose address passes its checks enters the queue as a long
operation; each of them waits for room in a full queue; `cstat` reads a tile's status, `cstat.clr` clears its
OVF as well, and `mprio` sets the priority of the operations of a thread of its context. -/
def Obligations.MatrixRows : Prop :=
  (∀ (e : Enc) (s s1 : State), accept (.mma e) s = some s1 →
    let m := multiplyOf e s1
    operandRange m.a (64 * m.rowBytes) = .ok () → operandRange m.b (64 * m.rowBytes) = .ok () → s1.matFull = false →
    let p := s1.enqueueMat (.mma m)
    exec (.mma e) s = .next (p.2.block s.curT s.curX (.matrix p.1))) ∧
  (∀ (e : Enc) (s s1 : State), accept (.mring e) s = some s1 →
    let m := multiplyOf e s1
    let key := ringKey s1.curT e
    operandRange m.a (64 * m.rowBytes) = .ok () → operandRange m.b (64 * m.rowBytes) = .ok () → s1.matFull = false →
    let p := s1.enqueueMat (.mring key m)
    exec (.mring e) s = .next ((p.2.joinRing (coreOf p.2.curT) p.2.curT key p.1).block s.curT s.curX (.matrix p.1))) ∧
  (∀ row (op : Enc → State → MatOp) store, (row, op, store) ∈
      [(Instr.scacc, (fun e s => MatOp.scacc e.rm e.sat e.ftz e.da.idx.toNat e.sa.idx.toNat (s.me.getV e.sb.idx.toNat)
          (s.me.getV (e.sb.idx.toNat + 1))), none),
       (.cld, (fun e s => MatOp.cld e.da.idx.toNat (effAddr s e) (s.my.getS e.sb.idx.toNat) e.sw), some false),
       (.cst, (fun e s => MatOp.cst e.da.idx.toNat (effAddr s e) (s.my.getS e.sb.idx.toNat) e.sw), some true),
       (.czero, (fun e _ => MatOp.czero e.da.idx.toNat), none)] →
    ∀ (e : Enc) (s s1 : State), accept (row e) s = some s1 →
    (∀ st, store = some st → tileRows (effAddr s1 e) (s1.my.getS e.sb.idx.toNat) st (List.range 64) = .ok ()) →
    s1.matFull = false →
    let p := s1.enqueueMat (op e s1)
    exec (row e) s = .next (p.2.updMy fun st => st.accept e.la (.matrix p.1) false [])) ∧
  (∀ row ∈ [Instr.scacc, .czero], ∀ (e : Enc) (s s1 : State), accept (row e) s = some s1 → s1.matFull = true →
    exec (row e) s = .next (s.block s.curT s.curX .matrixSpace)) ∧
  (∀ row ∈ [Instr.mma, .mring], ∀ (e : Enc) (s s1 : State), accept (row e) s = some s1 →
    operandRange (multiplyOf e s1).a (64 * (multiplyOf e s1).rowBytes) = .ok () →
    operandRange (multiplyOf e s1).b (64 * (multiplyOf e s1).rowBytes) = .ok () → s1.matFull = true →
    exec (row e) s = .next (s.block s.curT s.curX .matrixSpace)) ∧
  (∀ row store, (row, store) ∈ [(Instr.cld, false), (.cst, true)] → ∀ (e : Enc) (s s1 : State), accept (row e) s = some s1 →
    tileRows (effAddr s1 e) (s1.my.getS e.sb.idx.toNat) store (List.range 64) = .ok () → s1.matFull = true →
    exec (row e) s = .next (s.block s.curT s.curX .matrixSpace)) ∧
  WritesResult .cstat false (fun e s => [.s e.da.idx.toNat (s.tileStatus (coreOf s.curT) e.sa.idx.toNat)]) ∧
  (∀ (e : Enc) (s s1 : State), accept (.cstatClr e) s = some s1 →
    let k := coreOf s1.curT
    exec (.cstatClr e) s = .next ((s1.setTile k e.sa.idx.toNat { s1.tile k e.sa.idx.toNat with ovf := false }).retire e.la
      false [.s e.da.idx.toNat (s1.tileStatus k e.sa.idx.toNat)])) ∧
  (∀ (e : Enc) (s s1 : State), accept (.mprio e) s = some s1 →
    let a := s1.my.getS e.sa.idx.toNat
    a.extractLsb' 3 61 = 0 → e.imm.extractLsb' 2 22 = 0 →
    let k := coreOf s1.curT
    let t := k * 8 + (a.extractLsb' 0 3).toNat
    let same := ((s1.thread? t).map fun _ => s1.threadCtx t == s1.threadCtx s1.curT).getD false
    let set (q : QueuedMat) : QueuedMat :=
      if same && q.t == t then { q with base := (e.imm.extractLsb' 0 2).toNat, since := s1.now s1.curT, aged := 0 } else q
    exec (.mprio e) s = .next ((s1.updCore k fun c => { c with queue := c.queue.map set }).updMy Strand.advance))

/-- R293 to R298: the matrix unit's own events, in every state: it starts the best startable operation and no other;
fetches what a running or stalled one is missing; takes one step of a running operation with nothing missing, and none
else; ages one that waits; forms a ring once every member of its group waits, or times it out where their shapes
differ; delivers ring latches; and times a ring out. -/
def Obligations.MatrixEvents : Prop :=
  (∀ (s : State), exec .matrixOpStart s = .next (
    if (s.core s.actor).queue.any (fun q => q.state == .running) then s
    else match bestOp (s.startable s.actor) with
      | some q => if q.id = s.item then s.updQueue s.actor s.item fun q =>
          { q with state := .running, base := q.priority, aged := 0 } else s
      | none => s)) ∧
  (∀ (s : State), exec .matrixPriorityAge s = .next (s.updQueue s.actor s.item fun q =>
    if (q.state == .waiting || q.state == .overtaken) && decide (q.priority < 3) &&
      decide (q.since + 4096 * (q.aged + 1) ≤ s.cycleOf (s.actor / 1024)) then { q with aged := q.aged + 1 } else q)) ∧
  (∀ (s : State) (q : QueuedMat), s.queued s.actor s.item = some q → (q.state = .running ∨ q.state = .stalled) →
    (s.missing q).isEmpty = false →
    exec .matrixOperandFetch s = .next (s.fetchFirst s.actor q (s.missing q))) ∧
  (∀ (s : State) (q : QueuedMat), s.queued s.actor s.item = some q → (s.missing q).isEmpty = true →
    exec .matrixOperandFetch s = .next s) ∧
  (∀ (s : State) (q : QueuedMat), (s.core s.actor).queue.find? (fun q => q.state == .running) = some q →
    (s.missing q).isEmpty = false → exec .matrixKstep s = .next s) ∧
  (∀ (s : State) (q : QueuedMat) (m : Multiply), (s.core s.actor).queue.find? (fun q => q.state == .running) = some q →
    (s.missing q).isEmpty = true → q.op = .mma m →
    exec .matrixKstep s = .next ((if s.matProg q > m.ks then s else s.mmaStep s.actor q m).boundary s.actor q.id)) ∧
  (∀ (s : State) (q : QueuedMat) (key : Nat) (m : Multiply),
    (s.core s.actor).queue.find? (fun q => q.state == .running) = some q → (s.missing q).isEmpty = true →
    q.op = .mring key m →
    exec .matrixKstep s = .next ((if (m.at (s.matProg q)).1 < ringSize key ∧ s.latchReady s.actor q = true
      then s.ringStep s.actor q key m else s).boundary s.actor q.id)) ∧
  (∀ (s : State) (q : QueuedMat) (rm : Rm) (sat ftz : Bool) (d i : Nat) (er ec : VReg),
    (s.core s.actor).queue.find? (fun q => q.state == .running) = some q → (s.missing q).isEmpty = true →
    q.op = .scacc rm sat ftz d i er ec →
    exec .matrixKstep s = .next (s.scaccStep s.actor q rm sat ftz d i er ec)) ∧
  (∀ (s : State) (q : QueuedMat) (d : Nat) (a st : Word) (sw : BitVec 3),
    (s.core s.actor).queue.find? (fun q => q.state == .running) = some q → (s.missing q).isEmpty = true →
    q.op = .cld d a st sw → exec .matrixKstep s = .next (s.cldStep s.actor q d a st)) ∧
  (∀ (s : State) (q : QueuedMat) (d : Nat) (a st : Word) (sw : BitVec 3),
    (s.core s.actor).queue.find? (fun q => q.state == .running) = some q → (s.missing q).isEmpty = true →
    q.op = .cst d a st sw → exec .matrixKstep s = .next (s.cstStep s.actor q d a st sw.toNat)) ∧
  (∀ (s : State) (q : QueuedMat) (d : Nat), (s.core s.actor).queue.find? (fun q => q.state == .running) = some q →
    (s.missing q).isEmpty = true → q.op = .czero d →
    exec .matrixKstep s = .next ((s.setTile s.actor d ⟨List.replicate 4096 0, false, 0⟩).doneOp s.actor q 0)) ∧
  (∀ (s : State) (ring : Ring) (p : Nat × QueuedMat × Multiply) (rest : List (Nat × QueuedMat × Multiply)),
    (s.cluster s.actor).rings.find? (fun r => !r.formed && r.key == s.item) = some ring →
    (ringCores s.actor s.item).filterMap (fun k => (s.ringCandidate k s.item).map fun q => (k, q)) = p :: rest →
    let part (p : Nat × QueuedMat × Multiply) : RingPart :=
      ⟨ringPos p.1 s.item, p.1, p.2.1.t, p.2.1.id, true, min (ringSize s.item) (p.2.2.at (s.matProg p.2.1)).1⟩
    let rid (l : List Ring) : List Ring := l.filter fun r => !(r.key == s.item && !r.formed)
    exec .ringGroupForm s = .next (
      if (s.cluster s.actor).rings.any (fun r => r.formed && r.key == s.item) = true ∨
          (p :: rest).length ≠ (ringCores s.actor s.item).length then s
      else if rest.all (fun r => sameShape p.2.2 r.2.2) then
        (s.updRings s.actor fun l => rid l ++ [{ ring with formed := true, parts := (p :: rest).map part }]).nextUse s.actor s.item
      else ((s.updRings s.actor rid).ringTimeout ((p :: rest).map fun p => (p.1, p.2.1))).nextUse s.actor s.item)) ∧
  (∀ (s : State),
    let mine (r : Ring) : Option RingPart := r.parts.find? fun p => p.core == s.actor && r.latches.any fun l => l.pos == p.pos && !l.arrived
    exec .ringLatchArrival s = .next (s.updRings (s.actor / 8) fun l => l.map fun r =>
      if r.formed then match mine r with
        | some p => { r with latches := r.latches.map fun l => if l.pos = p.pos then { l with arrived := true } else l }
        | none => r
      else r)) ∧
  (∀ (s : State) (r : Ring), (s.cluster s.actor).rings.find? (fun r => r.key == s.item && r.since.isSome &&
      decide (r.elapsed (s.cycleOf (s.actor / 128)) ≥ r.limit)) = some r →
    exec .ringWatchdogExpiry s = .next (((s.updRings s.actor fun rs => rs.filter fun q =>
      !(q.key == s.item && q.formed == r.formed)).ringTimeout
        (if r.formed then r.parts.filterMap fun p => if p.here then (s.queued p.core p.id).map fun q => (p.core, q) else none
         else s.ringArrived s.actor s.item)).nextUse s.actor s.item))

/-- R151, R152, R155, R156, R52, R194: `send` and `sendeos` present their message or raise the cause of a failed
check; the target's queue admits it, and the strand goes on, or refuses it, or its partition or fence raises
PERMISSION or HOME_FENCED; a refused request backs off for 64 cycles and is presented again, up to its limit; `qstat`
reads a queue; `park` goes on where a queue of its mask holds an ordinary message, and else parks. -/
def Obligations.MessageRows : Prop :=
  (∀ row (entry : Enc → State → QEntry), (row, entry) ∈ [(Instr.sendeos, (fun _ _ => QEntry.token)),
      (.send, (fun e s => match e.sb.cls with
        | .vector => ⟨false, 8, 0, ((s.me.getV e.sb.idx.toNat).setWidth 512).setWidth 2048, [], none⟩
        | _ => QEntry.word (s.my.getS e.sb.idx.toNat)))] →
    ∀ (e : Enc) (s s1 : State), accept (row e) s = some s1 →
    let w := s1.my.getS e.sa.idx.toNat
    s1.sendCheck s1.curT w = none →
    let p := s1.release s1.curT s1.curX 6
    let s2 := p.2.writeBackMarked (clusterOf p.2.curT) p.1.pos
    let en := { entry e s1 with rel := s2.storeRel s2.curT s2.curX ++ [p.1] }
    exec (row e) s = .next ((s2.updMy fun st => { st with flight := some (newFlight s2 s2.curT s2.curX
      (dieOf (targetSlot w)) 3 (some (.send ⟨targetSlot w, targetQueue w, en⟩))) }).block s.curT s.curX .answer)) ∧
  (∀ row ∈ [Instr.send, .sendeos], ∀ (e : Enc) (s s1 : State) (c : Cause), accept (row e) s = some s1 →
    s1.sendCheck s1.curT (s1.my.getS e.sa.idx.toNat) = some c →
    exec (row e) s = .next (s.raise s.curT s.curX (TrapInfo.plain c))) ∧
  (∀ (s t : State) (f : Flight) (m : Msg), (s.strand s.curT s.curX).flight = some f → f.phase = .arrived →
    f.req = some (.send m) → s.fencedCluster (clusterOf m.dst) = false → s.admitMsg s.curT m = .admitted t →
    exec .messageArrival s = .next (t.replyTo s.curT s.curX (.done []))) ∧
  (∀ (s : State) (f : Flight) (m : Msg), (s.strand s.curT s.curX).flight = some f → f.phase = .arrived →
    f.req = some (.send m) → s.fencedCluster (clusterOf m.dst) = false → s.admitMsg s.curT m = .refused →
    exec .messageArrival s = .next (s.refuse s.curT s.curX)) ∧
  (∀ (s : State) (f : Flight) (m : Msg), (s.strand s.curT s.curX).flight = some f → f.phase = .arrived →
    f.req = some (.send m) → s.fencedCluster (clusterOf m.dst) = false → s.admitMsg s.curT m = .permission →
    exec .messageArrival s = .next (s.replyTo s.curT s.curX (.trap (TrapInfo.plain .permission)))) ∧
  (∀ (s : State) (f : Flight) (m : Msg), (s.strand s.curT s.curX).flight = some f → f.phase = .arrived →
    f.req = some (.send m) → s.fencedCluster (clusterOf m.dst) = true →
    exec .messageArrival s = .next (s.replyTo s.curT s.curX (.trap (TrapInfo.plain .homeFenced)))) ∧
  (∀ (s : State) (f : Flight), (s.strand s.curT s.curX).flight = some f → f.phase = .refused → f.refusals < f.limit →
    exec .refusalReceived s = .next (s.updStrand s.curT s.curX fun st =>
      { st with flight := some { f with phase := .backoff (s.now s.curT + 64), refusals := f.refusals + 1 } })) ∧
  (∀ (s : State) (f : Flight), (s.strand s.curT s.curX).flight = some f → f.phase = .refused → f.limit ≤ f.refusals →
    exec .refusalReceived s = .next ((s.dropAllocated f.req).raise s.curT s.curX (TrapInfo.plain (retryCause f.req)))) ∧
  (∀ (s : State) (f : Flight) (n : Nat), (s.strand s.curT s.curX).flight = some f → f.phase = .backoff n → n ≤ s.now s.curT →
    (∀ m, f.req ≠ some (.send m)) → exec .requestRepresent s = .next ((s.updStrand s.curT s.curX fun st =>
      { st with flight := some { f with phase := if crossesLink s.curT f.die then .atLink (s.elapsedOf (deviceOf s.curT)) else .arrived,
                                        since := s.now s.curT, bound := 0, bounces := 0,
                                        gen := s.steerGen (deviceOf s.curT) } }).joinCinc s.curT s.curX)) ∧
  (∀ (s : State) (f : Flight) (n : Nat) (m : Msg), (s.strand s.curT s.curX).flight = some f → f.phase = .backoff n →
    n ≤ s.now s.curT → f.req = some (.send m) → exec .sendRepresent s = .next (s.updStrand s.curT s.curX fun st =>
      { st with flight := some { f with phase := if crossesLink s.curT f.die then .atLink (s.elapsedOf (deviceOf s.curT)) else .arrived,
                                        since := s.now s.curT, bound := 0, bounces := 0,
                                        gen := s.steerGen (deviceOf s.curT) } })) ∧
  WritesResult .qstat false (fun e s => [.s e.da.idx.toNat
    (queueStatus (e.imm.extractLsb' 0 4).toNat (s.me.getQ (e.imm.extractLsb' 0 4).toNat))]) ∧
  (∀ (e : Enc) (s s1 : State), accept (.park e) s = some s1 → parkWrong s1.me s1.curX (e.imm.extractLsb' 0 16) = false →
    exec (.park e) s = .next (if parkedHead s1.me (e.imm.extractLsb' 0 16) then s1.updMy Strand.advance
      else s1.updMy fun st => { st with status := .parked (e.imm.extractLsb' 0 16) }))

/-- R48 to R51, R54, R157, R158: `spawn` reads its record, answers BADREC at acceptance for a bad one or a target out
of service, traps without %ctx's right to spawn, and else presents it at the target cluster, which queues it, or
answers OTHERCTX or FULL; a queued record ages and is placed on a free slot, the cluster scrubbed first for another
context; `reap` answers REAPED for a drained child, whose slot it frees, waits for one that is not drained, and
answers FREE or NOTCHILD else. -/
def Obligations.ThreadRows : Prop :=
  (∀ (e : Enc) (s s1 s2 : State) (l : List Word) (r : SpawnRec), accept (.spawn e) s = some s1 →
    (s1.cluster (clusterOf s1.curT)).ctxReg.getLsbD 17 = true → s1.recordLoad (effAddr s1 e) e.sw.toNat = .ok (l, s2) →
    spawnRecord l = (r, false) →
    let c := deviceOf s1.curT * 128 + r.pcl
    (s2.cluster c).part = (s2.cluster (clusterOf s1.curT)).part → s2.fencedCluster c = false →
    s2.targetOut c r = false →
    exec (.spawn e) s = .next (State.block (s2.updMy fun st => { st with flight := some (newFlight s2 s2.curT s2.curX (c / 32) 0
      (some (.spawn r e.da.idx.toNat e.sb.idx.toNat e.la))) }) s.curT s.curX .answer)) ∧
  (∀ (e : Enc) (s s1 s2 : State) (l : List Word) (r : SpawnRec) (bad : Bool), accept (.spawn e) s = some s1 →
    (s1.cluster (clusterOf s1.curT)).ctxReg.getLsbD 17 = true → s1.recordLoad (effAddr s1 e) e.sw.toNat = .ok (l, s2) →
    spawnRecord l = (r, bad) →
    let c := deviceOf s1.curT * 128 + r.pcl
    (s2.cluster c).part = (s2.cluster (clusterOf s1.curT)).part → s2.fencedCluster c = false →
    (bad = true ∨ s2.targetOut c r = true) →
    exec (.spawn e) s = .next (s2.retire e.la false [.s e.da.idx.toNat 0, .s e.sb.idx.toNat 2])) ∧
  (∀ (e : Enc) (s s1 : State), accept (.spawn e) s = some s1 →
    (s1.cluster (clusterOf s1.curT)).ctxReg.getLsbD 17 = false →
    exec (.spawn e) s = .next (s.raise s.curT s.curX (TrapInfo.plain .permission))) ∧
  (∀ (s : State) (f : Flight) (r : SpawnRec) (da sb : Nat) (la : BitVec 4), (s.strand s.curT s.curX).flight = some f →
    f.phase = .arrived → f.req = some (.spawn r da sb la) →
    let c := deviceOf s.curT * 128 + r.pcl
    let ctx := s.threadCtx s.curT
    s.otherCtx c ctx = false → (s.cluster c).spawnQ.length < 64 →
    let q : QueuedSpawn := ⟨s.nextId, r, s.curT, some (s.curX, (s.strand s.curT s.curX).order), ctx,
      (s.cluster c).part.toNat, s.cycleOf (c / 128), 0, none⟩
    let s1 : State := { s with nextId := s.nextId + 1 }
    let s2 := s1.updCluster c fun cl =>
      { cl with spawnQ := cl.spawnQ ++ [q], claim := if cl.run == .empty then some ctx else cl.claim }
    let far := (s2.strand s.curT s.curX).flight.bind (s2.farOf s.curT)
    exec .spawnRecordAdmit s = .next (s2.updStrand s.curT s.curX fun st => st.acceptFar la (.spawn da sb) far)) ∧
  (∀ (s : State) (f : Flight) (r : SpawnRec) (da sb : Nat) (la : BitVec 4), (s.strand s.curT s.curX).flight = some f →
    f.phase = .arrived → f.req = some (.spawn r da sb la) →
    let c := deviceOf s.curT * 128 + r.pcl
    (s.otherCtx c (s.threadCtx s.curT) = true →
      exec .spawnRecordAdmit s = .next (s.replyTo s.curT s.curX (.done [.s da 0, .s sb 3]))) ∧
    (s.otherCtx c (s.threadCtx s.curT) = false → 64 ≤ (s.cluster c).spawnQ.length →
      exec .spawnRecordAdmit s = .next (s.replyTo s.curT s.curX (.done [.s da 0, .s sb 1])))) ∧
  (∀ (s : State), exec .spawnPriorityAge s = .next (s.updCluster s.actor fun cl =>
    { cl with spawnQ := cl.spawnQ.map fun q => if q.id = s.item ∧ q.priority < 3 ∧ q.since + 4096 * (q.aged + 1) ≤ s.cycleOf (s.actor / 128) then
      { q with aged := q.aged + 1 } else q })) ∧
  (∀ (s : State) (q : QueuedSpawn) (t : Nat), s.nextPlacement s.actor = some (q, t) → q.id = s.item →
    ((s.cluster s.actor).sramCtx = none ∨ (s.cluster s.actor).sramCtx = some q.ctx) →
    exec .spawnPlacement s = .next (((s.placeChild s.actor q t).placed q t).endClaim s.actor)) ∧
  (∀ (s : State) (q : QueuedSpawn) (t : Nat), s.nextPlacement s.actor = some (q, t) → q.ctx = s.item →
    (s.cluster s.actor).sramCtx ≠ none → (s.cluster s.actor).sramCtx ≠ some s.item → (s.userThreads s.actor).isEmpty = true →
    exec .clusterScrub s = .next ((s.scrub s.actor).updCluster s.actor fun cl => { cl with sramCtx := some s.item })) ∧
  (∀ (e : Enc) (s s1 : State), accept (.reap e) s = some s1 →
    let a := s1.my.getS e.sa.idx.toNat
    let n := (a.extractLsb' 0 24).toNat
    let bad := a.extractLsb' 24 40 ≠ 0 ∨ deviceOf n ≠ deviceOf s1.curT
    let put (v : Word) (s : State) : State := s.retire e.la true [.s e.da.idx.toNat v]
    (bad → exec (.reap e) s = .next (put 1 s1)) ∧
    (¬bad → s1.admitReq (dieOf n) 0 = .ok s1 → s1.thread? n = none → exec (.reap e) s = .next (put 2 s1)) ∧
    (∀ th, ¬bad → s1.admitReq (dieOf n) 0 = .ok s1 → s1.thread? n = some th → s1.childOf s1.curT th = false →
      exec (.reap e) s = .next (put 1 s1)) ∧
    (∀ th, ¬bad → s1.admitReq (dieOf n) 0 = .ok s1 → s1.thread? n = some th → s1.childOf s1.curT th = true →
      th.drained = true → exec (.reap e) s = .next (put 0 (s1.freeSlot n))) ∧
    (∀ th, ¬bad → s1.admitReq (dieOf n) 0 = .ok s1 → s1.thread? n = some th → s1.childOf s1.curT th = true →
      th.drained = false → exec (.reap e) s = .next (s.block s.curT s.curX (.drained n))) ∧
    (¬bad → crossesLink s1.curT (dieOf n) = true → s1.my.flight = none →
      exec (.reap e) s = .next ((s1.updMy fun st =>
        { st with flight := some (newFlight s1 s1.curT s1.curX (dieOf n) 0 none) }).block s.curT s.curX .answer)))

/-- R338, R342, R353: `preempt` halts every RUNNING cluster of its scope and counts them; `resume.job` restarts the
held job of a token of a thread of the same context and answers 0, or 1 where there is none, or 2 for any other
thread; a reserved bit raises RESERVED_FIELD. -/
def Obligations.PreemptResume : Prop :=
  (∀ (e : Enc) (s s1 : State), accept (.preempt e) s = some s1 → pclBad (s1.my.getS e.sa.idx.toNat) = false →
    let l := (scopeClusters (deviceOf s1.curT) (s1.my.getS e.sa.idx.toNat).toNat e.gs.toNat).filter fun c =>
      (s1.cluster c).run == .running
    exec (.preempt e) s = .next ((l.foldl (fun s c => s.haltCluster c) s1).retire e.la false
      [.s e.da.idx.toNat (wordOf l.length)])) ∧
  (∀ (e : Enc) (s s1 : State), accept (.resumeJob e) s = some s1 →
    let a := s1.my.getS e.sa.idx.toNat
    let b := s1.my.getS e.sb.idx.toNat
    let t := a.toNat
    b.extractLsb' 3 61 = 0 → ∀ th, a.extractLsb' 24 40 = 0 → s1.thread? t = some th →
    s1.threadCtx t = s1.threadCtx s1.curT → (s1.cluster (clusterOf t)).part = (s1.cluster (clusterOf s1.curT)).part →
    let mine (j : Job) : Bool := j.held && j.t == t && j.tok == some b.toNat
    let cl := s1.cluster (clusterOf t)
    let go (j : Job) : Job := if mine j then j.restart th.syncretry.toNat (s1.now t) else j
    let put (v : Word) (s : State) : State := s.retire e.la false [.s e.da.idx.toNat v]
    exec (.resumeJob e) s = .next (if cl.copyQ.any mine || cl.msQ.any mine then
      put 0 ((s1.updCluster (clusterOf t) fun cl => { cl with copyQ := cl.copyQ.map go, msQ := cl.msQ.map go }).updTok t
        b.toNat Token.add)
      else put 1 s1)) ∧
  (∀ (e : Enc) (s s1 : State), accept (.resumeJob e) s = some s1 →
    let a := s1.my.getS e.sa.idx.toNat
    (s1.my.getS e.sb.idx.toNat).extractLsb' 3 61 = 0 →
    (a.extractLsb' 24 40 ≠ 0 ∨ s1.thread? a.toNat = none ∨ s1.threadCtx a.toNat ≠ s1.threadCtx s1.curT ∨
      (s1.cluster (clusterOf a.toNat)).part ≠ (s1.cluster (clusterOf s1.curT)).part) →
    exec (.resumeJob e) s = .next (s1.retire e.la false [.s e.da.idx.toNat 2])) ∧
  (∀ (e : Enc) (s s1 : State), accept (.resumeJob e) s = some s1 →
    (s1.my.getS e.sb.idx.toNat).extractLsb' 3 61 ≠ 0 →
    exec (.resumeJob e) s = .next (s.raise s.curT s.curX (TrapInfo.plain .reservedField))) ∧
  (∀ row ∈ [Instr.preempt, .resumeRun], ∀ (e : Enc) (s s1 : State), accept (row e) s = some s1 →
    pclBad (s1.my.getS e.sa.idx.toNat) = true →
    exec (row e) s = .next (s.raise s.curT s.curX (TrapInfo.plain .reservedField)))

/-- R342: `resume.run` makes a HALTED cluster RUNNING, each of its strands keeping its saved PC, and D receives 0; on
a cluster that is not HALTED nothing else changes and D receives 1. -/
def Obligations.ResumeRun : Prop :=
  ∀ (e : Enc) (s s1 : State), accept (.resumeRun e) s = some s1 → pclBad (s1.my.getS e.sa.idx.toNat) = false →
    let c := deviceOf s1.curT * 128 + (s1.my.getS e.sa.idx.toNat).toNat
    (((s1.cluster c).run = .halted →
      exec (.resumeRun e) s = .next ((s1.updCluster c fun cl => { cl with run := .running }).retire e.la false
        [.s e.da.idx.toNat 0])) ∧
     (∀ t x, (t ≠ s1.curT ∨ x ≠ s1.curX) → (((s1.updCluster c fun cl => { cl with run := .running }).retire e.la false
        [.s e.da.idx.toNat 0]).strand t x).pc = (s1.strand t x).pc) ∧
     ((s1.cluster c).run ≠ .halted →
      exec (.resumeRun e) s = .next (s1.retire e.la false [.s e.da.idx.toNat 1])))

/-- R343, R351: the statuses of `ctxsave`, `ctxsave.drop`, `ctxload` and `ctxload.drop`, each in the order of its
rule, a cluster that is not in service being loaded no more than one that is not EMPTY (the model's choice, log 109); a save
that must wait for work in progress waits; and a reserved bit raises RESERVED_FIELD. -/
def Obligations.ContextRows : Prop :=
  (∀ (e : Enc) (s s1 : State), accept (.ctxsave e) s = some s1 →
    let a := s1.my.getS e.sa.idx.toNat
    let b := s1.my.getS e.sb.idx.toNat
    let c := deviceOf s1.curT * 128 + a.toNat
    let put (v : Word) (s : State) : State := s.retire e.la false [.s e.da.idx.toNat v]
    (pclBad a = true ∨ ctlAreaBad b = true →
      exec (.ctxsave e) s = .next (s.raise s.curT s.curX (TrapInfo.plain .reservedField))) ∧
    (pclBad a = false → ctlAreaBad b = false → exec (.ctxsave e) s = .next (
      if s1.areaBusy c then put 3 s1
      else if (s1.cluster c).run ≠ .halted then put 1 s1
      else if s1.areaInside c (ctlArea b) (areaBytes + 2 ^ (16 + ctlLogn b)) = false then put 2 s1
      else if 4 ≤ (s1.saved.filter fun sv => sv.cluster == c).length then put 4 s1
      else if s1.unsettled c (s1.ctxOf c) then s.block s.curT s.curX (.saving c)
      else put 0 ((s1.saveArea c (ctlArea b) (ctlLogn b) (ctlMem b)).acquireEngine s1.curT)))) ∧
  (∀ (e : Enc) (s s1 : State), accept (.ctxsaveDrop e) s = some s1 →
    let a := s1.my.getS e.sa.idx.toNat
    let c := deviceOf s1.curT * 128 + a.toNat
    let put (v : Word) (s : State) : State := s.retire e.la false [.s e.da.idx.toNat v]
    (pclBad a = true → exec (.ctxsaveDrop e) s = .next (s.raise s.curT s.curX (TrapInfo.plain .reservedField))) ∧
    (pclBad a = false → exec (.ctxsaveDrop e) s = .next (
      if s1.areaBusy c then put 3 s1 else if (s1.cluster c).run ≠ .halted then put 1 s1
      else put 0 (((s1.settleThreads c).dropContext c (s1.ctxOf c)).clearCluster c)))) ∧
  (∀ (e : Enc) (s s1 : State), accept (.ctxload e) s = some s1 →
    let a := s1.my.getS e.sa.idx.toNat
    let b := s1.my.getS e.sb.idx.toNat
    let c := deviceOf s1.curT * 128 + a.toNat
    let put (v : Word) (s : State) : State := s.retire e.la false [.s e.da.idx.toNat v]
    let s2 := s1.memUpdate (physKey (c / 128) (ctlArea b)) (areaBytes + 2 ^ 23) id
    (pclBad a = true ∨ ctlAreaBad b = true →
      exec (.ctxload e) s = .next (s.raise s.curT s.curX (TrapInfo.plain .reservedField))) ∧
    (pclBad a = false → ctlAreaBad b = false → exec (.ctxload e) s = .next (
      if s1.areaBusy c then put 3 s1
      else if (s1.cluster c).run ≠ .empty ∨ (s1.cluster c).service ≠ .inService then put 1 s1
      else match s2.headerOk c (ctlArea b), s2.savedAt c (ctlArea b) with
        | true, some sv => put 0 (s2.loadArea c (ctlArea b) sv)
        | _, _ => put 2 s2))) ∧
  (∀ (e : Enc) (s s1 : State), accept (.ctxloadDrop e) s = some s1 →
    let a := s1.my.getS e.sa.idx.toNat
    let b := s1.my.getS e.sb.idx.toNat
    let c := deviceOf s1.curT * 128 + a.toNat
    let put (v : Word) (s : State) : State := s.retire e.la false [.s e.da.idx.toNat v]
    let base := physKey (c / 128) (ctlArea b)
    let s2 := s1.memUpdate base areaBytes id
    let shut (sv : Saved) (s : State) : State :=
      ({ s with saved := s.saved.filter fun q => !(q.cluster == sv.cluster && q.area == sv.area) } : State).trimBarriers
    (pclBad a = true ∨ ctlAreaBad b = true →
      exec (.ctxloadDrop e) s = .next (s.raise s.curT s.curX (TrapInfo.plain .reservedField))) ∧
    (pclBad a = false → ctlAreaBad b = false → exec (.ctxloadDrop e) s = .next (
      if s1.areaBusy c then put 3 s1
      else match s2.headerOk c (ctlArea b), s2.savedAt c (ctlArea b) with
        | true, some sv => put 0 ((shut sv (s2.dropContext c sv.ctx)).memUpdate base 64 fun m => memWrite m (base + 10) [3])
        | _, _ => put 2 s2)))

/-- R334, R335: `tlbinv` waits for translations in progress, performs the accesses of its scope and drops from the
translation caches of its scope every entry that its range covers; `tprobe` answers what translation of the address
gives, without a trap. -/
def Obligations.TranslationRows : Prop :=
  (∀ row own, (row, own) ∈ [(Instr.tlbinvCtx, false), (.tlbinvOwn, true)] →
    ∀ (e : Enc) (s s1 : State), accept (row e) s = some s1 →
    let a := s1.my.getS e.sa.idx.toNat
    let len := (s1.my.getS e.sb.idx.toNat).toNat
    let hit (x : Tlb) : Bool :=
      x.own == own && x.tag == s1.tlbTag (clusterOf s1.curT) own && x.inScope s1.curT e.gs.toNat &&
      pageCovered a len (if x.big then x.vpage * 2 ^ 29 else x.vpage * 2 ^ 16) (if x.big then 2 ^ 29 else 2 ^ 16)
    let s2 := if len = 0 then s1 else s1.performScope s1.curT e.gs.toNat
    let b := s1.my.getS e.sb.idx.toNat
    (len ≠ 0 → s1.translating s1.curT own e.gs.toNat a b = true →
      exec (row e) s = .next (s.block s.curT s.curX (.translated own e.gs.toNat a b))) ∧
    ((len = 0 ∨ s1.translating s1.curT own e.gs.toNat a b = false) → exec (row e) s = .next (({ s2 with tlb := s2.tlb.filter fun x => !hit x } : State).updMy Strand.advance))) ∧
  WritesResult .tprobeCtx true (fun e s => [.s e.da.idx.toNat (probeWord (s.probe s.curT false (s.my.getS e.sa.idx.toNat)))]) ∧
  WritesResult .tprobeOwn true (fun e s => [.s e.da.idx.toNat (probeWord (s.probe s.curT true (s.my.getS e.sa.idx.toNat)))])

/-- R39, R40: a long operation whose results are known completes once no earlier one has pushes of the same queue to
make: its destination registers receive its results, or its fault is raised, and it is no longer outstanding. -/
def Obligations.LongCompletion : Prop :=
  ∀ (t : Nat) (x : Side) (id : Nat) (s : State) (o : LongOp),
    (s.strand t x).pend.find? (fun o => o.id == id) = some o → o.ready = true →
    let rest := (s.strand t x).pend.filter fun p => p.id != id
    let th := (s.thread t).writeAll x o.writes
    exec (.longOpComplete t x id) s = .next (
      if pushWaits (s.strand t x).pend id then s
      else match o.fault with
        | some i => (s.updStrand t x fun st => { st with pend := rest }).raiseAt t x ⟨o.id, o.pc, i⟩
        | none => s.setThread t (th.setStrand x { th.strand x with pend := rest }))

/-- R325: a trap routed to the user vector is delivered in one step once R41 permits: `%uepc`, `%ucause` and `%uinfo`
are written, UH is 1 and the PC is `%uvec`; registers, queues and the level are otherwise unchanged, but that a
token's record moves into the trap (R290) and a region entry whose cause is delivered is ABSENT (R305); `uret` sets the PC to `%uepc` and UH to 0, whatever UH holds. -/
def Obligations.UserTrapEntry : Prop :=
  (∀ (s : State) (p : PendTrap), (s.strand s.curT s.curX).trap = some p → s.trapReady s.curT s.curX = true →
    s.trapToUser s.curT s.curX p.info = true → s.me.recordHeld p.info = true →
    ∃ t : State, exec .userTrapEntry s = .next t ∧
      t.my.uepc = p.pc ∧ t.my.ucause = p.info.causeWord s.curX false false ∧ t.my.uinfo = p.pc ∧ t.my.uh = true ∧
      t.my.pc = s.me.uvec ∧ t.my.status = .ready ∧ t.my.trap = none ∧
      (∀ n, p.info.origin = some (.token n) → (t.me.getTok n).fault = none) ∧ t.my.s = s.my.s ∧ t.my.p = s.my.p ∧ t.me.v = s.me.v ∧ t.me.q = s.me.q ∧
      t.my.sup = s.my.sup ∧ t.my.fps = s.my.fps ∧ t.my.prog = s.my.prog ∧
      (∀ x, x ≠ s.curX → t.me.strand x = s.me.strand x) ∧ (∀ k, k ≠ s.curT → t.thread k = s.thread k) ∧
      (p.info.regionOf s.me = none → { t with threads := s.threads } = s) ∧
      { t with threads := s.threads, clusters := s.clusters } = s) ∧
  (∀ (e : Enc) (s s1 : State), accept (.uret e) s = some s1 →
    exec (.uret e) s = .next (s1.updMy fun st =>
      { st.count with pc := st.uepc, uh := false, status := .ready, flight := none }))

/-- R326: a trap routed to the supervisor writes `%sepc`, `%scause` with PL and PUH from the strand, and `%sinfo`; the
level is supervisor, UH is 0 and the PC is `%svec`, from supervisor level too; while `%svec` is 0 the strand halts
permanently and the device records the event; `sret` restores the PC, the level and UH. -/
def Obligations.SupervisorTrapEntry : Prop :=
  (∀ (s : State) (p : PendTrap), (s.strand s.curT s.curX).trap = some p → s.trapReady s.curT s.curX = true →
    s.trapToUser s.curT s.curX p.info = false → s.me.recordHeld p.info = true →
    let svec := (s.cluster (clusterOf s.curT)).svec
    ∃ t : State, exec .supervisorTrapEntry s = .next t ∧
      (svec ≠ 0 →
        t.my.sepc = p.pc ∧ t.my.scause = p.info.causeWord s.curX s.my.uh s.my.sup ∧
        t.my.scause.getLsbD 9 = s.my.sup ∧ t.my.scause.getLsbD 10 = s.my.uh ∧ t.my.sinfo = p.pc ∧
        t.my.sup = true ∧ t.my.uh = false ∧ t.my.pc = svec ∧ t.my.status = .ready ∧ t.my.s = s.my.s ∧ t.my.p = s.my.p ∧
        t.me.v = s.me.v ∧ t.me.q = s.me.q ∧ t.devices = s.devices) ∧
      (svec = 0 → t.my.status = .dead ∧
        (t.device (deviceOf s.curT)).haltCount = (s.device (deviceOf s.curT)).haltCount + 1)) ∧
  (∀ (e : Enc) (s s1 : State), accept (.sret e) s = some s1 →
    exec (.sret e) s = .next (s1.updMy fun st =>
      { st.count with pc := st.sepc, sup := st.scause.getLsbD 9, uh := st.scause.getLsbD 10, status := .ready, flight := none }))
/-- R357 to R359: the optical circuit commands and events: a FREE entry with good fields and unused wavelengths tunes,
one with bad fields or a wavelength in use is FAULT, tuning ends LIVE or FAULT, DRAIN and RELEASE take their steps,
and a drained circuit is FREE once nothing travels on it. -/
def Obligations.CircuitRows : Prop :=
  (∀ (die n : Nat) (s : State), (s.circuit die n).state = .free →
    let c := s.circuit die n
    let bad := c.src.toNat ≠ die % 4 ∨ c.dst = c.src ∨ c.cxw = 0 ∨ c.tcls = 0
    (bad → exec (.establish die n) s = .next (s.setCircuit die n { c with state := .fault, cause := 2 })) ∧
    (¬bad → s.waveUsed die c.cxw = true →
      exec (.establish die n) s = .next (s.setCircuit die n { c with state := .fault, cause := 1 })) ∧
    (¬bad → s.waveUsed die c.cxw = false → 
      exec (.establish die n) s = .next (s.setCircuit die n { c with state := .tuning }).noteBounds)) ∧
  (∀ (die n : Nat) (s : State), ((s.circuit die n).state = .tuning ∨ (s.circuit die n).state = .live) →
    exec (.cxcDrain die n) s = .next (s.setCircuit die n { s.circuit die n with state := .draining }).noteBounds) ∧
  (∀ (die n : Nat) (s : State), (s.circuit die n).state = .fault →
    exec (.cxcRelease die n) s = .next (s.setCircuit die n { s.circuit die n with state := .free, cause := 0 })) ∧
  (∀ (die n : Nat) (ok : Bool) (s : State), (s.circuit die n).state = .tuning →
    exec (.circuitTuningDone die n ok) s = .next (s.setCircuit die n
      (if ok then { s.circuit die n with state := .live } else { s.circuit die n with state := .fault, cause := 3 })).noteBounds) ∧
  (∀ (die n : Nat) (s : State), (s.circuit die n).state = .draining → s.onCircuit die n = false →
    exec (.circuitDrainDone die n) s = .next (s.setCircuit die n { s.circuit die n with state := .free }))

/-- R360, R361: a table fence starts for the next generation only, and once no older request is outstanding the new
generation, the written table entries, a rewritten membership and a rewritten interleave table are in use; a request that bounces is presented again under the
generation that its receiver steers by (log 65). -/
def Obligations.TableFenceRows : Prop :=
  (∀ (d : Nat) (g : BitVec 8) (s : State), (s.device d).fenceBusy = false → g = (s.device d).tableGen + 1 →
    exec (.tfence d g) s = .next (s.setDevice d { s.device d with tableNext := g, fenceBusy := true, fenceDone := false })) ∧
  (∀ (d : Nat) (g : BitVec 8) (s : State), ((s.device d).fenceBusy = true ∨ g ≠ (s.device d).tableGen + 1) →
    exec (.tfence d g) s = .next s) ∧
  (∀ (s : State), ((s.device s.actor).fenceBusy = false ∨ s.olderOut s.actor (s.device s.actor).tableNext = true) →
    exec .tableFenceComplete s = .next s) ∧
  (∀ (s : State), (s.device s.actor).fenceBusy = true → s.olderOut s.actor (s.device s.actor).tableNext = false →
    let dv := s.device s.actor
    let s1 := s.setDevice s.actor { dv with
      tableGen := dv.tableNext, fenceBusy := false, fenceDone := true
      members := dv.nextMembers.getD dv.members, nextMembers := none, retiring := none
      routing := dv.shadow.foldl (fun l p => tset l p.1 p.2) dv.routing, shadow := [] }
    (dv.retiring = none → exec .tableFenceComplete s = .next s1.noteBounds) ∧
    (∀ c ch, dv.retiring = some (c, ch) → exec .tableFenceComplete s = .next (s1.retireChannel c ch).noteBounds)) ∧
  (∀ (s : State) (f : Flight), (s.strand s.curT s.curX).flight = some f → f.phase = .bounced →
    exec .requestBounce s = .next (s.setFlight s.curT s.curX { f with phase := .atLink (s.elapsedOf (deviceOf s.curT))
                                                                      bounces := f.bounces + 1, gen := s.steerGen (f.die / 4) }).noteBounds)

/-- R4, R354 to R356, R359, R366, R369, R370: what each step of a request and of its packet does, in every state in which the
strand or packet stands as the step needs it: admission to the first link, UNMAPPED without a routing entry, refusal without a
path, a key (R383, log 68) or a grant in time, the next link, delivery in order and acknowledgement, drop notices and
retransmission, the answer that comes in a packet of its own, which waits at its source for a path (log 15), and HOME_FENCED
when an answer does not come within eight bounds (the bounds are those of log 89); a step without its strand's request or its
packet changes nothing. That packets within a device are acknowledged and kept as well is log 67. -/
def Obligations.PacketRows : Prop :=
  (∀ (s : State) (f : Flight) (n : Nat), (s.strand s.curT s.curX).flight = some f → f.phase = .atLink n →
    let src := dieOf s.curT
    let d := src / 4
    let e := f.die / 4
    let part := s.partOf s.curT
    let cargo := f.cargo s.curT s.curX
    let port := if d = e then none else s.portTo d (s.intermediate d e f.cls)
    let turned : Prop := n + grantLimit < s.elapsedOf d ∨ s.reaches src f.die f.cls = false ∨
      (port.any fun p => !s.keyed (portLink d p) part) = true
    let r := s.form src f.die f.cls part f.gen cargo
    (d ≠ e → s.minPort d e = none → exec .linkAdmission s = .next (s.unreachable s.curT s.curX f)) ∧
    (d = e ∨ s.minPort d e ≠ none → turned → exec .linkAdmission s = .next (s.setPhase s.curT s.curX .refused)) ∧
    (d = e ∨ s.minPort d e ≠ none → ¬turned → s.canGrant (outLink src) f.cls (cargo.flits f.cls) = false →
      exec .linkAdmission s = .next s) ∧
    (∀ l c, d = e ∨ s.minPort d e ≠ none → ¬turned → s.canGrant (outLink src) f.cls (cargo.flits f.cls) = true →
      r.2.legFrom src r.1 = some (l, c) →
      exec .linkAdmission s = .next ((r.2.enterLink r.1 l c).admitted s.curT s.curX f r.1.id))) ∧
  (∀ (s : State) (f : Flight) (n : Nat), (s.strand s.curT s.curX).flight = some f → f.phase = .atLink n →
    exec .permitGrantTimeout s = .next
      (if n + grantLimit ≤ s.elapsedOf (deviceOf s.curT) then s.setPhase s.curT s.curX .refused else s)) ∧
  (∀ (n chk : Nat) (s : State) (p : Packet), s.packet n = some p → p.copy = .moving → p.atEnd = false →
    (p.link = none → exec (.packetForward n chk) s = .next (s.hop { p with sent := s.cycleOf (p.src / 4) })) ∧
    (∀ l, p.link = some l →
      (s.crosses l = false → exec (.packetForward n chk) s = .next s) ∧
      (s.crosses l = true → (p.bad = true ∨ s.keyTaken l p.part p.key = false) →
        exec (.packetForward n chk) s = .next (s.loseCopy p l .noticed)) ∧
      (s.crosses l = true → p.bad = false → s.keyTaken l p.part p.key = true →
        (chk = 0 → exec (.packetForward n chk) s = .next (s.hop p)) ∧
        (chk = 1 → exec (.packetForward n chk) s = .next (s.loseCopy p l .noticed)) ∧
        (chk = 2 → exec (.packetForward n chk) s = .next (s.loseCopy p l .lost)) ∧
        (∀ m c, 3 ≤ chk → s.nextLeg p = some (m, c) → s.takes m p.cls p.flits p.part = true →
          exec (.packetForward n chk) s = .next ((s.countDrop l).enterLink { p with via := s.passes p, bad := true } m c))))) ∧
  (∀ (s : State) (p : Packet),
    (∀ l c, s.nextLeg p = some (l, c) → s.takes l p.cls p.flits p.part = true →
      s.hop p = s.enterLink { p with via := s.passes p } l c) ∧
    (∀ l c, s.nextLeg p = some (l, c) → s.takes l p.cls p.flits p.part = false → s.hop p = s) ∧
    (s.nextLeg p = none → s.hop p = s)) ∧
  (∀ (n : Nat) (ok : Bool) (s : State) (p : Packet), s.packet n = some p → p.copy = .moving → p.atEnd = true →
    let t := (s.leaveLink p).setPacket { p with copy := .accepted, taken := true, link := none }
    (ok = false ∨ p.bad = true → exec (.packetDelivery n ok) s = .next (s.loseCopy p (inLink p.dst) .noticed)) ∧
    (ok = true → p.bad = false → p.taken = true → exec (.packetDelivery n ok) s = .next t) ∧
    (ok = true → p.bad = false → p.taken = false → inOrder p.cls = true → s.earlier p = true →
      exec (.packetDelivery n ok) s = .next s) ∧
    (ok = true → p.bad = false → p.taken = false → (inOrder p.cls = false ∨ s.earlier p = false) →
      exec (.packetDelivery n ok) s = .next (t.consume p))) ∧
  (∀ (s : State) (t : Nat) (x : Side) (die : Nat) (r : Reply),
    (crossesLink t die = false → s.reply t x die r = s.applyReply t x r) ∧
    (crossesLink t die = true →
      let p := s.post die (dieOf t) 1 (s.partOf t) (.reply t x r)
      s.reply t x die r = p.2.updStrand t x fun st => { st with
        status := .waiting .answer
        flight := st.flight.map fun f => { f with
          phase := .answering p.1, since := if st.status = .waiting .answer then f.since else s.now t } })) ∧
  (∀ (s : State) (p : Packet), s.packet s.actor = some p →
    exec .packetAck s = .next (if p.copy = .accepted then s.dropPacket s.actor else s)) ∧
  (∀ (s : State) (p : Packet), s.packet s.actor = some p →
    exec .dropNotice s = .next (if p.copy = .noticed then s.resend p else s)) ∧
  (∀ (s : State) (p : Packet), s.packet s.actor = some p →
    exec .packetRetransmitTimeout s = .next (
      if p.sent + 8000 ≤ s.cycleOf (p.src / 4) ∧ ¬(p.copy = .moving ∧ p.link = none) then s.resend p else s)) ∧
  (∀ (s : State) (f : Flight), (s.strand s.curT s.curX).flight = some f →
    (s.strand s.curT s.curX).pend.filter (s.lateOp s.curT) = [] →
    exec .requestAnswerTimeout s = .next (
      if (s.strand s.curT s.curX).awaits f = true ∧ crossesLink s.curT f.die = true ∧
        f.since + 8 * max f.bound (s.boundNow s.curT f) ≤ s.now s.curT then
        (((s.forgetReply s.curT s.curX).dropAllocated f.req).report (deviceOf s.curT)).raise s.curT s.curX
          (TrapInfo.plain .homeFenced) else s)) ∧
  (∀ (s : State) (o : LongOp), (s.strand s.curT s.curX).flight = none →
    (s.strand s.curT s.curX).pend.filter (s.lateOp s.curT) = [o] →
    exec .requestAnswerTimeout s = .next ((s.fenceOp s.curT s.curX o).report (deviceOf s.curT))) ∧
  (∀ (s : State), (s.strand s.curT s.curX).flight = none → (s.strand s.curT s.curX).pend.filter (s.lateOp s.curT) = [] →
    exec .requestAnswerTimeout s = .next s) ∧
  (∀ i ∈ [Instr.linkAdmission, .permitGrantTimeout], ∀ s : State,
    (s.strand s.curT s.curX).flight = none → exec i s = .next s) ∧
  (∀ i ∈ [Instr.packetAck, .dropNotice, .packetRetransmitTimeout], ∀ s : State,
    s.packet s.actor = none → exec i s = .next s)

/-- R368, R371: a link direction sends the flits of its replay buffer again from the number that its receiver asks for, a port
counts the replay, and a number that the buffer does not hold changes nothing; a port that loses a lane falls to the next
narrower mode and replays the flits in flight; it ends its training in the mode that training reached. -/
def Obligations.PortRows : Prop :=
  (∀ (s : State), ((s.linkBuf s.actor).flits.any fun f => f.num == BitVec.ofNat 12 s.item) = false →
    exec .linkReplay s = .next s) ∧
  (∀ (s : State), s.actor < 2 ^ 20 → ((s.linkBuf s.actor).flits.any fun f => f.num == BitVec.ofNat 12 s.item) = true →
    exec .linkReplay s = .next (s.replayFlits s.actor (BitVec.ofNat 12 s.item))) ∧
  (∀ (s : State) (d port : Nat), port < 36 → s.actor = portLink d port →
    ((s.linkBuf s.actor).flits.any fun f => f.num == BitVec.ofNat 12 s.item) = true →
    let t := s.replayFlits s.actor (BitVec.ofNat 12 s.item)
    exec .linkReplay s = .next (t.setPort d port { t.port d port with replays := (t.port d port).replays + 1 })) ∧
  (∀ (d port : Nat) (s : State),
    let t := s.setPort d port { s.port d port with mode := min 4 ((s.port d port).mode + 1) }
    ((t.linkBuf (portLink d port)).flits = [] → exec (.laneFailure d port) s = .next t.noteBounds) ∧
    (∀ f r, (t.linkBuf (portLink d port)).flits = f :: r →
      exec (.laneFailure d port) s = .next (t.replayLink (portLink d port) f.num).noteBounds)) ∧
  (∀ (d port mode : Nat) (s : State), (s.port d port).training = true →
    exec (.portTrainingComplete d port mode) s =
      .next (s.setPort d port { s.port d port with mode := min 4 mode, training := false }).noteBounds) ∧
  (∀ (d port mode : Nat) (s : State), (s.port d port).training = false →
    exec (.portTrainingComplete d port mode) s = .next s)

/-- R374 to R378, R391, R396: what the host reads and writes. Lent memory is read and written whole, host memory too, a write of
which becomes visible to the device; a register write at an unaligned offset, at one that the writer does not reach, or at one
without a writable register is ignored, and any other has its register's effect: PWRLIM within its limits, the mailbox's request
while no command runs, DOORBELL, TFENCE, a routing entry's shadow copy, and a circuit's fields and command. -/
def Obligations.HostAccesses : Prop :=
  (∀ (d pa : Nat) (data : List Byte) (s : State), s.lentRange d pa data.length = true →
    let c := d * 128 + hbmCluster pa
    let s1 := ((List.range ((pa + data.length + 7) / 8 - pa / 8)).map (pa / 8 + ·)).foldl
      (fun s w => s.recordRel (physKey d (8 * w)) [s.hostRelease]) s
    exec (.hostMemWrite d pa data) s =
      .next (s1.physWrite d pa data (s1.cluster c).part.toNat (s1.dedupScope c false) (s1.ctxOf c))) ∧
  (∀ (d pa len : Nat) (s : State), (s.lentRange d pa len = true ∨ hostRange pa len = true) →
    exec (.hostMemRead d pa len) s = .next (s.updDevice d fun dv => { dv with hostData := s.hostBytes d pa len })) ∧
  (∀ (d pa len : Nat) (s : State), hostRange pa len = false → s.hostBytes d pa len = s.physRead d pa len) ∧
  (∀ (d pa : Nat) (data : List Byte) (s : State), hostRange pa data.length = true →
    let key := physKey d pa
    let s1 := s.forgetRange key data.length
    let s2 := (s1.rind.filter fun r => decide (r.line * 64 < key + data.length) && decide (key < r.line * 64 + 64)).foldl
      (fun s r => s.invalidRind r.slice r.line) s1
    exec (.hostMemoryWrite d pa data) s = .next { (s2.clearPoison key data.length) with mem := memWrite s2.mem key data }) ∧
  (∀ (d pa : Nat) (data : List Byte) (s : State), s.lentRange d pa data.length = false →
    exec (.hostMemWrite d pa data) s = .next s) ∧
  (∀ (d pa len : Nat) (s : State), s.lentRange d pa len = false → hostRange pa len = false →
    exec (.hostMemRead d pa len) s = .next s) ∧
  (∀ (d ofs : Nat) (v : Word) (s : State),
    (ofs % 8 ≠ 0 ∨ (s.item ≠ 1 ∧ (0x20000 ≤ ofs ∨ (s.device d).stage ≤ 5))) → exec (.registerWrite d ofs v) s = .next s) ∧
  (∀ (d ofs : Nat) (v : Word) (s : State), ofs % 8 = 0 → (s.item = 1 ∨ (ofs < 0x20000 ∧ 5 < (s.device d).stage)) →
    let dv := s.device d
    let is (t : State) : Prop := exec (.registerWrite d ofs v) s = .next t
    (ofs = 0x10 → 300 ≤ (v.extractLsb' 0 12).toNat → (v.extractLsb' 0 12).toNat ≤ 1700 →
      is (s.setDevice d { dv with pwrlim := v.extractLsb' 0 12 })) ∧
    (ofs = 0x10 → ((v.extractLsb' 0 12).toNat < 300 ∨ 1700 < (v.extractLsb' 0 12).toNat) → is s) ∧
    (0x10000 ≤ ofs → ofs < 0x10040 → dv.doorbell = false →
      is (s.setDevice d { dv with request := dv.request.set ((ofs - 0x10000) / 8) v })) ∧
    (0x10000 ≤ ofs → ofs < 0x10040 → dv.doorbell = true → is s) ∧
    (ofs = 0x10080 → (dv.doorbell = true ∨ v ≠ 1) → is s) ∧
    (ofs = 0x10080 → dv.doorbell = false → v = 1 → commandCodes.contains ((dv.req 0).extractLsb' 0 8).toNat = true →
      is (s.setDevice d { dv with doorbell := true })) ∧
    (ofs = 0x10080 → dv.doorbell = false → v = 1 → commandCodes.contains ((dv.req 0).extractLsb' 0 8).toNat = false →
      is (s.answer d 1 [])) ∧
    (ofs = 0x20000 → dv.fenceBusy = false → v = (dv.tableGen + 1).setWidth 64 →
      is (s.setDevice d { dv with tableNext := dv.tableGen + 1, fenceBusy := true, fenceDone := false })) ∧
    (ofs = 0x20000 → (dv.fenceBusy = true ∨ v ≠ (dv.tableGen + 1).setWidth 64) → is s) ∧
    (0x24000 ≤ ofs → ofs < 0x28000 →
      is (s.setDevice d { dv with shadow := tset dv.shadow ((ofs - 0x24000) / 8) (v &&& 0xBF) })) ∧
    (∀ i n, i < 4 → n < 64 →
      let die := d * 4 + i
      let c := s.circuit die n
      let s1 := if c.state = .free then s.setCircuit die n
        { c with tcls := v.extractLsb' 8 6, dst := v.extractLsb' 2 2, src := v.extractLsb' 0 2 } else s
      (ofs = 0x101000 + 0x10000 * i + 16 * n →
        ((v.extractLsb' 20 4 = 1 → is (s1.establish die n)) ∧ (v.extractLsb' 20 4 = 2 → is (s1.cxcDrain die n)) ∧
         (v.extractLsb' 20 4 = 3 → is (s1.cxcRelease die n)) ∧
         ((v.extractLsb' 20 4 = 0 ∨ 3 < (v.extractLsb' 20 4).toNat) → is s1))) ∧
      (ofs = 0x101008 + 0x10000 * i + 16 * n → c.state = .free → is (s.setCircuit die n { c with cxw := v })) ∧
      (ofs = 0x101008 + 0x10000 * i + 16 * n → c.state ≠ .free → is s)) ∧
    (ofs ≠ 0x10 → (ofs < 0x10000 ∨ 0x10040 ≤ ofs) → ofs ≠ 0x10080 → ofs ≠ 0x20000 → (ofs < 0x24000 ∨ 0x28000 ≤ ofs) →
      (ofs < 0x100000 ∨ 0x140000 ≤ ofs ∨ ofs % 0x10000 < 0x1000 ∨ 0x1400 ≤ ofs % 0x10000) → is s)) ∧
  (∀ (s : State), exec .pldmMonitor s = .next (s.updDevice s.actor fun dv =>
    { dv with hostData := leBytes 8 (s.deviceBlock s.actor 0x18).toNat ++ leBytes 8 (s.deviceBlock s.actor 0x20).toNat }))

/-- R101, R380, R386 to R392: a mailbox command is carried out while its doorbell is set and no load is in progress, and
only then; RESET and ONLINE act on the clusters that R385 and R386 allow, the model's reading of their conditions being log 70;
the last 64 bytes of a FWUPDATE image are its signature (log 29); retraining windows open and close; a staged firmware version becomes the running one when its block is
quiescent; LOAD checks its arguments and starts, and a load in progress continues. -/
def Obligations.ManagementCommands : Prop :=
  (∀ (i : Instr) (code : Nat) (f : State → Nat → State), (i, code, f) ∈
      [(Instr.partcreate, 0x01, fun s d => s.partcreate d), (.partdestroy, 0x02, fun s d => s.partdestroy d),
       (.rekey, 0x03, fun s d => s.rekey d), (.drain, 0x20, fun s d => s.drainCluster d),
       (.chretire, 0x23, fun s d => s.chretire d), (.retrain, 0x24, fun s d => s.retrain d)] →
    ∀ s : State, (s.commanded s.actor code = true → exec i s = .next (f s s.actor)) ∧
      (s.commanded s.actor code = false → exec i s = .next s)) ∧
  (∀ (i : Instr) (code : Nat), (i, code) ∈ [(Instr.online, 0x21), (.resetCluster, 0x22), (.fwupdate, 0x30)] →
    ∀ s : State, s.commanded s.actor code = false → exec i s = .next s) ∧
  (∀ (s : State), (s.device s.actor).loading = none → (s.device s.actor).doorbell = false → exec .loadImage s = .next s) ∧
  (∀ (s : State) (c : Nat), s.commanded s.actor 0x21 = true → s.reqCluster s.actor = some c →
    (s.cluster c).service = .offline →
    exec .online s = .next ((s.updCluster c fun cl => { cl with service := .inService, run := .empty }).answer s.actor 0 [])) ∧
  (∀ (s : State) (c : Nat), s.commanded s.actor 0x22 = true → s.reqCluster s.actor = some c →
    (s.fencedCluster c = true ∨ (s.userThreads c).isEmpty = true) →
    let n := (s.device s.actor).reqPart
    let lent := (s.reqPartition s.actor).any fun p => p.lent.getLsbD (c % 128)
    let s1 := s.resetCluster c
    (lent = true → (s.reqPartition s.actor).any Partition.locked = true →
      exec .resetCluster s = .next (s.answer s.actor 2 [])) ∧
    (lent = true → (s.reqPartition s.actor).any Partition.locked = false → exec .resetCluster s =
      .next (({ s1 with partitions := s1.partitions.map fun p =>
        if p.1 = n then (p.1, { p.2 with lent := p.2.lent &&& ~~~(1#128 <<< (c % 128)) }) else p } : State).answer s.actor 0 [])) ∧
    (lent = false → exec .resetCluster s = .next (s1.answer s.actor 0 []))) ∧
  (∀ (s : State), s.commanded s.actor 0x30 = true → blockOk ((s.device s.actor).req 1).toNat = true →
    let dv := s.device s.actor
    let len := (dv.req 3).toNat
    let bytes := s.physRead s.actor (dv.req 2).toNat len
    let r := s.stage s.actor (dv.req 1).toNat (bytes.take (len - 64)) (bytes.drop (len - 64))
    exec .fwupdate s = .next (r.2.answer s.actor r.1 [])) ∧
  (∀ (d blk : Nat) (image sig : List Byte) (s : State),
    let r := s.stage d blk image sig
    exec (.pldmFwUpdate d blk image sig) s = .next (r.2.updDevice d fun dv => { dv with hostData := [BitVec.ofNat 8 r.1] })) ∧
  (∀ (d blk : Nat) (s : State) (v : Nat) (g : BitVec 256), (s.fwBlock d blk).staged = some (v, g) →
    s.quiescent d blk = true → exec (.firmwareActivate d blk) s =
      .next (s.setFwBlock d blk { s.fwBlock d blk with version := v, digest := g, staged := none })) ∧
  (∀ (die ch : Nat) (s : State) (r : Retrain), tget (s.device (die / 4)).retrain (die % 4 * 192 + ch) = some r →
    r.open_ = true → exec (.retrainWindowEnd die ch) s = .next (s.setWindow die ch ⟨false, r.since⟩)) ∧
  (∀ (die ch : Nat) (s : State) (r : Retrain), tget (s.device (die / 4)).retrain (die % 4 * 192 + ch) = some r →
    r.isOpen (s.device (die / 4)) = false → r.ready (s.device (die / 4)) = true →
    exec (.retrainWindowStart die ch) s = .next (s.setWindow die ch ⟨true, (s.device (die / 4)).elapsed⟩)) ∧
  (∀ (s : State) (l : Loading), (s.device s.actor).loading = some l →
    exec .loadImage s = .next (s.continueLoad s.actor l)) ∧
  (∀ (s : State) (p : Partition), (s.device s.actor).loading = none → (s.device s.actor).doorbell = true →
    let dv := s.device s.actor
    (dv.req 0).extractLsb' 0 8 = 0x10 → tget s.partitions dv.reqPart = some p → p.device = s.actor →
    let n := (dv.req 4).toNat
    let pa := (dv.req 1).toNat
    let len := (dv.req 2).toNat
    let f : Image := ⟨s.physRead s.actor pa len⟩
    n ≠ 0 → n ≤ 128 → p.covers pa len = true → p.covers (dv.req 3).toNat n = true → p.covers (dv.req 5).toNat 8 = true →
    p.covers (dv.req 5).toNat (8 * f.count 6) = true →
    exec .loadImage s = .next (s.startLoad s.actor p f
      ((s.physRead s.actor (dv.req 3).toNat n).map fun b => s.actor * 128 + b.toNat) (dv.req 5).toNat))

/-- R382, R383: the SPDM requests take effect in their order (version, capabilities, algorithms, then the rest), which is that of
SPDM 1.3, and are answered with an error out of it; a session starts with its key exchange, is usable once its FINISH verifies,
changes key generation on KEY_UPDATE and ends. That a device has one session, which KEY_EXCHANGE replaces, is the model's choice
(log 74), and so are the forms on the wire (log 9). -/
def Obligations.AttestationRows : Prop :=
  (∀ s : State, exec .getVersion s = .next (s.respond s.actor
    { Spdm.zero with version := true, keyGen := (s.spdm s.actor).keyGen } (Config.spdmWire 4 [0x1300]))) ∧
  (∀ s : State, (s.spdm s.actor).version = true → exec .getCapabilities s = .next (s.respond s.actor
    { s.spdm s.actor with caps := true } (Config.spdmWire 97 []))) ∧
  (∀ (d alg : Nat) (s : State), (s.spdm d).caps = true → (alg = 1 ∨ alg = 2) →
    exec (.negotiateAlgorithms d alg) s = .next (s.respond d { s.spdm d with alg := alg } (Config.spdmWire 99 [alg]))) ∧
  (∀ s : State, (s.spdm s.actor).alg ≠ 0 → exec .getDigests s = .next (s.respond s.actor (s.spdm s.actor)
    (if (s.spdm s.actor).alg = 2 then sha384 (Config.certificate 0) else beBytes 32 (sha256 (Config.certificate 0)).toNat))) ∧
  (∀ (d ofs len : Nat) (s : State), (s.spdm d).alg ≠ 0 → exec (.getCertificate d 0 ofs len) s =
    .next (s.respond d (s.spdm d) (((Config.certificate 0).drop ofs).take len))) ∧
  (∀ (d : Nat) (nonce : BitVec 256) (s : State), (s.spdm d).alg ≠ 0 → exec (.challenge d 0 nonce) s =
    .next (s.respond d (s.spdm d) (Config.sign (s.spdm d).alg
      ((if (s.spdm d).alg = 2 then sha384 (Config.certificate 0) else beBytes 32 (sha256 (Config.certificate 0)).toNat) ++
        leBytes 32 nonce.toNat)))) ∧
  (∀ (d idx : Nat) (nonce : BitVec 256) (s : State), (s.spdm d).alg ≠ 0 → 1 ≤ idx → idx ≤ 6 →
    let body := beBytes 32 (s.measurement d idx).toNat
    exec (.getMeasurements d idx nonce) s = .next (s.respond d (s.spdm d)
      (body ++ Config.sign (s.spdm d).alg (body ++ leBytes 32 nonce.toNat)))) ∧
  (∀ (d : Nat) (pub : BitVec 512) (s : State), (s.spdm d).alg ≠ 0 → exec (.keyExchange d 0 pub) s =
    .next (({ s with nextId := s.nextId + 1 } : State).respond d { s.spdm d with session := some s.nextId, finished := false }
      (Config.sign (s.spdm d).alg (leBytes 64 pub.toNat)))) ∧
  (∀ (d n : Nat) (s : State), (s.spdm d).session = some n → exec (.finish d 0 (Config.finishMac n)) s =
    .next (s.respond d { s.spdm d with finished := true } (Config.spdmWire 101 [n]))) ∧
  (∀ (d : Nat) (s : State), (s.spdm d).finished = true → exec (.keyUpdate d 0) s =
    .next (s.respond d { s.spdm d with keyGen := (s.spdm d).keyGen + 1 } (Config.spdmWire 105 [(s.spdm d).keyGen + 1]))) ∧
  (∀ s : State, (s.spdm s.actor).finished = true → exec .endSession s = .next (s.respond s.actor
    { s.spdm s.actor with session := none, finished := false } (Config.spdmWire 108 []))) ∧
  (∀ (d slot ofs len : Nat) (s : State), ((s.spdm d).alg = 0 ∨ slot ≠ 0) →
    exec (.getCertificate d slot ofs len) s = .next (s.spdmError d))

/-- R380, R381: a partition's TDISP interface is locked, started and stopped in that order; stopping it tears the
partition down, saved contexts too, and returns the interface to CONFIG_UNLOCKED, both of which are the model's reading
(log 73). -/
def Obligations.TdispRows : Prop :=
  (∀ (d part : Nat) (s : State) (p : Partition), tget s.partitions part = some p → p.device = d → p.tdisp = .unlocked →
    exec (.tdispLock d part) s = .next (s.setTdisp part p .locked)) ∧
  (∀ (d part : Nat) (s : State) (p : Partition), tget s.partitions part = some p → p.device = d → p.tdisp = .locked →
    exec (.tdispStart d part) s = .next (s.setTdisp part p .run)) ∧
  (∀ (d part : Nat) (err : Bool) (s : State) (p : Partition), tget s.partitions part = some p → p.device = d →
    exec (.tdispStop d part err) s = .next ((s.tearPartition p).setTdisp part p (if err then .error else .unlocked))) ∧
  (∀ (d part : Nat) (s : State) (p : Partition), tget s.partitions part = some p → p.tdisp ≠ .locked →
    exec (.tdispStart d part) s = .next s)

/-- R7, R17, R361 to R363, R384, R385, R393 to R395: corrected errors are counted, uncorrectable ones poison what they hit or take
a cluster out of service (the arguments of the error events are the model's, log 79), a cluster that fails is fenced, and with
corrupt die control state every cluster of the die, the cluster's queues of jobs and its fired actions emptied (the model's
choice, log 113); the clock follows power and temperature, heat holding it (log 77), the hottest die shuts its device down, which
keeps its counters (log 102), a device resets, outside a pod as number 0 (log 114), a bring-up stage that is late fails, and the
pod manager sets number, prime, members and time at stage 6 alone, rewriting the membership later by a table fence (log 76). -/
def Obligations.ServiceEvents : Prop :=
  (∀ (d blk : Nat) (s : State),
    let bump (l : List (Nat × BitVec 32)) (n : Nat) : List (Nat × BitVec 32) := tset l n (satInc ((tget l n).getD 0))
    exec (.correctedError d blk) s = .next (
      if blk < 128 then s.updCluster (d * 128 + blk) fun cl => { cl with sramErr := satInc cl.sramErr }
      else if blk < 256 then s.updDevice d fun dv => { dv with sliceErr := bump dv.sliceErr (blk - 128) }
      else s.updDevice d fun dv => { dv with chanErr := bump dv.chanErr (blk - 256) })) ∧
  (∀ (s : State), s.item = 0 → isSram s.actor = true → exec .uncorrectableError s = .next (s.setPoison s.actor)) ∧
  (∀ (s : State), s.item = 0 → isSram s.actor = false → exec .uncorrectableError s =
    .next ((List.range 8).foldl (fun r i => r.setPoison (s.actor / 64 * 64 + 8 * i)) s)) ∧
  (∀ (s : State), s.item = 1 → exec .uncorrectableError s = .next (
    if isSram s.actor && sramUnit s.actor == 8 then s.takeOut (sramCluster s.actor) else s)) ∧
  (∀ (s : State) (k : Nat), s.item = k + 2 → exec .uncorrectableError s = .next
    { s with l1 := s.l1.map fun l => if l.core = k ∧ l.line = s.actor / 64 then { l with psn := true } else l }) ∧
  (∀ (s : State) (c : Nat),
    let s1 := s.updCluster c fun cl => { cl with
      service := .fenced, run := if cl.run = .running then .halted else cl.run, copyQ := [], msQ := [], actions := []
      arrivals := [] }
    let s2 := (s.watches.filter fun p => p.2.held && watchHome p.2.key == c).foldl
      (fun s p => s.answerWatch p.1 p.2 0 true) s1
    let s3 : State := { s2 with waiters := s2.waiters.filter fun w => sramCluster w.key != c }
    let s4 := (s.waiters.filter fun w => sramCluster w.key == c && clusterOf w.t != c).foldl
      (fun (s : State) (w : Waiter) => s.reply w.t w.x (c / 32) (.trap (TrapInfo.at .homeFenced w.va))) s3
    let s5 := (s.cluster c).arrivals.foldl (fun s a => s.replyCinc c a (.trap (TrapInfo.plain .homeFenced))) s4
    s.fenceCluster c = s5.fenceSpawns c) ∧
  (∀ (s : State), s.item ≠ 1 → exec .clusterFence s = .next (s.fenceCluster s.actor)) ∧
  (∀ (s : State), s.item = 1 → exec .clusterFence s =
    .next (((List.range 32).map (s.actor / 32 * 32 + ·)).foldl (fun s c => s.fenceCluster c) s)) ∧
  (∀ (d watts : Nat) (s : State), exec (.powerClockStep d watts) s = .next (
    if watts > (s.device d).pwrlim.toNat then s.setClock d (max 8 ((s.device d).clock - 1))
    else if (s.device d).hot = 0 then s.setClock d (min 32 ((s.device d).clock + 1)) else s)) ∧
  (∀ (d dieC hbmC : Nat) (s : State), exec (.thermalThrottle d dieC hbmC) s = .next (
    if dieC ≥ 105 ∨ hbmC ≥ 95 then s.setDevice d { s.device d with clock := 8, hot := 2 }
    else if dieC ≥ 95 ∨ hbmC ≥ 90 then
      s.setDevice d { s.device d with clock := max 8 ((s.device d).clock - 1), hot := 1 }
    else s.setDevice d { s.device d with hot := 0 })) ∧
  (∀ (d dieC : Nat) (s : State), dieC ≥ 115 → exec (.thermalShutdown d dieC) s = .next (s.wipe d
    { (s.device d).fresh with
      cycle := (s.device d).cycle, timeUnits := (s.device d).timeUnits, left := (s.device d).left
      stage := 0, failed := true, failStage := 0, stopped := true })) ∧
  (∀ (d dieC : Nat) (s : State), dieC < 115 → exec (.thermalShutdown d dieC) s = .next s) ∧
  (∀ (s : State),
    let d := s.actor
    let t := s.wipe d (s.device d).fresh
    exec .deviceReset s = .next (t.outsidePod d) ∧ (t.device d).cycle = 0 ∧ (t.device d).firmware = (s.device d).firmware ∧
    (∀ e, e ≠ d → t.device e = s.device e) ∧
    (d = 0 ∨ (tget t.devices 0).isSome = true → t.outsidePod d = t.updDevice d fun dv => { dv with members := [d] })) ∧
  (∀ (s : State), let dv := s.device s.actor
    exec .bringupStageTimeout s = .next (
      if dv.stopped = false ∧ 1 ≤ dv.stage ∧ dv.stage < 8 ∧ dv.since + stageLimit dv.stage * timeScale ≤ dv.elapsed then
        s.failStage s.actor else s)) ∧
  (∀ (d num q : Nat) (members : List Nat) (time : Nat) (s : State),
    let dv := s.device d
    let good : Prop := q ∈ podPrimes ∧ num ∈ members ∧ (∀ e ∈ members, e < 2 * q * q) ∧ dv.stopped = false
    let dv' := { dv with members := members, podQ := q, timeUnits := s.podTime d num q members time }
    (¬good → exec (.podMembershipSet d num q members time) s = .next s) ∧
    (good → dv.stage = 6 → num = d → exec (.podMembershipSet d num q members time) s = .next (s.setDevice d dv')) ∧
    (good → dv.stage = 6 → num ≠ d → tget s.devices num = none → (s.threads.any fun p => deviceOf p.1 == d) = false →
      exec (.podMembershipSet d num q members time) s = .next ((s.setDevice d dv').renumber d num)) ∧
    (good → dv.stage = 6 → num ≠ d → (tget s.devices num ≠ none ∨ (s.threads.any fun p => deviceOf p.1 == d) = true) →
      exec (.podMembershipSet d num q members time) s = .next s) ∧
    (good → 6 < dv.stage → num = d → q = dv.podQ →
      exec (.podMembershipSet d num q members time) s = .next (s.setDevice d { dv with nextMembers := some members })) ∧
    (dv.stage < 6 ∨ (6 < dv.stage ∧ (num ≠ d ∨ q ≠ dv.podQ)) →
      exec (.podMembershipSet d num q members time) s = .next s))


/-- R10: `%tid` packs the issuing thread's name, and `%slot`, `%core`, `%cluster`, `%die` and `%dev` each hold one
field of it, right-aligned and zero-extended. A thread's name has 24 bits. -/
def Obligations.ThreadName : Prop :=
  ∀ s : State, s.curT < 2 ^ 24 →
    (s.special 0).toNat = s.curT ∧ (s.special 0).extractLsb' 24 40 = 0 ∧
    s.special 1 = ((s.special 0).extractLsb' 0 3).setWidth 64 ∧ s.special 2 = ((s.special 0).extractLsb' 3 3).setWidth 64 ∧
    s.special 3 = ((s.special 0).extractLsb' 6 5).setWidth 64 ∧ s.special 4 = ((s.special 0).extractLsb' 11 2).setWidth 64 ∧
    s.special 5 = ((s.special 0).extractLsb' 13 11).setWidth 64

/-- R60: s0 reads zero and p0 all ones, writes to them are discarded, and a write of any other register is what that
register reads afterwards and changes no other; an `ldi` of s0 and a `plog` of p0 only advance. -/
def Obligations.HardWiredRegisters : Prop :=
  (∀ st : Strand, st.getS 0 = 0 ∧ st.getP 0 = BitVec.allOnes 256) ∧
  (∀ (st : Strand) (v : Word) (g : PReg), st.setS 0 v = st ∧ st.setP 0 g = st) ∧
  (∀ (st : Strand) (n : Nat) (v : Word), 0 < n → n < 64 → (st.setS n v).getS n = v ∧ ∀ m, m ≠ n → (st.setS n v).getS m = st.getS m) ∧
  (∀ (st : Strand) (n : Nat) (v : PReg), 0 < n → n < 16 → (st.setP n v).getP n = v ∧ ∀ m, m ≠ n → (st.setP n v).getP m = st.getP m) ∧
  (∀ (e : Enc) (s s1 : State), accept (.ldi e) s = some s1 → e.da.idx.toNat = 0 →
    exec (.ldi e) s = .next (s1.updMy Strand.advance)) ∧
  (∀ (e : Enc) (s s1 : State), accept (.plog e) s = some s1 → e.da.idx.toNat = 0 →
    exec (.plog e) s = .next (s1.updMy Strand.advance))

/-- R69, R62, R63, R290: an instruction of a row is checked in the order of R69. The first failing step of 1 to 5
raises its cause; then the lowest FAULTED token that the wait mask names raises COPY_FAULT, whose delivery takes that
token alone out of FAULTED, and a busy one makes the strand wait; then an instruction, not a vector one, whose guard
is clear only advances. -/
def Obligations.CheckOrder : Prop :=
  (∀ (d : Desc) (e : Enc) (th : Thread) (x : Side),
    ((d.legal = false ∨ d.gs.illegal e.gs.toNat = true) → d.check e th x = some .illegal) ∧
    (d.legal = true → d.gs.illegal e.gs.toNat = false →
      (d.reserved e = true → d.check e th x = some .reservedField) ∧
      (d.reserved e = false →
        (d.operandClass e th.acc = true → d.check e th x = some .operandClass) ∧
        (d.operandClass e th.acc = false →
          (d.wrongStrand e th x = true → d.check e th x = some .strand) ∧
          (d.wrongStrand e th x = false → d.needsSupervisor e = true → (th.strand x).sup = false →
            d.check e th x = some .privileged))))) ∧
  (∀ (i : Instr) (s : State) (e : Enc) (d : Desc), describe s.me.acc i = some (e, d) → (s.thread? s.curT).isSome = true →
    (∀ c, d.check e s.me s.curX = some c → exec i s = .next (s.raise s.curT s.curX (TrapInfo.plain c))) ∧
    (d.check e s.me s.curX = none →
      (∀ n f, s.me.faultedToken e.wm = some (n, f) →
        exec i s = .next (s.raise s.curT s.curX (f.tokenTrap n))) ∧
      (s.me.faultedToken e.wm = none → s.me.tokensBusy e.wm = true →
        exec i s = .next (s.block s.curT s.curX (.tokens e.wm))) ∧
      (∀ s1, s.waitMask e.wm = .ok s1 → d.vec = false → s1.my.guardOn e = false →
        exec i s = .next (s1.updMy Strand.advance)))) ∧
  (∀ (s : State) (t : Nat) (x : Side) (p : PendTrap) (n : Nat) (f : FaultRec), n < 8 → p.info = f.tokenTrap n →
    ((s.thread t).getTok n).fault = some f →
    (((s.deliver t x p).thread t).getTok n).fault = none ∧
    ∀ m, m < 8 → m ≠ n → ((s.deliver t x p).thread t).getTok m = (s.thread t).getTok m)

/-- No row is refused: every row answers a next state wherever the issuing strand exists, and the event rows
everywhere; without it the one fault names the missing strand. -/
def Obligations.EveryRowAnswers : Prop :=
  (∀ (i : Instr) (s : State), (∃ t, exec i s = .next t) ∨ exec i s = .fault .noStrand) ∧
  (∀ (i : Instr) (s : State), (s.thread? s.curT).isSome = true → ∃ t, exec i s = .next t)

/-- R56, R34, R82: a step in which a strand issues, its turn in its barrel's rotation having come, runs the
instruction that its PC's twelve bytes decode to, whether the agenda or the default mover names it; an instruction
that cannot be fetched traps, and a strand whose turn it is not does not issue. The agenda is the model's (log 1). -/
def Obligations.StepRunsDecoded : Prop :=
  (∀ (s s' : State) (t : Nat) (x : Side) (r : List Move) (w : BitVec 96) (rest : List Byte) (i : Instr),
    s.agenda = .issue t x :: r →
    let s0 : State := { s with agenda := r }
    s0.turn t x = true → (s0.charge t x).fetch t x = .ok (w, s') → decode (bytesOfWord w ++ rest) = .ok (i, rest) →
    step s = exec i s') ∧
  (∀ (s s' : State) (t : Nat) (x : Side) (w : BitVec 96) (rest : List Byte) (i : Instr),
    s.agenda = [] → s.choose = .issue t x →
    (s.charge t x).fetch t x = .ok (w, s') → decode (bytesOfWord w ++ rest) = .ok (i, rest) →
    step s = exec i s') ∧
  (∀ (s : State) (t : Nat) (x : Side) (r : List Move) (c : TrapInfo),
    s.agenda = .issue t x :: r →
    let s0 : State := { s with agenda := r }
    s0.turn t x = true → (s0.charge t x).fetch t x = .error (.trap c) →
    step s = .next ((s0.charge t x).raise t x c)) ∧
  (∀ (s : State) (t : Nat) (x : Side) (r : List Move), s.agenda = .issue t x :: r →
    ({ s with agenda := r } : State).turn t x = false → step s = .next { s with agenda := r })

/-- Words that the spec writes out (its notes on the format, on synchronisation and on the shared cache), byte 0
first, decode to the instructions that they stand for. -/
def Obligations.SampleWords : Prop :=
  decode [0x10, 0x00, 0x00, 0x80, 0x00, 0x9E, 0x00, 0x01, 0x00, 0x00, 0x06, 0x81] =
    .ok (.st ⟨0, .u32, false, 0, 0, 0, ⟨.scalar, 4⟩, ⟨.scalar, 9⟩, ⟨.absent, 0⟩, 1, 0, false, false, .rne, 16⟩, []) ∧
  decode [0x00, 0x00, 0x00, 0x00, 0x18, 0x52, 0x08, 0x21, 0x05, 0xB2, 0x0B, 0x53] =
    .ok (.vffma ⟨0, .fp32, true, 3, 2, 5, ⟨.vector, 4⟩, ⟨.vector, 5⟩, ⟨.vector, 6⟩, 0, 0, false, false, .rne, 0⟩, []) ∧
  decode [0x00, 0x00, 0x00, 0x40, 0x50, 0x10, 0x41, 0x06, 0x00, 0x00, 0x08, 0xBA] =
    .ok (.watch ⟨0, .u64, false, 0, 0, 0, ⟨.scalar, 25⟩, ⟨.scalar, 17⟩, ⟨.scalar, 20⟩, 0, 4, false, false, .rne, 0⟩, []) ∧
  decode [0x00, 0x01, 0x20, 0x00, 0x5C, 0x00, 0x80, 0x05, 0x00, 0x00, 0x0B, 0x97] =
    .ok (.pullr ⟨0, .fp32, false, 0, 0, 0, ⟨.scalar, 22⟩, ⟨.scalar, 0⟩, ⟨.scalar, 23⟩, 0, 0, false, false, .rne, 0x200100⟩, []) ∧
  decode [0x00, 0x00, 0x00, 0x40, 0x34, 0x80, 0x00, 0xE0, 0x00, 0x10, 0x00, 0xA1] =
    .ok (.clean ⟨0, .none, false, 1, 0, 0, ⟨.absent, 0⟩, ⟨.scalar, 8⟩, ⟨.scalar, 13⟩, 0, 4, false, false, .rne, 0⟩, []) ∧
  decode [0x00, 0x20, 0x00, 0x00, 0x00, 0x8C, 0x40, 0x02, 0x01, 0x00, 0x08, 0x10] =
    .ok (.add ⟨0, .u64, false, 0, 0, 1, ⟨.scalar, 9⟩, ⟨.scalar, 8⟩, ⟨.immediate, 0⟩, 0, 0, false, false, .rne, 0x2000⟩, []) ∧
  decode [0x00, 0x00, 0x10, 0x00, 0x2C, 0x00, 0x00, 0xE0, 0x00, 0x00, 0x09, 0xD0] =
    .ok (.msadd ⟨0, .bf16, false, 0, 0, 0, ⟨.absent, 0⟩, ⟨.scalar, 0⟩, ⟨.scalar, 11⟩, 0, 0, false, false, .rne, 0x100000⟩, []) ∧
  decode [0x10, 0x00, 0x00, 0x80, 0x00, 0x9E, 0x00, 0x01, 0x00, 0x00, 0x06, 0x8C] =
    .ok (.illegalOpcode 0x8C0600000100_9E0080000010, [])

/-- R56 to R58, R74 to R76: every well-formed instruction that has a word is what its word decodes to, with every
field at every value and any bytes after it, and every row with an opcode has one; and every word decodes to a
well-formed instruction whose word it is, so that no bit of a word is dropped. -/
def Obligations.EncodeDecodeAgree : Prop :=
  (∀ i : Instr, i.op.isSome = true → (encode i).isSome = true) ∧
  (∀ (i : Instr) (b rest : List Byte), i.wf = true → encode i = some b → decode (b ++ rest) = .ok (i, rest)) ∧
  (∀ (w : BitVec 96) (rest : List Byte), ∃ i, decode (bytesOfWord w ++ rest) = .ok (i, rest) ∧ i.wf = true ∧
    encode i = some (bytesOfWord w)) ∧
  (∀ l : List Byte, l.length < 12 → decode l = .error .tooShort)

/-- Right after reset memory is in its canonical form, no thread is placed (R393) and every full/empty bit is full
(R18). -/
def Obligations.ResetMemoryForm : Prop :=
  State.reset.Inv ∧ State.reset.threads = [] ∧ ∀ a, State.reset.feFull a = true

/-- Every step keeps memory in its canonical form: addresses strictly rising and no cell equal to what an unlisted
address reads as. -/
def Obligations.StepKeepsMemoryForm : Prop :=
  ∀ s t : State, s.Inv → step s = .next t → t.Inv

/-- What the scalar and vector arithmetic, bit, comparison and move rows leave as it was wherever they complete: memory,
other threads, the other strand, every register but those that DA names, every special register but `%fps` and, where a
queue is read, `%eos` (R60, R113, R132, R160, R162, R185); the queue-fed `vred` writes `%prog` too (R181). `kset` and `kswap`
leave all but the special register that they name, and `kswap` its DA (R71, R73, R137). -/
def Obligations.RegisterRowFrame : Prop :=
  (∀ p ∈ [(Instr.add, false), (.sub, false), (.mul, false), (.mulh, false), (.mad, false), (.div, true), (.rem, true),
      (.min, false), (.max, false), (.abs, false), (.and, false), (.or, false), (.xor, false), (.andn, false),
      (.shl, false), (.shr, false), (.sar, false), (.rotl, false), (.clz, false), (.ctz, false), (.popc, false),
      (.bfx, false), (.bfi, false), (.sel, false), (.fsgn, false), (.fclass, false)],
    ScalarFramed p.1 p.2 false) ∧
  (∀ p ∈ [(Instr.fadd, false), (.fsub, false), (.fmul, false), (.fdiv, true), (.fmin, false), (.fmax, false),
      (.ffma, false), (.fsqrt, true), (.fcvt, false)],
    ScalarFramed p.1 p.2 true) ∧
  (∀ (e : Enc) (s s1 s2 : State) (a b : Word) (ws : List RegWrite), accept (.cmp e) s = some s1 →
    s1.readPair e = .ok ((a, b), ws, s2) → ∃ t, exec (.cmp e) s = .next t ∧ ScalarFrame e false s t) ∧
  (∀ (e : Enc) (s s1 s2 : State) (a b : Word) (ws : List RegWrite), accept (.fcmp e) s = some s1 →
    s1.readPair e = .ok ((a, b), ws, s2) → ∃ t, exec (.fcmp e) s = .next t ∧ ScalarFrame e true s t) ∧
  (∀ (e : Enc) (s s1 : State), accept (.ldi e) s = some s1 → ∃ t, exec (.ldi e) s = .next t ∧ ScalarFrame e false s t) ∧
  (∀ (e : Enc) (s s1 : State), accept (.ldp e) s = some s1 → ∃ t, exec (.ldp e) s = .next t ∧ ScalarFrame e false s t) ∧
  (∀ (e : Enc) (s s1 : State), accept (.kget e) s = some s1 → ∃ t, exec (.kget e) s = .next t ∧ ScalarFrame e false s t) ∧
  (∀ (e : Enc) (s s1 : State), accept (.plog e) s = some s1 → ∃ t, exec (.plog e) s = .next t ∧ ScalarFrame e false s t) ∧
  (∀ row ∈ [Instr.vadd, .vsub, .vmul, .vmulh, .vmin, .vmax, .vmad, .vabs, .vand, .vor, .vxor, .vshl, .vshr, .vsar, .vcmp,
      .vsel, .vfsgn, .vfclass, .bmaxe, .malign, .vbcast, .vbcastEl, .vperm, .vshuf, .vext, .vextEl, .vins, .vcomp, .lbc, .vlq,
      .pcnt, .pfirst, .pset], RowFramed row 1 false) ∧
  (∀ row ∈ [Instr.vfadd, .vfsub, .vfmul, .vffma, .vfdiv, .vfsqrt, .vfmin, .vfmax, .vfcmp, .vfcvt, .vred, .vscan,
      .vexp2, .vlog2, .vrcp, .vrsq, .vsin, .vcos, .vtanh], RowFramed row 1 true) ∧
  RowFramed .wfin 2 true ∧ (∀ row ∈ [Instr.welf, .wmerge, .wred], RowFramed row 3 true) ∧
  (∀ (e : Enc) (s t : State), exec (.vredQueue e) s = .next t → (completed s t ∨ t.my.status = .waiting .more) →
    RowFrame e [e.da.idx.toNat] [10] true s t) ∧
  (∀ (e : Enc) (s s1 : State), accept (.kset e) s = some s1 →
    ∃ t, exec (.kset e) s = .next t ∧ SpecialFrame e.da.idx.toNat none s t) ∧
  (∀ (e : Enc) (s s1 : State), accept (.kswap e) s = some s1 →
    ∃ t, exec (.kswap e) s = .next t ∧ SpecialFrame e.sa.idx.toNat (some e.da.idx.toNat) s t)

/-- What the load and store rows leave as it was. A load that is accepted leaves every register, queue and special register of
its thread until its results are known (R39), and all of memory where it brings no line to its home. A store, once its
elements' addresses are known and its source is read, leaves every byte outside the elements (R188 to R193), every register
and other threads; this is stated of states that meet the invariant. -/
def Obligations.LoadStoreFrame : Prop :=
  LoadFramed .ld (fun e => tyWidth false e.ty / 8) (fun e s => [(0, effAddr s e, none)]) ∧
  LoadFramed .vld (fun e => tyWidth true e.ty / 8)
    (fun e s => contiguous (effAddr s e) (tyWidth true e.ty) (enabledElems s.my e (tyWidth true e.ty))) ∧
  LoadFramed .vlds (fun e => tyWidth true e.ty / 8)
    (fun e s => strided (effAddr s e) (s.my.getS e.sb.idx.toNat) (tyWidth true e.ty) (enabledElems s.my e (tyWidth true e.ty))) ∧
  LoadFramed .vldx (fun e => tyWidth true e.ty / 8)
    (fun e s => indexed (effAddr s e) (s.me.getV e.sb.idx.toNat) (tyWidth true e.ty) (enabledElems s.my e (tyWidth true e.ty))) ∧
  (∀ (e : Enc) (s s1 s2 s3 : State) (l : List Elem) (v : Word) (ws : List RegWrite), s.Inv →
    accept (.st e) s = some s1 →
    s1.checkElems s1.curT (tyWidth false e.ty / 8) e.sw.toNat true [(0, effAddr s1 e, none)] = .ok (l, s2) →
    s2.readScalar e.ty e.imm e.da = .ok (v, ws, s3) →
    ∃ t, exec (.st e) s = .next t ∧ StoreFrame l (tyWidth false e.ty / 8) (s3.storeRelease (e.gs == 2)).2 t) ∧
  (∀ (e : Enc) (s s1 s2 s3 : State) (l : List Elem) (v : VReg) (ws : List RegWrite), s.Inv →
    accept (.vst e) s = some s1 →
    let w := tyWidth true e.ty
    rangeCheck (effAddr s1 e) w (enabledElems s1.my e w) true = .ok () →
    s1.checkElems s1.curT (w / 8) e.sw.toNat true (contiguous (effAddr s1 e) w (enabledElems s1.my e w)) = .ok (l, s2) →
    s2.readVec e.da = .ok (v, ws, s3) →
    ∃ t, exec (.vst e) s = .next t ∧ StoreFrame l (w / 8) (s3.storeRelease (e.gs == 2)).2 t) ∧
  (∀ (e : Enc) (s s1 s2 s3 : State) (l : List Elem) (v : VReg) (ws : List RegWrite), s.Inv →
    accept (.vsts e) s = some s1 →
    let w := tyWidth true e.ty
    s1.checkElems s1.curT (w / 8) e.sw.toNat true
      (strided (effAddr s1 e) (s1.my.getS e.sb.idx.toNat) w (enabledElems s1.my e w)) = .ok (l, s2) →
    s2.readVec e.da = .ok (v, ws, s3) →
    ∃ t, exec (.vsts e) s = .next t ∧ StoreFrame l (w / 8) (s3.storeRelease (e.gs == 2)).2 t) ∧
  (∀ (e : Enc) (s s1 s2 s3 : State) (l : List Elem) (v : VReg) (ws : List RegWrite), s.Inv →
    accept (.vstx e) s = some s1 →
    let w := tyWidth true e.ty
    s1.checkElems s1.curT (w / 8) e.sw.toNat true
      (indexed (effAddr s1 e) (s1.me.getV e.sb.idx.toNat) w (enabledElems s1.my e w)) = .ok (l, s2) →
    s2.readVec e.da = .ok (v, ws, s3) →
    ∃ t, exec (.vstx e) s = .next t ∧ StoreFrame l (w / 8) (s3.storeRelease (e.gs == 2)).2 t)
end

