-- ==== Sys2Proof/Laws/Encode.lean ====
section
/-! SUPPORT. The fields that the encoder packs are the fields that the decoder reads (R56 to R58). -/

namespace Sys2Proof

theorem tyOf_tyCode (t : Ty) : tyOf (tyCode t) = t := by cases t <;> rfl
theorem clsOf_clsCode (c : OpClass) : clsOf (clsCode c) = c := by cases c <;> rfl
theorem rmOf_rmCode (r : Rm) : rmOf (rmCode r) = r := by cases r <;> rfl

/-- A field that lies wholly in the lower part. -/
theorem field_low {n m : Nat} (x : BitVec n) (y : BitVec m) (i k : Nat) (h : i + k ≤ m) :
    (x ++ y).extractLsb' i k = y.extractLsb' i k := by
  apply BitVec.eq_of_getLsbD_eq
  intro j hj
  simp only [BitVec.getLsbD_extractLsb', BitVec.getLsbD_append]
  rw [if_pos (by omega)]

/-- A field that lies wholly in the upper part. -/
theorem field_high {n m : Nat} (x : BitVec n) (y : BitVec m) (i k : Nat) (h : m ≤ i) :
    (x ++ y).extractLsb' i k = x.extractLsb' (i - m) k := by
  apply BitVec.eq_of_getLsbD_eq
  intro j hj
  simp only [BitVec.getLsbD_extractLsb', BitVec.getLsbD_append]
  rw [if_neg (by omega), show i + j - m = i - m + j by omega]

/-- A field that is the whole. -/
theorem field_all {n : Nat} (x : BitVec n) : x.extractLsb' 0 n = x := by
  apply BitVec.eq_of_getLsbD_eq
  intro j hj
  simp [hj]

theorem operandOf_operandBits (o : Operand) : operandOf (operandBits o) = o := by
  obtain ⟨c, i⟩ := o
  unfold operandOf operandBits
  dsimp only
  rw [field_high _ _ _ _ (by omega), field_low _ _ _ _ (by omega), field_all, field_all, clsOf_clsCode]

theorem wordBit_eq (w : BitVec 96) (n : Nat) : wordBit w n = (w.extractLsb' n 1).getLsbD 0 := by
  simp [wordBit]

/-- Decoding reads back every field that encoding packed. -/
theorem fieldsOf_packWord (op : BitVec 8) (e : Enc) : fieldsOf (packWord op e) = e := by
  obtain ⟨fn, ty, gneg, gsel, la, wm, da, sa, sb, sw, gs, ftz, sat, rm, imm⟩ := e
  unfold fieldsOf packWord
  simp only [wordBit_eq]
  have hb (b : Bool) : (BitVec.ofBool b).getLsbD 0 = b := by cases b <;> rfl
  congr 1
  all_goals
    repeat first
      | rw [field_low _ _ _ _ (by omega)]
      | rw [field_high _ _ _ _ (by omega)]
    try simp only [Nat.sub_self, Nat.reduceSub]
    rw [field_all]
    first
      | done
      | rfl
      | rw [tyOf_tyCode]
      | rw [operandOf_operandBits]
      | rw [rmOf_rmCode]
      | rw [hb]

theorem opOf_packWord (op : BitVec 8) (e : Enc) : (packWord op e).extractLsb' 88 8 = op := by
  unfold packWord
  repeat rw [field_high _ _ _ _ (by omega)]
  simp only [Nat.reduceSub]
  rw [field_all]

/-- Two neighbouring fields are one field. -/
theorem field_join {n : Nat} (w : BitVec n) (i k l m : Nat) (h : m = l + k) :
    w.extractLsb' (i + k) l ++ w.extractLsb' i k = (w.extractLsb' i m).cast h := by
  subst h
  apply BitVec.eq_of_getLsbD_eq
  intro j hj
  simp only [BitVec.getLsbD_append, BitVec.getLsbD_extractLsb', BitVec.getLsbD_cast]
  split
  · rw [decide_eq_true (by omega), decide_eq_true (by omega)]
  · rw [decide_eq_true (by omega), decide_eq_true (by omega)]
    congr 2
    omega

/-- The bytes of a word give the word back, whatever follows them. -/
theorem decode_bytesOfWord (w : BitVec 96) (rest : List Byte) :
    decode (bytesOfWord w ++ rest) = .ok (decodeWord w, rest) := by
  have h1 := field_join w 80 8 8 16 rfl
  have h2 := field_join w 72 8 16 24 rfl
  have h3 := field_join w 64 8 24 32 rfl
  have h4 := field_join w 56 8 32 40 rfl
  have h5 := field_join w 48 8 40 48 rfl
  have h6 := field_join w 40 8 48 56 rfl
  have h7 := field_join w 32 8 56 64 rfl
  have h8 := field_join w 24 8 64 72 rfl
  have h9 := field_join w 16 8 72 80 rfl
  have h10 := field_join w 8 8 80 88 rfl
  have h11 := field_join w 0 8 88 96 rfl
  simp only [BitVec.cast_eq, Nat.reduceAdd] at h1 h2 h3 h4 h5 h6 h7 h8 h9 h10 h11
  show Except.ok (decodeWord (wordOfBytes _ _ _ _ _ _ _ _ _ _ _ _), rest) = _
  congr 3
  unfold wordOfBytes
  rw [h1, h2, h3, h4, h5, h6, h7, h8, h9, h10, h11]
  exact field_all w

theorem tyCode_tyOf (c : BitVec 4) : tyCode (tyOf c) = c := by revert c; decide
theorem rmCode_rmOf (c : BitVec 2) : rmCode (rmOf c) = c := by revert c; decide
theorem clsCode_clsOf (c : BitVec 3) : clsCode (clsOf c) = c := by revert c; decide

theorem operandBits_operandOf (f : BitVec 10) : operandBits (operandOf f) = f := by
  unfold operandBits operandOf
  rw [clsCode_clsOf]
  have h := field_join f 0 7 3 10 rfl
  simp only [BitVec.cast_eq, Nat.reduceAdd] at h
  rw [h, field_all]

theorem ofBool_wordBit (w : BitVec 96) (n : Nat) : BitVec.ofBool (wordBit w n) = w.extractLsb' n 1 := by
  apply BitVec.eq_of_getLsbD_eq
  intro j hj
  obtain rfl : j = 0 := by omega
  simp [wordBit]

/-- The opcode and the fields of a word give the word back: no bit of it is dropped. -/
theorem packWord_fieldsOf (w : BitVec 96) : packWord (w.extractLsb' 88 8) (fieldsOf w) = w := by
  have h1 := field_join w 84 4 8 12 rfl
  have h2 := field_join w 80 4 12 16 rfl
  have h3 := field_join w 79 1 16 17 rfl
  have h4 := field_join w 76 3 17 20 rfl
  have h5 := field_join w 72 4 20 24 rfl
  have h6 := field_join w 64 8 24 32 rfl
  have h7 := field_join w 54 10 32 42 rfl
  have h8 := field_join w 44 10 42 52 rfl
  have h9 := field_join w 34 10 52 62 rfl
  have h10 := field_join w 31 3 62 65 rfl
  have h11 := field_join w 28 3 65 68 rfl
  have h12 := field_join w 27 1 68 69 rfl
  have h13 := field_join w 26 1 69 70 rfl
  have h14 := field_join w 24 2 70 72 rfl
  have h15 := field_join w 0 24 72 96 rfl
  simp only [BitVec.cast_eq, Nat.reduceAdd] at h1 h2 h3 h4 h5 h6 h7 h8 h9 h10 h11 h12 h13 h14 h15
  unfold packWord fieldsOf
  simp only [operandBits_operandOf, tyCode_tyOf, rmCode_rmOf, ofBool_wordBit]
  rw [h1, h2, h3, h4, h5, h6, h7, h8, h9, h10, h11, h12, h13, h14, h15]
  exact field_all w

end Sys2Proof
end

