-- ==== Sys2Proof/Laws/State.lean ====
section
/-! SUPPORT. What each named update of a part of the state leaves unchanged, one lemma a field and update, each true by
definition; and what tables, registers and strands read as after a write. -/

namespace Sys2Proof.Machine

/-! ### Tables -/

@[simp] theorem tget_tset_self {α : Type} (l : List (Nat × α)) (n : Nat) (v : α) : tget (tset l n v) n = some v := by
  induction l with
  | nil => simp [tset, tget]
  | cons p r ih =>
    obtain ⟨k, w⟩ := p
    by_cases h : k = n
    · simp [tset, tget, h]
    · by_cases g : n < k <;> simp [tset, tget, h, g, ih]

theorem tget_tset_ne {α : Type} (l : List (Nat × α)) {n m : Nat} (v : α) (hne : m ≠ n) :
    tget (tset l n v) m = tget l m := by
  induction l with
  | nil => simp [tset, tget, Ne.symm hne]
  | cons p r ih =>
    obtain ⟨k, w⟩ := p
    by_cases h : k = n
    · subst h; simp [tset, tget, Ne.symm hne]
    · by_cases g : n < k
      · simp [tset, tget, h, g, Ne.symm hne]
      · simp only [tset, h, g, if_false, tget, ih]

/-! ### Fields that an update leaves alone -/

@[simp] theorem State.setThread_cores (s : State) (t : Nat) (th : Thread) : (s.setThread t th).cores = s.cores := rfl
@[simp] theorem State.setThread_clusters (s : State) (t : Nat) (th : Thread) : (s.setThread t th).clusters = s.clusters := rfl
@[simp] theorem State.setThread_devices (s : State) (t : Nat) (th : Thread) : (s.setThread t th).devices = s.devices := rfl
@[simp] theorem State.setThread_partitions (s : State) (t : Nat) (th : Thread) : (s.setThread t th).partitions = s.partitions := rfl
@[simp] theorem State.setThread_mem (s : State) (t : Nat) (th : Thread) : (s.setThread t th).mem = s.mem := rfl
@[simp] theorem State.setThread_feEmpty (s : State) (t : Nat) (th : Thread) : (s.setThread t th).feEmpty = s.feEmpty := rfl
@[simp] theorem State.setThread_poison (s : State) (t : Nat) (th : Thread) : (s.setThread t th).poison = s.poison := rfl
@[simp] theorem State.setThread_stores (s : State) (t : Nat) (th : Thread) : (s.setThread t th).stores = s.stores := rfl
@[simp] theorem State.setThread_sums (s : State) (t : Nat) (th : Thread) : (s.setThread t th).sums = s.sums := rfl
@[simp] theorem State.setThread_rel (s : State) (t : Nat) (th : Thread) : (s.setThread t th).rel = s.rel := rfl
@[simp] theorem State.setThread_l1 (s : State) (t : Nat) (th : Thread) : (s.setThread t th).l1 = s.l1 := rfl
@[simp] theorem State.setThread_il1 (s : State) (t : Nat) (th : Thread) : (s.setThread t th).il1 = s.il1 := rfl
@[simp] theorem State.setThread_rind (s : State) (t : Nat) (th : Thread) : (s.setThread t th).rind = s.rind := rfl
@[simp] theorem State.setThread_paste (s : State) (t : Nat) (th : Thread) : (s.setThread t th).paste = s.paste := rfl
@[simp] theorem State.setThread_fills (s : State) (t : Nat) (th : Thread) : (s.setThread t th).fills = s.fills := rfl
@[simp] theorem State.setThread_leases (s : State) (t : Nat) (th : Thread) : (s.setThread t th).leases = s.leases := rfl
@[simp] theorem State.setThread_pages (s : State) (t : Nat) (th : Thread) : (s.setThread t th).pages = s.pages := rfl
@[simp] theorem State.setThread_tlb (s : State) (t : Nat) (th : Thread) : (s.setThread t th).tlb = s.tlb := rfl
@[simp] theorem State.setThread_tickets (s : State) (t : Nat) (th : Thread) : (s.setThread t th).tickets = s.tickets := rfl
@[simp] theorem State.setThread_drops (s : State) (t : Nat) (th : Thread) : (s.setThread t th).drops = s.drops := rfl
@[simp] theorem State.setThread_watches (s : State) (t : Nat) (th : Thread) : (s.setThread t th).watches = s.watches := rfl
@[simp] theorem State.setThread_answers (s : State) (t : Nat) (th : Thread) : (s.setThread t th).answers = s.answers := rfl
@[simp] theorem State.setThread_waiters (s : State) (t : Nat) (th : Thread) : (s.setThread t th).waiters = s.waiters := rfl
@[simp] theorem State.setThread_barriers (s : State) (t : Nat) (th : Thread) : (s.setThread t th).barriers = s.barriers := rfl
@[simp] theorem State.setThread_saved (s : State) (t : Nat) (th : Thread) : (s.setThread t th).saved = s.saved := rfl
@[simp] theorem State.setThread_packets (s : State) (t : Nat) (th : Thread) : (s.setThread t th).packets = s.packets := rfl
@[simp] theorem State.setThread_pools (s : State) (t : Nat) (th : Thread) : (s.setThread t th).pools = s.pools := rfl
@[simp] theorem State.setThread_links (s : State) (t : Nat) (th : Thread) : (s.setThread t th).links = s.links := rfl
@[simp] theorem State.setThread_seqs (s : State) (t : Nat) (th : Thread) : (s.setThread t th).seqs = s.seqs := rfl
@[simp] theorem State.setThread_nextId (s : State) (t : Nat) (th : Thread) : (s.setThread t th).nextId = s.nextId := rfl
@[simp] theorem State.setThread_free (s : State) (t : Nat) (th : Thread) : (s.setThread t th).free = s.free := rfl
@[simp] theorem State.setThread_curT (s : State) (t : Nat) (th : Thread) : (s.setThread t th).curT = s.curT := rfl
@[simp] theorem State.setThread_curX (s : State) (t : Nat) (th : Thread) : (s.setThread t th).curX = s.curX := rfl
@[simp] theorem State.setThread_actor (s : State) (t : Nat) (th : Thread) : (s.setThread t th).actor = s.actor := rfl
@[simp] theorem State.setThread_item (s : State) (t : Nat) (th : Thread) : (s.setThread t th).item = s.item := rfl
@[simp] theorem State.setThread_agenda (s : State) (t : Nat) (th : Thread) : (s.setThread t th).agenda = s.agenda := rfl

@[simp] theorem State.setCore_threads (s : State) (k : Nat) (c : Core) : (s.setCore k c).threads = s.threads := rfl
@[simp] theorem State.setCore_clusters (s : State) (k : Nat) (c : Core) : (s.setCore k c).clusters = s.clusters := rfl
@[simp] theorem State.setCore_devices (s : State) (k : Nat) (c : Core) : (s.setCore k c).devices = s.devices := rfl
@[simp] theorem State.setCore_partitions (s : State) (k : Nat) (c : Core) : (s.setCore k c).partitions = s.partitions := rfl
@[simp] theorem State.setCore_mem (s : State) (k : Nat) (c : Core) : (s.setCore k c).mem = s.mem := rfl
@[simp] theorem State.setCore_feEmpty (s : State) (k : Nat) (c : Core) : (s.setCore k c).feEmpty = s.feEmpty := rfl
@[simp] theorem State.setCore_poison (s : State) (k : Nat) (c : Core) : (s.setCore k c).poison = s.poison := rfl
@[simp] theorem State.setCore_stores (s : State) (k : Nat) (c : Core) : (s.setCore k c).stores = s.stores := rfl
@[simp] theorem State.setCore_sums (s : State) (k : Nat) (c : Core) : (s.setCore k c).sums = s.sums := rfl
@[simp] theorem State.setCore_rel (s : State) (k : Nat) (c : Core) : (s.setCore k c).rel = s.rel := rfl
@[simp] theorem State.setCore_l1 (s : State) (k : Nat) (c : Core) : (s.setCore k c).l1 = s.l1 := rfl
@[simp] theorem State.setCore_il1 (s : State) (k : Nat) (c : Core) : (s.setCore k c).il1 = s.il1 := rfl
@[simp] theorem State.setCore_rind (s : State) (k : Nat) (c : Core) : (s.setCore k c).rind = s.rind := rfl
@[simp] theorem State.setCore_paste (s : State) (k : Nat) (c : Core) : (s.setCore k c).paste = s.paste := rfl
@[simp] theorem State.setCore_fills (s : State) (k : Nat) (c : Core) : (s.setCore k c).fills = s.fills := rfl
@[simp] theorem State.setCore_leases (s : State) (k : Nat) (c : Core) : (s.setCore k c).leases = s.leases := rfl
@[simp] theorem State.setCore_pages (s : State) (k : Nat) (c : Core) : (s.setCore k c).pages = s.pages := rfl
@[simp] theorem State.setCore_tlb (s : State) (k : Nat) (c : Core) : (s.setCore k c).tlb = s.tlb := rfl
@[simp] theorem State.setCore_tickets (s : State) (k : Nat) (c : Core) : (s.setCore k c).tickets = s.tickets := rfl
@[simp] theorem State.setCore_drops (s : State) (k : Nat) (c : Core) : (s.setCore k c).drops = s.drops := rfl
@[simp] theorem State.setCore_watches (s : State) (k : Nat) (c : Core) : (s.setCore k c).watches = s.watches := rfl
@[simp] theorem State.setCore_answers (s : State) (k : Nat) (c : Core) : (s.setCore k c).answers = s.answers := rfl
@[simp] theorem State.setCore_waiters (s : State) (k : Nat) (c : Core) : (s.setCore k c).waiters = s.waiters := rfl
@[simp] theorem State.setCore_barriers (s : State) (k : Nat) (c : Core) : (s.setCore k c).barriers = s.barriers := rfl
@[simp] theorem State.setCore_saved (s : State) (k : Nat) (c : Core) : (s.setCore k c).saved = s.saved := rfl
@[simp] theorem State.setCore_packets (s : State) (k : Nat) (c : Core) : (s.setCore k c).packets = s.packets := rfl
@[simp] theorem State.setCore_pools (s : State) (k : Nat) (c : Core) : (s.setCore k c).pools = s.pools := rfl
@[simp] theorem State.setCore_links (s : State) (k : Nat) (c : Core) : (s.setCore k c).links = s.links := rfl
@[simp] theorem State.setCore_seqs (s : State) (k : Nat) (c : Core) : (s.setCore k c).seqs = s.seqs := rfl
@[simp] theorem State.setCore_nextId (s : State) (k : Nat) (c : Core) : (s.setCore k c).nextId = s.nextId := rfl
@[simp] theorem State.setCore_free (s : State) (k : Nat) (c : Core) : (s.setCore k c).free = s.free := rfl
@[simp] theorem State.setCore_curT (s : State) (k : Nat) (c : Core) : (s.setCore k c).curT = s.curT := rfl
@[simp] theorem State.setCore_curX (s : State) (k : Nat) (c : Core) : (s.setCore k c).curX = s.curX := rfl
@[simp] theorem State.setCore_actor (s : State) (k : Nat) (c : Core) : (s.setCore k c).actor = s.actor := rfl
@[simp] theorem State.setCore_item (s : State) (k : Nat) (c : Core) : (s.setCore k c).item = s.item := rfl
@[simp] theorem State.setCore_agenda (s : State) (k : Nat) (c : Core) : (s.setCore k c).agenda = s.agenda := rfl

@[simp] theorem State.setCluster_threads (s : State) (c : Nat) (cl : Cluster) : (s.setCluster c cl).threads = s.threads := rfl
@[simp] theorem State.setCluster_cores (s : State) (c : Nat) (cl : Cluster) : (s.setCluster c cl).cores = s.cores := rfl
@[simp] theorem State.setCluster_devices (s : State) (c : Nat) (cl : Cluster) : (s.setCluster c cl).devices = s.devices := rfl
@[simp] theorem State.setCluster_partitions (s : State) (c : Nat) (cl : Cluster) : (s.setCluster c cl).partitions = s.partitions := rfl
@[simp] theorem State.setCluster_mem (s : State) (c : Nat) (cl : Cluster) : (s.setCluster c cl).mem = s.mem := rfl
@[simp] theorem State.setCluster_feEmpty (s : State) (c : Nat) (cl : Cluster) : (s.setCluster c cl).feEmpty = s.feEmpty := rfl
@[simp] theorem State.setCluster_poison (s : State) (c : Nat) (cl : Cluster) : (s.setCluster c cl).poison = s.poison := rfl
@[simp] theorem State.setCluster_stores (s : State) (c : Nat) (cl : Cluster) : (s.setCluster c cl).stores = s.stores := rfl
@[simp] theorem State.setCluster_sums (s : State) (c : Nat) (cl : Cluster) : (s.setCluster c cl).sums = s.sums := rfl
@[simp] theorem State.setCluster_rel (s : State) (c : Nat) (cl : Cluster) : (s.setCluster c cl).rel = s.rel := rfl
@[simp] theorem State.setCluster_l1 (s : State) (c : Nat) (cl : Cluster) : (s.setCluster c cl).l1 = s.l1 := rfl
@[simp] theorem State.setCluster_il1 (s : State) (c : Nat) (cl : Cluster) : (s.setCluster c cl).il1 = s.il1 := rfl
@[simp] theorem State.setCluster_rind (s : State) (c : Nat) (cl : Cluster) : (s.setCluster c cl).rind = s.rind := rfl
@[simp] theorem State.setCluster_paste (s : State) (c : Nat) (cl : Cluster) : (s.setCluster c cl).paste = s.paste := rfl
@[simp] theorem State.setCluster_fills (s : State) (c : Nat) (cl : Cluster) : (s.setCluster c cl).fills = s.fills := rfl
@[simp] theorem State.setCluster_leases (s : State) (c : Nat) (cl : Cluster) : (s.setCluster c cl).leases = s.leases := rfl
@[simp] theorem State.setCluster_pages (s : State) (c : Nat) (cl : Cluster) : (s.setCluster c cl).pages = s.pages := rfl
@[simp] theorem State.setCluster_tlb (s : State) (c : Nat) (cl : Cluster) : (s.setCluster c cl).tlb = s.tlb := rfl
@[simp] theorem State.setCluster_tickets (s : State) (c : Nat) (cl : Cluster) : (s.setCluster c cl).tickets = s.tickets := rfl
@[simp] theorem State.setCluster_drops (s : State) (c : Nat) (cl : Cluster) : (s.setCluster c cl).drops = s.drops := rfl
@[simp] theorem State.setCluster_watches (s : State) (c : Nat) (cl : Cluster) : (s.setCluster c cl).watches = s.watches := rfl
@[simp] theorem State.setCluster_answers (s : State) (c : Nat) (cl : Cluster) : (s.setCluster c cl).answers = s.answers := rfl
@[simp] theorem State.setCluster_waiters (s : State) (c : Nat) (cl : Cluster) : (s.setCluster c cl).waiters = s.waiters := rfl
@[simp] theorem State.setCluster_barriers (s : State) (c : Nat) (cl : Cluster) : (s.setCluster c cl).barriers = s.barriers := rfl
@[simp] theorem State.setCluster_saved (s : State) (c : Nat) (cl : Cluster) : (s.setCluster c cl).saved = s.saved := rfl
@[simp] theorem State.setCluster_packets (s : State) (c : Nat) (cl : Cluster) : (s.setCluster c cl).packets = s.packets := rfl
@[simp] theorem State.setCluster_pools (s : State) (c : Nat) (cl : Cluster) : (s.setCluster c cl).pools = s.pools := rfl
@[simp] theorem State.setCluster_links (s : State) (c : Nat) (cl : Cluster) : (s.setCluster c cl).links = s.links := rfl
@[simp] theorem State.setCluster_seqs (s : State) (c : Nat) (cl : Cluster) : (s.setCluster c cl).seqs = s.seqs := rfl
@[simp] theorem State.setCluster_nextId (s : State) (c : Nat) (cl : Cluster) : (s.setCluster c cl).nextId = s.nextId := rfl
@[simp] theorem State.setCluster_free (s : State) (c : Nat) (cl : Cluster) : (s.setCluster c cl).free = s.free := rfl
@[simp] theorem State.setCluster_curT (s : State) (c : Nat) (cl : Cluster) : (s.setCluster c cl).curT = s.curT := rfl
@[simp] theorem State.setCluster_curX (s : State) (c : Nat) (cl : Cluster) : (s.setCluster c cl).curX = s.curX := rfl
@[simp] theorem State.setCluster_actor (s : State) (c : Nat) (cl : Cluster) : (s.setCluster c cl).actor = s.actor := rfl
@[simp] theorem State.setCluster_item (s : State) (c : Nat) (cl : Cluster) : (s.setCluster c cl).item = s.item := rfl
@[simp] theorem State.setCluster_agenda (s : State) (c : Nat) (cl : Cluster) : (s.setCluster c cl).agenda = s.agenda := rfl

@[simp] theorem State.setDevice_threads (s : State) (d : Nat) (dv : Device) : (s.setDevice d dv).threads = s.threads := rfl
@[simp] theorem State.setDevice_cores (s : State) (d : Nat) (dv : Device) : (s.setDevice d dv).cores = s.cores := rfl
@[simp] theorem State.setDevice_clusters (s : State) (d : Nat) (dv : Device) : (s.setDevice d dv).clusters = s.clusters := rfl
@[simp] theorem State.setDevice_partitions (s : State) (d : Nat) (dv : Device) : (s.setDevice d dv).partitions = s.partitions := rfl
@[simp] theorem State.setDevice_mem (s : State) (d : Nat) (dv : Device) : (s.setDevice d dv).mem = s.mem := rfl
@[simp] theorem State.setDevice_feEmpty (s : State) (d : Nat) (dv : Device) : (s.setDevice d dv).feEmpty = s.feEmpty := rfl
@[simp] theorem State.setDevice_poison (s : State) (d : Nat) (dv : Device) : (s.setDevice d dv).poison = s.poison := rfl
@[simp] theorem State.setDevice_stores (s : State) (d : Nat) (dv : Device) : (s.setDevice d dv).stores = s.stores := rfl
@[simp] theorem State.setDevice_sums (s : State) (d : Nat) (dv : Device) : (s.setDevice d dv).sums = s.sums := rfl
@[simp] theorem State.setDevice_rel (s : State) (d : Nat) (dv : Device) : (s.setDevice d dv).rel = s.rel := rfl
@[simp] theorem State.setDevice_l1 (s : State) (d : Nat) (dv : Device) : (s.setDevice d dv).l1 = s.l1 := rfl
@[simp] theorem State.setDevice_il1 (s : State) (d : Nat) (dv : Device) : (s.setDevice d dv).il1 = s.il1 := rfl
@[simp] theorem State.setDevice_rind (s : State) (d : Nat) (dv : Device) : (s.setDevice d dv).rind = s.rind := rfl
@[simp] theorem State.setDevice_paste (s : State) (d : Nat) (dv : Device) : (s.setDevice d dv).paste = s.paste := rfl
@[simp] theorem State.setDevice_fills (s : State) (d : Nat) (dv : Device) : (s.setDevice d dv).fills = s.fills := rfl
@[simp] theorem State.setDevice_leases (s : State) (d : Nat) (dv : Device) : (s.setDevice d dv).leases = s.leases := rfl
@[simp] theorem State.setDevice_pages (s : State) (d : Nat) (dv : Device) : (s.setDevice d dv).pages = s.pages := rfl
@[simp] theorem State.setDevice_tlb (s : State) (d : Nat) (dv : Device) : (s.setDevice d dv).tlb = s.tlb := rfl
@[simp] theorem State.setDevice_tickets (s : State) (d : Nat) (dv : Device) : (s.setDevice d dv).tickets = s.tickets := rfl
@[simp] theorem State.setDevice_drops (s : State) (d : Nat) (dv : Device) : (s.setDevice d dv).drops = s.drops := rfl
@[simp] theorem State.setDevice_watches (s : State) (d : Nat) (dv : Device) : (s.setDevice d dv).watches = s.watches := rfl
@[simp] theorem State.setDevice_answers (s : State) (d : Nat) (dv : Device) : (s.setDevice d dv).answers = s.answers := rfl
@[simp] theorem State.setDevice_waiters (s : State) (d : Nat) (dv : Device) : (s.setDevice d dv).waiters = s.waiters := rfl
@[simp] theorem State.setDevice_barriers (s : State) (d : Nat) (dv : Device) : (s.setDevice d dv).barriers = s.barriers := rfl
@[simp] theorem State.setDevice_saved (s : State) (d : Nat) (dv : Device) : (s.setDevice d dv).saved = s.saved := rfl
@[simp] theorem State.setDevice_packets (s : State) (d : Nat) (dv : Device) : (s.setDevice d dv).packets = s.packets := rfl
@[simp] theorem State.setDevice_pools (s : State) (d : Nat) (dv : Device) : (s.setDevice d dv).pools = s.pools := rfl
@[simp] theorem State.setDevice_links (s : State) (d : Nat) (dv : Device) : (s.setDevice d dv).links = s.links := rfl
@[simp] theorem State.setDevice_seqs (s : State) (d : Nat) (dv : Device) : (s.setDevice d dv).seqs = s.seqs := rfl
@[simp] theorem State.setDevice_nextId (s : State) (d : Nat) (dv : Device) : (s.setDevice d dv).nextId = s.nextId := rfl
@[simp] theorem State.setDevice_free (s : State) (d : Nat) (dv : Device) : (s.setDevice d dv).free = s.free := rfl
@[simp] theorem State.setDevice_curT (s : State) (d : Nat) (dv : Device) : (s.setDevice d dv).curT = s.curT := rfl
@[simp] theorem State.setDevice_curX (s : State) (d : Nat) (dv : Device) : (s.setDevice d dv).curX = s.curX := rfl
@[simp] theorem State.setDevice_actor (s : State) (d : Nat) (dv : Device) : (s.setDevice d dv).actor = s.actor := rfl
@[simp] theorem State.setDevice_item (s : State) (d : Nat) (dv : Device) : (s.setDevice d dv).item = s.item := rfl
@[simp] theorem State.setDevice_agenda (s : State) (d : Nat) (dv : Device) : (s.setDevice d dv).agenda = s.agenda := rfl

@[simp] theorem State.setStrand_cores (s : State) (t : Nat) (x : Side) (st : Strand) : (s.setStrand t x st).cores = s.cores := rfl
@[simp] theorem State.setStrand_clusters (s : State) (t : Nat) (x : Side) (st : Strand) : (s.setStrand t x st).clusters = s.clusters := rfl
@[simp] theorem State.setStrand_devices (s : State) (t : Nat) (x : Side) (st : Strand) : (s.setStrand t x st).devices = s.devices := rfl
@[simp] theorem State.setStrand_partitions (s : State) (t : Nat) (x : Side) (st : Strand) : (s.setStrand t x st).partitions = s.partitions := rfl
@[simp] theorem State.setStrand_mem (s : State) (t : Nat) (x : Side) (st : Strand) : (s.setStrand t x st).mem = s.mem := rfl
@[simp] theorem State.setStrand_feEmpty (s : State) (t : Nat) (x : Side) (st : Strand) : (s.setStrand t x st).feEmpty = s.feEmpty := rfl
@[simp] theorem State.setStrand_poison (s : State) (t : Nat) (x : Side) (st : Strand) : (s.setStrand t x st).poison = s.poison := rfl
@[simp] theorem State.setStrand_stores (s : State) (t : Nat) (x : Side) (st : Strand) : (s.setStrand t x st).stores = s.stores := rfl
@[simp] theorem State.setStrand_sums (s : State) (t : Nat) (x : Side) (st : Strand) : (s.setStrand t x st).sums = s.sums := rfl
@[simp] theorem State.setStrand_rel (s : State) (t : Nat) (x : Side) (st : Strand) : (s.setStrand t x st).rel = s.rel := rfl
@[simp] theorem State.setStrand_l1 (s : State) (t : Nat) (x : Side) (st : Strand) : (s.setStrand t x st).l1 = s.l1 := rfl
@[simp] theorem State.setStrand_il1 (s : State) (t : Nat) (x : Side) (st : Strand) : (s.setStrand t x st).il1 = s.il1 := rfl
@[simp] theorem State.setStrand_rind (s : State) (t : Nat) (x : Side) (st : Strand) : (s.setStrand t x st).rind = s.rind := rfl
@[simp] theorem State.setStrand_paste (s : State) (t : Nat) (x : Side) (st : Strand) : (s.setStrand t x st).paste = s.paste := rfl
@[simp] theorem State.setStrand_fills (s : State) (t : Nat) (x : Side) (st : Strand) : (s.setStrand t x st).fills = s.fills := rfl
@[simp] theorem State.setStrand_leases (s : State) (t : Nat) (x : Side) (st : Strand) : (s.setStrand t x st).leases = s.leases := rfl
@[simp] theorem State.setStrand_pages (s : State) (t : Nat) (x : Side) (st : Strand) : (s.setStrand t x st).pages = s.pages := rfl
@[simp] theorem State.setStrand_tlb (s : State) (t : Nat) (x : Side) (st : Strand) : (s.setStrand t x st).tlb = s.tlb := rfl
@[simp] theorem State.setStrand_tickets (s : State) (t : Nat) (x : Side) (st : Strand) : (s.setStrand t x st).tickets = s.tickets := rfl
@[simp] theorem State.setStrand_drops (s : State) (t : Nat) (x : Side) (st : Strand) : (s.setStrand t x st).drops = s.drops := rfl
@[simp] theorem State.setStrand_watches (s : State) (t : Nat) (x : Side) (st : Strand) : (s.setStrand t x st).watches = s.watches := rfl
@[simp] theorem State.setStrand_answers (s : State) (t : Nat) (x : Side) (st : Strand) : (s.setStrand t x st).answers = s.answers := rfl
@[simp] theorem State.setStrand_waiters (s : State) (t : Nat) (x : Side) (st : Strand) : (s.setStrand t x st).waiters = s.waiters := rfl
@[simp] theorem State.setStrand_barriers (s : State) (t : Nat) (x : Side) (st : Strand) : (s.setStrand t x st).barriers = s.barriers := rfl
@[simp] theorem State.setStrand_saved (s : State) (t : Nat) (x : Side) (st : Strand) : (s.setStrand t x st).saved = s.saved := rfl
@[simp] theorem State.setStrand_packets (s : State) (t : Nat) (x : Side) (st : Strand) : (s.setStrand t x st).packets = s.packets := rfl
@[simp] theorem State.setStrand_pools (s : State) (t : Nat) (x : Side) (st : Strand) : (s.setStrand t x st).pools = s.pools := rfl
@[simp] theorem State.setStrand_links (s : State) (t : Nat) (x : Side) (st : Strand) : (s.setStrand t x st).links = s.links := rfl
@[simp] theorem State.setStrand_seqs (s : State) (t : Nat) (x : Side) (st : Strand) : (s.setStrand t x st).seqs = s.seqs := rfl
@[simp] theorem State.setStrand_nextId (s : State) (t : Nat) (x : Side) (st : Strand) : (s.setStrand t x st).nextId = s.nextId := rfl
@[simp] theorem State.setStrand_free (s : State) (t : Nat) (x : Side) (st : Strand) : (s.setStrand t x st).free = s.free := rfl
@[simp] theorem State.setStrand_curT (s : State) (t : Nat) (x : Side) (st : Strand) : (s.setStrand t x st).curT = s.curT := rfl
@[simp] theorem State.setStrand_curX (s : State) (t : Nat) (x : Side) (st : Strand) : (s.setStrand t x st).curX = s.curX := rfl
@[simp] theorem State.setStrand_actor (s : State) (t : Nat) (x : Side) (st : Strand) : (s.setStrand t x st).actor = s.actor := rfl
@[simp] theorem State.setStrand_item (s : State) (t : Nat) (x : Side) (st : Strand) : (s.setStrand t x st).item = s.item := rfl
@[simp] theorem State.setStrand_agenda (s : State) (t : Nat) (x : Side) (st : Strand) : (s.setStrand t x st).agenda = s.agenda := rfl

@[simp] theorem State.updStrand_cores (s : State) (t : Nat) (x : Side) (f : Strand → Strand) : (s.updStrand t x f).cores = s.cores := rfl
@[simp] theorem State.updStrand_clusters (s : State) (t : Nat) (x : Side) (f : Strand → Strand) : (s.updStrand t x f).clusters = s.clusters := rfl
@[simp] theorem State.updStrand_devices (s : State) (t : Nat) (x : Side) (f : Strand → Strand) : (s.updStrand t x f).devices = s.devices := rfl
@[simp] theorem State.updStrand_partitions (s : State) (t : Nat) (x : Side) (f : Strand → Strand) : (s.updStrand t x f).partitions = s.partitions := rfl
@[simp] theorem State.updStrand_mem (s : State) (t : Nat) (x : Side) (f : Strand → Strand) : (s.updStrand t x f).mem = s.mem := rfl
@[simp] theorem State.updStrand_feEmpty (s : State) (t : Nat) (x : Side) (f : Strand → Strand) : (s.updStrand t x f).feEmpty = s.feEmpty := rfl
@[simp] theorem State.updStrand_poison (s : State) (t : Nat) (x : Side) (f : Strand → Strand) : (s.updStrand t x f).poison = s.poison := rfl
@[simp] theorem State.updStrand_stores (s : State) (t : Nat) (x : Side) (f : Strand → Strand) : (s.updStrand t x f).stores = s.stores := rfl
@[simp] theorem State.updStrand_sums (s : State) (t : Nat) (x : Side) (f : Strand → Strand) : (s.updStrand t x f).sums = s.sums := rfl
@[simp] theorem State.updStrand_rel (s : State) (t : Nat) (x : Side) (f : Strand → Strand) : (s.updStrand t x f).rel = s.rel := rfl
@[simp] theorem State.updStrand_l1 (s : State) (t : Nat) (x : Side) (f : Strand → Strand) : (s.updStrand t x f).l1 = s.l1 := rfl
@[simp] theorem State.updStrand_il1 (s : State) (t : Nat) (x : Side) (f : Strand → Strand) : (s.updStrand t x f).il1 = s.il1 := rfl
@[simp] theorem State.updStrand_rind (s : State) (t : Nat) (x : Side) (f : Strand → Strand) : (s.updStrand t x f).rind = s.rind := rfl
@[simp] theorem State.updStrand_paste (s : State) (t : Nat) (x : Side) (f : Strand → Strand) : (s.updStrand t x f).paste = s.paste := rfl
@[simp] theorem State.updStrand_fills (s : State) (t : Nat) (x : Side) (f : Strand → Strand) : (s.updStrand t x f).fills = s.fills := rfl
@[simp] theorem State.updStrand_leases (s : State) (t : Nat) (x : Side) (f : Strand → Strand) : (s.updStrand t x f).leases = s.leases := rfl
@[simp] theorem State.updStrand_pages (s : State) (t : Nat) (x : Side) (f : Strand → Strand) : (s.updStrand t x f).pages = s.pages := rfl
@[simp] theorem State.updStrand_tlb (s : State) (t : Nat) (x : Side) (f : Strand → Strand) : (s.updStrand t x f).tlb = s.tlb := rfl
@[simp] theorem State.updStrand_tickets (s : State) (t : Nat) (x : Side) (f : Strand → Strand) : (s.updStrand t x f).tickets = s.tickets := rfl
@[simp] theorem State.updStrand_drops (s : State) (t : Nat) (x : Side) (f : Strand → Strand) : (s.updStrand t x f).drops = s.drops := rfl
@[simp] theorem State.updStrand_watches (s : State) (t : Nat) (x : Side) (f : Strand → Strand) : (s.updStrand t x f).watches = s.watches := rfl
@[simp] theorem State.updStrand_answers (s : State) (t : Nat) (x : Side) (f : Strand → Strand) : (s.updStrand t x f).answers = s.answers := rfl
@[simp] theorem State.updStrand_waiters (s : State) (t : Nat) (x : Side) (f : Strand → Strand) : (s.updStrand t x f).waiters = s.waiters := rfl
@[simp] theorem State.updStrand_barriers (s : State) (t : Nat) (x : Side) (f : Strand → Strand) : (s.updStrand t x f).barriers = s.barriers := rfl
@[simp] theorem State.updStrand_saved (s : State) (t : Nat) (x : Side) (f : Strand → Strand) : (s.updStrand t x f).saved = s.saved := rfl
@[simp] theorem State.updStrand_packets (s : State) (t : Nat) (x : Side) (f : Strand → Strand) : (s.updStrand t x f).packets = s.packets := rfl
@[simp] theorem State.updStrand_pools (s : State) (t : Nat) (x : Side) (f : Strand → Strand) : (s.updStrand t x f).pools = s.pools := rfl
@[simp] theorem State.updStrand_links (s : State) (t : Nat) (x : Side) (f : Strand → Strand) : (s.updStrand t x f).links = s.links := rfl
@[simp] theorem State.updStrand_seqs (s : State) (t : Nat) (x : Side) (f : Strand → Strand) : (s.updStrand t x f).seqs = s.seqs := rfl
@[simp] theorem State.updStrand_nextId (s : State) (t : Nat) (x : Side) (f : Strand → Strand) : (s.updStrand t x f).nextId = s.nextId := rfl
@[simp] theorem State.updStrand_free (s : State) (t : Nat) (x : Side) (f : Strand → Strand) : (s.updStrand t x f).free = s.free := rfl
@[simp] theorem State.updStrand_curT (s : State) (t : Nat) (x : Side) (f : Strand → Strand) : (s.updStrand t x f).curT = s.curT := rfl
@[simp] theorem State.updStrand_curX (s : State) (t : Nat) (x : Side) (f : Strand → Strand) : (s.updStrand t x f).curX = s.curX := rfl
@[simp] theorem State.updStrand_actor (s : State) (t : Nat) (x : Side) (f : Strand → Strand) : (s.updStrand t x f).actor = s.actor := rfl
@[simp] theorem State.updStrand_item (s : State) (t : Nat) (x : Side) (f : Strand → Strand) : (s.updStrand t x f).item = s.item := rfl
@[simp] theorem State.updStrand_agenda (s : State) (t : Nat) (x : Side) (f : Strand → Strand) : (s.updStrand t x f).agenda = s.agenda := rfl

@[simp] theorem State.updThread_cores (s : State) (t : Nat) (f : Thread → Thread) : (s.updThread t f).cores = s.cores := rfl
@[simp] theorem State.updThread_clusters (s : State) (t : Nat) (f : Thread → Thread) : (s.updThread t f).clusters = s.clusters := rfl
@[simp] theorem State.updThread_devices (s : State) (t : Nat) (f : Thread → Thread) : (s.updThread t f).devices = s.devices := rfl
@[simp] theorem State.updThread_partitions (s : State) (t : Nat) (f : Thread → Thread) : (s.updThread t f).partitions = s.partitions := rfl
@[simp] theorem State.updThread_mem (s : State) (t : Nat) (f : Thread → Thread) : (s.updThread t f).mem = s.mem := rfl
@[simp] theorem State.updThread_feEmpty (s : State) (t : Nat) (f : Thread → Thread) : (s.updThread t f).feEmpty = s.feEmpty := rfl
@[simp] theorem State.updThread_poison (s : State) (t : Nat) (f : Thread → Thread) : (s.updThread t f).poison = s.poison := rfl
@[simp] theorem State.updThread_stores (s : State) (t : Nat) (f : Thread → Thread) : (s.updThread t f).stores = s.stores := rfl
@[simp] theorem State.updThread_sums (s : State) (t : Nat) (f : Thread → Thread) : (s.updThread t f).sums = s.sums := rfl
@[simp] theorem State.updThread_rel (s : State) (t : Nat) (f : Thread → Thread) : (s.updThread t f).rel = s.rel := rfl
@[simp] theorem State.updThread_l1 (s : State) (t : Nat) (f : Thread → Thread) : (s.updThread t f).l1 = s.l1 := rfl
@[simp] theorem State.updThread_il1 (s : State) (t : Nat) (f : Thread → Thread) : (s.updThread t f).il1 = s.il1 := rfl
@[simp] theorem State.updThread_rind (s : State) (t : Nat) (f : Thread → Thread) : (s.updThread t f).rind = s.rind := rfl
@[simp] theorem State.updThread_paste (s : State) (t : Nat) (f : Thread → Thread) : (s.updThread t f).paste = s.paste := rfl
@[simp] theorem State.updThread_fills (s : State) (t : Nat) (f : Thread → Thread) : (s.updThread t f).fills = s.fills := rfl
@[simp] theorem State.updThread_leases (s : State) (t : Nat) (f : Thread → Thread) : (s.updThread t f).leases = s.leases := rfl
@[simp] theorem State.updThread_pages (s : State) (t : Nat) (f : Thread → Thread) : (s.updThread t f).pages = s.pages := rfl
@[simp] theorem State.updThread_tlb (s : State) (t : Nat) (f : Thread → Thread) : (s.updThread t f).tlb = s.tlb := rfl
@[simp] theorem State.updThread_tickets (s : State) (t : Nat) (f : Thread → Thread) : (s.updThread t f).tickets = s.tickets := rfl
@[simp] theorem State.updThread_drops (s : State) (t : Nat) (f : Thread → Thread) : (s.updThread t f).drops = s.drops := rfl
@[simp] theorem State.updThread_watches (s : State) (t : Nat) (f : Thread → Thread) : (s.updThread t f).watches = s.watches := rfl
@[simp] theorem State.updThread_answers (s : State) (t : Nat) (f : Thread → Thread) : (s.updThread t f).answers = s.answers := rfl
@[simp] theorem State.updThread_waiters (s : State) (t : Nat) (f : Thread → Thread) : (s.updThread t f).waiters = s.waiters := rfl
@[simp] theorem State.updThread_barriers (s : State) (t : Nat) (f : Thread → Thread) : (s.updThread t f).barriers = s.barriers := rfl
@[simp] theorem State.updThread_saved (s : State) (t : Nat) (f : Thread → Thread) : (s.updThread t f).saved = s.saved := rfl
@[simp] theorem State.updThread_packets (s : State) (t : Nat) (f : Thread → Thread) : (s.updThread t f).packets = s.packets := rfl
@[simp] theorem State.updThread_pools (s : State) (t : Nat) (f : Thread → Thread) : (s.updThread t f).pools = s.pools := rfl
@[simp] theorem State.updThread_links (s : State) (t : Nat) (f : Thread → Thread) : (s.updThread t f).links = s.links := rfl
@[simp] theorem State.updThread_seqs (s : State) (t : Nat) (f : Thread → Thread) : (s.updThread t f).seqs = s.seqs := rfl
@[simp] theorem State.updThread_nextId (s : State) (t : Nat) (f : Thread → Thread) : (s.updThread t f).nextId = s.nextId := rfl
@[simp] theorem State.updThread_free (s : State) (t : Nat) (f : Thread → Thread) : (s.updThread t f).free = s.free := rfl
@[simp] theorem State.updThread_curT (s : State) (t : Nat) (f : Thread → Thread) : (s.updThread t f).curT = s.curT := rfl
@[simp] theorem State.updThread_curX (s : State) (t : Nat) (f : Thread → Thread) : (s.updThread t f).curX = s.curX := rfl
@[simp] theorem State.updThread_actor (s : State) (t : Nat) (f : Thread → Thread) : (s.updThread t f).actor = s.actor := rfl
@[simp] theorem State.updThread_item (s : State) (t : Nat) (f : Thread → Thread) : (s.updThread t f).item = s.item := rfl
@[simp] theorem State.updThread_agenda (s : State) (t : Nat) (f : Thread → Thread) : (s.updThread t f).agenda = s.agenda := rfl

@[simp] theorem State.updCore_threads (s : State) (k : Nat) (f : Core → Core) : (s.updCore k f).threads = s.threads := rfl
@[simp] theorem State.updCore_clusters (s : State) (k : Nat) (f : Core → Core) : (s.updCore k f).clusters = s.clusters := rfl
@[simp] theorem State.updCore_devices (s : State) (k : Nat) (f : Core → Core) : (s.updCore k f).devices = s.devices := rfl
@[simp] theorem State.updCore_partitions (s : State) (k : Nat) (f : Core → Core) : (s.updCore k f).partitions = s.partitions := rfl
@[simp] theorem State.updCore_mem (s : State) (k : Nat) (f : Core → Core) : (s.updCore k f).mem = s.mem := rfl
@[simp] theorem State.updCore_feEmpty (s : State) (k : Nat) (f : Core → Core) : (s.updCore k f).feEmpty = s.feEmpty := rfl
@[simp] theorem State.updCore_poison (s : State) (k : Nat) (f : Core → Core) : (s.updCore k f).poison = s.poison := rfl
@[simp] theorem State.updCore_stores (s : State) (k : Nat) (f : Core → Core) : (s.updCore k f).stores = s.stores := rfl
@[simp] theorem State.updCore_sums (s : State) (k : Nat) (f : Core → Core) : (s.updCore k f).sums = s.sums := rfl
@[simp] theorem State.updCore_rel (s : State) (k : Nat) (f : Core → Core) : (s.updCore k f).rel = s.rel := rfl
@[simp] theorem State.updCore_l1 (s : State) (k : Nat) (f : Core → Core) : (s.updCore k f).l1 = s.l1 := rfl
@[simp] theorem State.updCore_il1 (s : State) (k : Nat) (f : Core → Core) : (s.updCore k f).il1 = s.il1 := rfl
@[simp] theorem State.updCore_rind (s : State) (k : Nat) (f : Core → Core) : (s.updCore k f).rind = s.rind := rfl
@[simp] theorem State.updCore_paste (s : State) (k : Nat) (f : Core → Core) : (s.updCore k f).paste = s.paste := rfl
@[simp] theorem State.updCore_fills (s : State) (k : Nat) (f : Core → Core) : (s.updCore k f).fills = s.fills := rfl
@[simp] theorem State.updCore_leases (s : State) (k : Nat) (f : Core → Core) : (s.updCore k f).leases = s.leases := rfl
@[simp] theorem State.updCore_pages (s : State) (k : Nat) (f : Core → Core) : (s.updCore k f).pages = s.pages := rfl
@[simp] theorem State.updCore_tlb (s : State) (k : Nat) (f : Core → Core) : (s.updCore k f).tlb = s.tlb := rfl
@[simp] theorem State.updCore_tickets (s : State) (k : Nat) (f : Core → Core) : (s.updCore k f).tickets = s.tickets := rfl
@[simp] theorem State.updCore_drops (s : State) (k : Nat) (f : Core → Core) : (s.updCore k f).drops = s.drops := rfl
@[simp] theorem State.updCore_watches (s : State) (k : Nat) (f : Core → Core) : (s.updCore k f).watches = s.watches := rfl
@[simp] theorem State.updCore_answers (s : State) (k : Nat) (f : Core → Core) : (s.updCore k f).answers = s.answers := rfl
@[simp] theorem State.updCore_waiters (s : State) (k : Nat) (f : Core → Core) : (s.updCore k f).waiters = s.waiters := rfl
@[simp] theorem State.updCore_barriers (s : State) (k : Nat) (f : Core → Core) : (s.updCore k f).barriers = s.barriers := rfl
@[simp] theorem State.updCore_saved (s : State) (k : Nat) (f : Core → Core) : (s.updCore k f).saved = s.saved := rfl
@[simp] theorem State.updCore_packets (s : State) (k : Nat) (f : Core → Core) : (s.updCore k f).packets = s.packets := rfl
@[simp] theorem State.updCore_pools (s : State) (k : Nat) (f : Core → Core) : (s.updCore k f).pools = s.pools := rfl
@[simp] theorem State.updCore_links (s : State) (k : Nat) (f : Core → Core) : (s.updCore k f).links = s.links := rfl
@[simp] theorem State.updCore_seqs (s : State) (k : Nat) (f : Core → Core) : (s.updCore k f).seqs = s.seqs := rfl
@[simp] theorem State.updCore_nextId (s : State) (k : Nat) (f : Core → Core) : (s.updCore k f).nextId = s.nextId := rfl
@[simp] theorem State.updCore_free (s : State) (k : Nat) (f : Core → Core) : (s.updCore k f).free = s.free := rfl
@[simp] theorem State.updCore_curT (s : State) (k : Nat) (f : Core → Core) : (s.updCore k f).curT = s.curT := rfl
@[simp] theorem State.updCore_curX (s : State) (k : Nat) (f : Core → Core) : (s.updCore k f).curX = s.curX := rfl
@[simp] theorem State.updCore_actor (s : State) (k : Nat) (f : Core → Core) : (s.updCore k f).actor = s.actor := rfl
@[simp] theorem State.updCore_item (s : State) (k : Nat) (f : Core → Core) : (s.updCore k f).item = s.item := rfl
@[simp] theorem State.updCore_agenda (s : State) (k : Nat) (f : Core → Core) : (s.updCore k f).agenda = s.agenda := rfl

@[simp] theorem State.updCluster_threads (s : State) (c : Nat) (f : Cluster → Cluster) : (s.updCluster c f).threads = s.threads := rfl
@[simp] theorem State.updCluster_cores (s : State) (c : Nat) (f : Cluster → Cluster) : (s.updCluster c f).cores = s.cores := rfl
@[simp] theorem State.updCluster_devices (s : State) (c : Nat) (f : Cluster → Cluster) : (s.updCluster c f).devices = s.devices := rfl
@[simp] theorem State.updCluster_partitions (s : State) (c : Nat) (f : Cluster → Cluster) : (s.updCluster c f).partitions = s.partitions := rfl
@[simp] theorem State.updCluster_mem (s : State) (c : Nat) (f : Cluster → Cluster) : (s.updCluster c f).mem = s.mem := rfl
@[simp] theorem State.updCluster_feEmpty (s : State) (c : Nat) (f : Cluster → Cluster) : (s.updCluster c f).feEmpty = s.feEmpty := rfl
@[simp] theorem State.updCluster_poison (s : State) (c : Nat) (f : Cluster → Cluster) : (s.updCluster c f).poison = s.poison := rfl
@[simp] theorem State.updCluster_stores (s : State) (c : Nat) (f : Cluster → Cluster) : (s.updCluster c f).stores = s.stores := rfl
@[simp] theorem State.updCluster_sums (s : State) (c : Nat) (f : Cluster → Cluster) : (s.updCluster c f).sums = s.sums := rfl
@[simp] theorem State.updCluster_rel (s : State) (c : Nat) (f : Cluster → Cluster) : (s.updCluster c f).rel = s.rel := rfl
@[simp] theorem State.updCluster_l1 (s : State) (c : Nat) (f : Cluster → Cluster) : (s.updCluster c f).l1 = s.l1 := rfl
@[simp] theorem State.updCluster_il1 (s : State) (c : Nat) (f : Cluster → Cluster) : (s.updCluster c f).il1 = s.il1 := rfl
@[simp] theorem State.updCluster_rind (s : State) (c : Nat) (f : Cluster → Cluster) : (s.updCluster c f).rind = s.rind := rfl
@[simp] theorem State.updCluster_paste (s : State) (c : Nat) (f : Cluster → Cluster) : (s.updCluster c f).paste = s.paste := rfl
@[simp] theorem State.updCluster_fills (s : State) (c : Nat) (f : Cluster → Cluster) : (s.updCluster c f).fills = s.fills := rfl
@[simp] theorem State.updCluster_leases (s : State) (c : Nat) (f : Cluster → Cluster) : (s.updCluster c f).leases = s.leases := rfl
@[simp] theorem State.updCluster_pages (s : State) (c : Nat) (f : Cluster → Cluster) : (s.updCluster c f).pages = s.pages := rfl
@[simp] theorem State.updCluster_tlb (s : State) (c : Nat) (f : Cluster → Cluster) : (s.updCluster c f).tlb = s.tlb := rfl
@[simp] theorem State.updCluster_tickets (s : State) (c : Nat) (f : Cluster → Cluster) : (s.updCluster c f).tickets = s.tickets := rfl
@[simp] theorem State.updCluster_drops (s : State) (c : Nat) (f : Cluster → Cluster) : (s.updCluster c f).drops = s.drops := rfl
@[simp] theorem State.updCluster_watches (s : State) (c : Nat) (f : Cluster → Cluster) : (s.updCluster c f).watches = s.watches := rfl
@[simp] theorem State.updCluster_answers (s : State) (c : Nat) (f : Cluster → Cluster) : (s.updCluster c f).answers = s.answers := rfl
@[simp] theorem State.updCluster_waiters (s : State) (c : Nat) (f : Cluster → Cluster) : (s.updCluster c f).waiters = s.waiters := rfl
@[simp] theorem State.updCluster_barriers (s : State) (c : Nat) (f : Cluster → Cluster) : (s.updCluster c f).barriers = s.barriers := rfl
@[simp] theorem State.updCluster_saved (s : State) (c : Nat) (f : Cluster → Cluster) : (s.updCluster c f).saved = s.saved := rfl
@[simp] theorem State.updCluster_packets (s : State) (c : Nat) (f : Cluster → Cluster) : (s.updCluster c f).packets = s.packets := rfl
@[simp] theorem State.updCluster_pools (s : State) (c : Nat) (f : Cluster → Cluster) : (s.updCluster c f).pools = s.pools := rfl
@[simp] theorem State.updCluster_links (s : State) (c : Nat) (f : Cluster → Cluster) : (s.updCluster c f).links = s.links := rfl
@[simp] theorem State.updCluster_seqs (s : State) (c : Nat) (f : Cluster → Cluster) : (s.updCluster c f).seqs = s.seqs := rfl
@[simp] theorem State.updCluster_nextId (s : State) (c : Nat) (f : Cluster → Cluster) : (s.updCluster c f).nextId = s.nextId := rfl
@[simp] theorem State.updCluster_free (s : State) (c : Nat) (f : Cluster → Cluster) : (s.updCluster c f).free = s.free := rfl
@[simp] theorem State.updCluster_curT (s : State) (c : Nat) (f : Cluster → Cluster) : (s.updCluster c f).curT = s.curT := rfl
@[simp] theorem State.updCluster_curX (s : State) (c : Nat) (f : Cluster → Cluster) : (s.updCluster c f).curX = s.curX := rfl
@[simp] theorem State.updCluster_actor (s : State) (c : Nat) (f : Cluster → Cluster) : (s.updCluster c f).actor = s.actor := rfl
@[simp] theorem State.updCluster_item (s : State) (c : Nat) (f : Cluster → Cluster) : (s.updCluster c f).item = s.item := rfl
@[simp] theorem State.updCluster_agenda (s : State) (c : Nat) (f : Cluster → Cluster) : (s.updCluster c f).agenda = s.agenda := rfl

@[simp] theorem State.updDevice_threads (s : State) (d : Nat) (f : Device → Device) : (s.updDevice d f).threads = s.threads := rfl
@[simp] theorem State.updDevice_cores (s : State) (d : Nat) (f : Device → Device) : (s.updDevice d f).cores = s.cores := rfl
@[simp] theorem State.updDevice_clusters (s : State) (d : Nat) (f : Device → Device) : (s.updDevice d f).clusters = s.clusters := rfl
@[simp] theorem State.updDevice_partitions (s : State) (d : Nat) (f : Device → Device) : (s.updDevice d f).partitions = s.partitions := rfl
@[simp] theorem State.updDevice_mem (s : State) (d : Nat) (f : Device → Device) : (s.updDevice d f).mem = s.mem := rfl
@[simp] theorem State.updDevice_feEmpty (s : State) (d : Nat) (f : Device → Device) : (s.updDevice d f).feEmpty = s.feEmpty := rfl
@[simp] theorem State.updDevice_poison (s : State) (d : Nat) (f : Device → Device) : (s.updDevice d f).poison = s.poison := rfl
@[simp] theorem State.updDevice_stores (s : State) (d : Nat) (f : Device → Device) : (s.updDevice d f).stores = s.stores := rfl
@[simp] theorem State.updDevice_sums (s : State) (d : Nat) (f : Device → Device) : (s.updDevice d f).sums = s.sums := rfl
@[simp] theorem State.updDevice_rel (s : State) (d : Nat) (f : Device → Device) : (s.updDevice d f).rel = s.rel := rfl
@[simp] theorem State.updDevice_l1 (s : State) (d : Nat) (f : Device → Device) : (s.updDevice d f).l1 = s.l1 := rfl
@[simp] theorem State.updDevice_il1 (s : State) (d : Nat) (f : Device → Device) : (s.updDevice d f).il1 = s.il1 := rfl
@[simp] theorem State.updDevice_rind (s : State) (d : Nat) (f : Device → Device) : (s.updDevice d f).rind = s.rind := rfl
@[simp] theorem State.updDevice_paste (s : State) (d : Nat) (f : Device → Device) : (s.updDevice d f).paste = s.paste := rfl
@[simp] theorem State.updDevice_fills (s : State) (d : Nat) (f : Device → Device) : (s.updDevice d f).fills = s.fills := rfl
@[simp] theorem State.updDevice_leases (s : State) (d : Nat) (f : Device → Device) : (s.updDevice d f).leases = s.leases := rfl
@[simp] theorem State.updDevice_pages (s : State) (d : Nat) (f : Device → Device) : (s.updDevice d f).pages = s.pages := rfl
@[simp] theorem State.updDevice_tlb (s : State) (d : Nat) (f : Device → Device) : (s.updDevice d f).tlb = s.tlb := rfl
@[simp] theorem State.updDevice_tickets (s : State) (d : Nat) (f : Device → Device) : (s.updDevice d f).tickets = s.tickets := rfl
@[simp] theorem State.updDevice_drops (s : State) (d : Nat) (f : Device → Device) : (s.updDevice d f).drops = s.drops := rfl
@[simp] theorem State.updDevice_watches (s : State) (d : Nat) (f : Device → Device) : (s.updDevice d f).watches = s.watches := rfl
@[simp] theorem State.updDevice_answers (s : State) (d : Nat) (f : Device → Device) : (s.updDevice d f).answers = s.answers := rfl
@[simp] theorem State.updDevice_waiters (s : State) (d : Nat) (f : Device → Device) : (s.updDevice d f).waiters = s.waiters := rfl
@[simp] theorem State.updDevice_barriers (s : State) (d : Nat) (f : Device → Device) : (s.updDevice d f).barriers = s.barriers := rfl
@[simp] theorem State.updDevice_saved (s : State) (d : Nat) (f : Device → Device) : (s.updDevice d f).saved = s.saved := rfl
@[simp] theorem State.updDevice_packets (s : State) (d : Nat) (f : Device → Device) : (s.updDevice d f).packets = s.packets := rfl
@[simp] theorem State.updDevice_pools (s : State) (d : Nat) (f : Device → Device) : (s.updDevice d f).pools = s.pools := rfl
@[simp] theorem State.updDevice_links (s : State) (d : Nat) (f : Device → Device) : (s.updDevice d f).links = s.links := rfl
@[simp] theorem State.updDevice_seqs (s : State) (d : Nat) (f : Device → Device) : (s.updDevice d f).seqs = s.seqs := rfl
@[simp] theorem State.updDevice_nextId (s : State) (d : Nat) (f : Device → Device) : (s.updDevice d f).nextId = s.nextId := rfl
@[simp] theorem State.updDevice_free (s : State) (d : Nat) (f : Device → Device) : (s.updDevice d f).free = s.free := rfl
@[simp] theorem State.updDevice_curT (s : State) (d : Nat) (f : Device → Device) : (s.updDevice d f).curT = s.curT := rfl
@[simp] theorem State.updDevice_curX (s : State) (d : Nat) (f : Device → Device) : (s.updDevice d f).curX = s.curX := rfl
@[simp] theorem State.updDevice_actor (s : State) (d : Nat) (f : Device → Device) : (s.updDevice d f).actor = s.actor := rfl
@[simp] theorem State.updDevice_item (s : State) (d : Nat) (f : Device → Device) : (s.updDevice d f).item = s.item := rfl
@[simp] theorem State.updDevice_agenda (s : State) (d : Nat) (f : Device → Device) : (s.updDevice d f).agenda = s.agenda := rfl

@[simp] theorem State.setMy_cores (s : State) (st : Strand) : (s.setMy st).cores = s.cores := rfl
@[simp] theorem State.setMy_clusters (s : State) (st : Strand) : (s.setMy st).clusters = s.clusters := rfl
@[simp] theorem State.setMy_devices (s : State) (st : Strand) : (s.setMy st).devices = s.devices := rfl
@[simp] theorem State.setMy_partitions (s : State) (st : Strand) : (s.setMy st).partitions = s.partitions := rfl
@[simp] theorem State.setMy_mem (s : State) (st : Strand) : (s.setMy st).mem = s.mem := rfl
@[simp] theorem State.setMy_feEmpty (s : State) (st : Strand) : (s.setMy st).feEmpty = s.feEmpty := rfl
@[simp] theorem State.setMy_poison (s : State) (st : Strand) : (s.setMy st).poison = s.poison := rfl
@[simp] theorem State.setMy_stores (s : State) (st : Strand) : (s.setMy st).stores = s.stores := rfl
@[simp] theorem State.setMy_sums (s : State) (st : Strand) : (s.setMy st).sums = s.sums := rfl
@[simp] theorem State.setMy_rel (s : State) (st : Strand) : (s.setMy st).rel = s.rel := rfl
@[simp] theorem State.setMy_l1 (s : State) (st : Strand) : (s.setMy st).l1 = s.l1 := rfl
@[simp] theorem State.setMy_il1 (s : State) (st : Strand) : (s.setMy st).il1 = s.il1 := rfl
@[simp] theorem State.setMy_rind (s : State) (st : Strand) : (s.setMy st).rind = s.rind := rfl
@[simp] theorem State.setMy_paste (s : State) (st : Strand) : (s.setMy st).paste = s.paste := rfl
@[simp] theorem State.setMy_fills (s : State) (st : Strand) : (s.setMy st).fills = s.fills := rfl
@[simp] theorem State.setMy_leases (s : State) (st : Strand) : (s.setMy st).leases = s.leases := rfl
@[simp] theorem State.setMy_pages (s : State) (st : Strand) : (s.setMy st).pages = s.pages := rfl
@[simp] theorem State.setMy_tlb (s : State) (st : Strand) : (s.setMy st).tlb = s.tlb := rfl
@[simp] theorem State.setMy_tickets (s : State) (st : Strand) : (s.setMy st).tickets = s.tickets := rfl
@[simp] theorem State.setMy_drops (s : State) (st : Strand) : (s.setMy st).drops = s.drops := rfl
@[simp] theorem State.setMy_watches (s : State) (st : Strand) : (s.setMy st).watches = s.watches := rfl
@[simp] theorem State.setMy_answers (s : State) (st : Strand) : (s.setMy st).answers = s.answers := rfl
@[simp] theorem State.setMy_waiters (s : State) (st : Strand) : (s.setMy st).waiters = s.waiters := rfl
@[simp] theorem State.setMy_barriers (s : State) (st : Strand) : (s.setMy st).barriers = s.barriers := rfl
@[simp] theorem State.setMy_saved (s : State) (st : Strand) : (s.setMy st).saved = s.saved := rfl
@[simp] theorem State.setMy_packets (s : State) (st : Strand) : (s.setMy st).packets = s.packets := rfl
@[simp] theorem State.setMy_pools (s : State) (st : Strand) : (s.setMy st).pools = s.pools := rfl
@[simp] theorem State.setMy_links (s : State) (st : Strand) : (s.setMy st).links = s.links := rfl
@[simp] theorem State.setMy_seqs (s : State) (st : Strand) : (s.setMy st).seqs = s.seqs := rfl
@[simp] theorem State.setMy_nextId (s : State) (st : Strand) : (s.setMy st).nextId = s.nextId := rfl
@[simp] theorem State.setMy_free (s : State) (st : Strand) : (s.setMy st).free = s.free := rfl
@[simp] theorem State.setMy_curT (s : State) (st : Strand) : (s.setMy st).curT = s.curT := rfl
@[simp] theorem State.setMy_curX (s : State) (st : Strand) : (s.setMy st).curX = s.curX := rfl
@[simp] theorem State.setMy_actor (s : State) (st : Strand) : (s.setMy st).actor = s.actor := rfl
@[simp] theorem State.setMy_item (s : State) (st : Strand) : (s.setMy st).item = s.item := rfl
@[simp] theorem State.setMy_agenda (s : State) (st : Strand) : (s.setMy st).agenda = s.agenda := rfl

@[simp] theorem State.updMy_cores (s : State) (f : Strand → Strand) : (s.updMy f).cores = s.cores := rfl
@[simp] theorem State.updMy_clusters (s : State) (f : Strand → Strand) : (s.updMy f).clusters = s.clusters := rfl
@[simp] theorem State.updMy_devices (s : State) (f : Strand → Strand) : (s.updMy f).devices = s.devices := rfl
@[simp] theorem State.updMy_partitions (s : State) (f : Strand → Strand) : (s.updMy f).partitions = s.partitions := rfl
@[simp] theorem State.updMy_mem (s : State) (f : Strand → Strand) : (s.updMy f).mem = s.mem := rfl
@[simp] theorem State.updMy_feEmpty (s : State) (f : Strand → Strand) : (s.updMy f).feEmpty = s.feEmpty := rfl
@[simp] theorem State.updMy_poison (s : State) (f : Strand → Strand) : (s.updMy f).poison = s.poison := rfl
@[simp] theorem State.updMy_stores (s : State) (f : Strand → Strand) : (s.updMy f).stores = s.stores := rfl
@[simp] theorem State.updMy_sums (s : State) (f : Strand → Strand) : (s.updMy f).sums = s.sums := rfl
@[simp] theorem State.updMy_rel (s : State) (f : Strand → Strand) : (s.updMy f).rel = s.rel := rfl
@[simp] theorem State.updMy_l1 (s : State) (f : Strand → Strand) : (s.updMy f).l1 = s.l1 := rfl
@[simp] theorem State.updMy_il1 (s : State) (f : Strand → Strand) : (s.updMy f).il1 = s.il1 := rfl
@[simp] theorem State.updMy_rind (s : State) (f : Strand → Strand) : (s.updMy f).rind = s.rind := rfl
@[simp] theorem State.updMy_paste (s : State) (f : Strand → Strand) : (s.updMy f).paste = s.paste := rfl
@[simp] theorem State.updMy_fills (s : State) (f : Strand → Strand) : (s.updMy f).fills = s.fills := rfl
@[simp] theorem State.updMy_leases (s : State) (f : Strand → Strand) : (s.updMy f).leases = s.leases := rfl
@[simp] theorem State.updMy_pages (s : State) (f : Strand → Strand) : (s.updMy f).pages = s.pages := rfl
@[simp] theorem State.updMy_tlb (s : State) (f : Strand → Strand) : (s.updMy f).tlb = s.tlb := rfl
@[simp] theorem State.updMy_tickets (s : State) (f : Strand → Strand) : (s.updMy f).tickets = s.tickets := rfl
@[simp] theorem State.updMy_drops (s : State) (f : Strand → Strand) : (s.updMy f).drops = s.drops := rfl
@[simp] theorem State.updMy_watches (s : State) (f : Strand → Strand) : (s.updMy f).watches = s.watches := rfl
@[simp] theorem State.updMy_answers (s : State) (f : Strand → Strand) : (s.updMy f).answers = s.answers := rfl
@[simp] theorem State.updMy_waiters (s : State) (f : Strand → Strand) : (s.updMy f).waiters = s.waiters := rfl
@[simp] theorem State.updMy_barriers (s : State) (f : Strand → Strand) : (s.updMy f).barriers = s.barriers := rfl
@[simp] theorem State.updMy_saved (s : State) (f : Strand → Strand) : (s.updMy f).saved = s.saved := rfl
@[simp] theorem State.updMy_packets (s : State) (f : Strand → Strand) : (s.updMy f).packets = s.packets := rfl
@[simp] theorem State.updMy_pools (s : State) (f : Strand → Strand) : (s.updMy f).pools = s.pools := rfl
@[simp] theorem State.updMy_links (s : State) (f : Strand → Strand) : (s.updMy f).links = s.links := rfl
@[simp] theorem State.updMy_seqs (s : State) (f : Strand → Strand) : (s.updMy f).seqs = s.seqs := rfl
@[simp] theorem State.updMy_nextId (s : State) (f : Strand → Strand) : (s.updMy f).nextId = s.nextId := rfl
@[simp] theorem State.updMy_free (s : State) (f : Strand → Strand) : (s.updMy f).free = s.free := rfl
@[simp] theorem State.updMy_curT (s : State) (f : Strand → Strand) : (s.updMy f).curT = s.curT := rfl
@[simp] theorem State.updMy_curX (s : State) (f : Strand → Strand) : (s.updMy f).curX = s.curX := rfl
@[simp] theorem State.updMy_actor (s : State) (f : Strand → Strand) : (s.updMy f).actor = s.actor := rfl
@[simp] theorem State.updMy_item (s : State) (f : Strand → Strand) : (s.updMy f).item = s.item := rfl
@[simp] theorem State.updMy_agenda (s : State) (f : Strand → Strand) : (s.updMy f).agenda = s.agenda := rfl

@[simp] theorem State.next_cores (s : State) : (s.next).cores = s.cores := rfl
@[simp] theorem State.next_clusters (s : State) : (s.next).clusters = s.clusters := rfl
@[simp] theorem State.next_devices (s : State) : (s.next).devices = s.devices := rfl
@[simp] theorem State.next_partitions (s : State) : (s.next).partitions = s.partitions := rfl
@[simp] theorem State.next_mem (s : State) : (s.next).mem = s.mem := rfl
@[simp] theorem State.next_feEmpty (s : State) : (s.next).feEmpty = s.feEmpty := rfl
@[simp] theorem State.next_poison (s : State) : (s.next).poison = s.poison := rfl
@[simp] theorem State.next_stores (s : State) : (s.next).stores = s.stores := rfl
@[simp] theorem State.next_sums (s : State) : (s.next).sums = s.sums := rfl
@[simp] theorem State.next_rel (s : State) : (s.next).rel = s.rel := rfl
@[simp] theorem State.next_l1 (s : State) : (s.next).l1 = s.l1 := rfl
@[simp] theorem State.next_il1 (s : State) : (s.next).il1 = s.il1 := rfl
@[simp] theorem State.next_rind (s : State) : (s.next).rind = s.rind := rfl
@[simp] theorem State.next_paste (s : State) : (s.next).paste = s.paste := rfl
@[simp] theorem State.next_fills (s : State) : (s.next).fills = s.fills := rfl
@[simp] theorem State.next_leases (s : State) : (s.next).leases = s.leases := rfl
@[simp] theorem State.next_pages (s : State) : (s.next).pages = s.pages := rfl
@[simp] theorem State.next_tlb (s : State) : (s.next).tlb = s.tlb := rfl
@[simp] theorem State.next_tickets (s : State) : (s.next).tickets = s.tickets := rfl
@[simp] theorem State.next_drops (s : State) : (s.next).drops = s.drops := rfl
@[simp] theorem State.next_watches (s : State) : (s.next).watches = s.watches := rfl
@[simp] theorem State.next_answers (s : State) : (s.next).answers = s.answers := rfl
@[simp] theorem State.next_waiters (s : State) : (s.next).waiters = s.waiters := rfl
@[simp] theorem State.next_barriers (s : State) : (s.next).barriers = s.barriers := rfl
@[simp] theorem State.next_saved (s : State) : (s.next).saved = s.saved := rfl
@[simp] theorem State.next_packets (s : State) : (s.next).packets = s.packets := rfl
@[simp] theorem State.next_pools (s : State) : (s.next).pools = s.pools := rfl
@[simp] theorem State.next_links (s : State) : (s.next).links = s.links := rfl
@[simp] theorem State.next_seqs (s : State) : (s.next).seqs = s.seqs := rfl
@[simp] theorem State.next_nextId (s : State) : (s.next).nextId = s.nextId := rfl
@[simp] theorem State.next_free (s : State) : (s.next).free = s.free := rfl
@[simp] theorem State.next_curT (s : State) : (s.next).curT = s.curT := rfl
@[simp] theorem State.next_curX (s : State) : (s.next).curX = s.curX := rfl
@[simp] theorem State.next_actor (s : State) : (s.next).actor = s.actor := rfl
@[simp] theorem State.next_item (s : State) : (s.next).item = s.item := rfl
@[simp] theorem State.next_agenda (s : State) : (s.next).agenda = s.agenda := rfl

@[simp] theorem State.block_cores (s : State) (t : Nat) (x : Side) (w : Cond) : (s.block t x w).cores = s.cores := rfl
@[simp] theorem State.block_clusters (s : State) (t : Nat) (x : Side) (w : Cond) : (s.block t x w).clusters = s.clusters := rfl
@[simp] theorem State.block_devices (s : State) (t : Nat) (x : Side) (w : Cond) : (s.block t x w).devices = s.devices := rfl
@[simp] theorem State.block_partitions (s : State) (t : Nat) (x : Side) (w : Cond) : (s.block t x w).partitions = s.partitions := rfl
@[simp] theorem State.block_mem (s : State) (t : Nat) (x : Side) (w : Cond) : (s.block t x w).mem = s.mem := rfl
@[simp] theorem State.block_feEmpty (s : State) (t : Nat) (x : Side) (w : Cond) : (s.block t x w).feEmpty = s.feEmpty := rfl
@[simp] theorem State.block_poison (s : State) (t : Nat) (x : Side) (w : Cond) : (s.block t x w).poison = s.poison := rfl
@[simp] theorem State.block_stores (s : State) (t : Nat) (x : Side) (w : Cond) : (s.block t x w).stores = s.stores := rfl
@[simp] theorem State.block_sums (s : State) (t : Nat) (x : Side) (w : Cond) : (s.block t x w).sums = s.sums := rfl
@[simp] theorem State.block_rel (s : State) (t : Nat) (x : Side) (w : Cond) : (s.block t x w).rel = s.rel := rfl
@[simp] theorem State.block_l1 (s : State) (t : Nat) (x : Side) (w : Cond) : (s.block t x w).l1 = s.l1 := rfl
@[simp] theorem State.block_il1 (s : State) (t : Nat) (x : Side) (w : Cond) : (s.block t x w).il1 = s.il1 := rfl
@[simp] theorem State.block_rind (s : State) (t : Nat) (x : Side) (w : Cond) : (s.block t x w).rind = s.rind := rfl
@[simp] theorem State.block_paste (s : State) (t : Nat) (x : Side) (w : Cond) : (s.block t x w).paste = s.paste := rfl
@[simp] theorem State.block_fills (s : State) (t : Nat) (x : Side) (w : Cond) : (s.block t x w).fills = s.fills := rfl
@[simp] theorem State.block_leases (s : State) (t : Nat) (x : Side) (w : Cond) : (s.block t x w).leases = s.leases := rfl
@[simp] theorem State.block_pages (s : State) (t : Nat) (x : Side) (w : Cond) : (s.block t x w).pages = s.pages := rfl
@[simp] theorem State.block_tlb (s : State) (t : Nat) (x : Side) (w : Cond) : (s.block t x w).tlb = s.tlb := rfl
@[simp] theorem State.block_tickets (s : State) (t : Nat) (x : Side) (w : Cond) : (s.block t x w).tickets = s.tickets := rfl
@[simp] theorem State.block_drops (s : State) (t : Nat) (x : Side) (w : Cond) : (s.block t x w).drops = s.drops := rfl
@[simp] theorem State.block_watches (s : State) (t : Nat) (x : Side) (w : Cond) : (s.block t x w).watches = s.watches := rfl
@[simp] theorem State.block_answers (s : State) (t : Nat) (x : Side) (w : Cond) : (s.block t x w).answers = s.answers := rfl
@[simp] theorem State.block_waiters (s : State) (t : Nat) (x : Side) (w : Cond) : (s.block t x w).waiters = s.waiters := rfl
@[simp] theorem State.block_barriers (s : State) (t : Nat) (x : Side) (w : Cond) : (s.block t x w).barriers = s.barriers := rfl
@[simp] theorem State.block_saved (s : State) (t : Nat) (x : Side) (w : Cond) : (s.block t x w).saved = s.saved := rfl
@[simp] theorem State.block_packets (s : State) (t : Nat) (x : Side) (w : Cond) : (s.block t x w).packets = s.packets := rfl
@[simp] theorem State.block_pools (s : State) (t : Nat) (x : Side) (w : Cond) : (s.block t x w).pools = s.pools := rfl
@[simp] theorem State.block_links (s : State) (t : Nat) (x : Side) (w : Cond) : (s.block t x w).links = s.links := rfl
@[simp] theorem State.block_seqs (s : State) (t : Nat) (x : Side) (w : Cond) : (s.block t x w).seqs = s.seqs := rfl
@[simp] theorem State.block_nextId (s : State) (t : Nat) (x : Side) (w : Cond) : (s.block t x w).nextId = s.nextId := rfl
@[simp] theorem State.block_free (s : State) (t : Nat) (x : Side) (w : Cond) : (s.block t x w).free = s.free := rfl
@[simp] theorem State.block_curT (s : State) (t : Nat) (x : Side) (w : Cond) : (s.block t x w).curT = s.curT := rfl
@[simp] theorem State.block_curX (s : State) (t : Nat) (x : Side) (w : Cond) : (s.block t x w).curX = s.curX := rfl
@[simp] theorem State.block_actor (s : State) (t : Nat) (x : Side) (w : Cond) : (s.block t x w).actor = s.actor := rfl
@[simp] theorem State.block_item (s : State) (t : Nat) (x : Side) (w : Cond) : (s.block t x w).item = s.item := rfl
@[simp] theorem State.block_agenda (s : State) (t : Nat) (x : Side) (w : Cond) : (s.block t x w).agenda = s.agenda := rfl

/-! ### Parts read after an update -/

@[simp] theorem State.thread_setThread (s : State) (t : Nat) (th : Thread) : (s.setThread t th).thread t = th := by
  simp [State.thread, State.setThread]
theorem State.thread_setThread_ne (s : State) {t u : Nat} (th : Thread) (h : u ≠ t) :
    (s.setThread t th).thread u = s.thread u := by simp [State.thread, State.setThread, tget_tset_ne _ _ h]
@[simp] theorem State.core_setCore (s : State) (k : Nat) (c : Core) : (s.setCore k c).core k = c := by
  simp [State.core, State.setCore]
theorem State.core_setCore_ne (s : State) {k j : Nat} (c : Core) (h : j ≠ k) : (s.setCore k c).core j = s.core j := by
  simp [State.core, State.setCore, tget_tset_ne _ _ h]
@[simp] theorem State.cluster_setCluster (s : State) (c : Nat) (cl : Cluster) : (s.setCluster c cl).cluster c = cl := by
  simp [State.cluster, State.setCluster]
theorem State.cluster_setCluster_ne (s : State) {c b : Nat} (cl : Cluster) (h : b ≠ c) :
    (s.setCluster c cl).cluster b = s.cluster b := by simp [State.cluster, State.setCluster, tget_tset_ne _ _ h]
@[simp] theorem State.device_setDevice (s : State) (d : Nat) (dv : Device) : (s.setDevice d dv).device d = dv := by
  simp [State.device, State.setDevice]
theorem State.device_setDevice_ne (s : State) {d b : Nat} (dv : Device) (h : b ≠ d) :
    (s.setDevice d dv).device b = s.device b := by simp [State.device, State.setDevice, tget_tset_ne _ _ h]

@[simp] theorem Thread.strand_setStrand (th : Thread) (x : Side) (st : Strand) : (th.setStrand x st).strand x = st := by
  cases x <;> rfl
theorem Thread.strand_setStrand_ne (th : Thread) {x y : Side} (st : Strand) (h : y ≠ x) :
    (th.setStrand x st).strand y = th.strand y := by
  cases x <;> cases y <;> first | rfl | exact absurd rfl h
@[simp] theorem State.strand_setStrand (s : State) (t : Nat) (x : Side) (st : Strand) :
    (s.setStrand t x st).strand t x = st := by simp [State.strand, State.setStrand]
@[simp] theorem State.strand_updStrand (s : State) (t : Nat) (x : Side) (f : Strand → Strand) :
    (s.updStrand t x f).strand t x = f (s.strand t x) := by simp [State.updStrand]
@[simp] theorem State.my_updMy (s : State) (f : Strand → Strand) : (s.updMy f).my = f s.my :=
  State.strand_setStrand s s.curT s.curX (f s.my)
@[simp] theorem State.my_next (s : State) : s.next.my = s.my.advance := State.my_updMy s Strand.advance
theorem State.thread_updStrand_ne (s : State) {t u : Nat} (x : Side) (f : Strand → Strand) (h : u ≠ t) :
    (s.updStrand t x f).thread u = s.thread u := State.thread_setThread_ne s _ h

/-! ### Registers -/

/-- s0 reads zero (R60). -/
@[simp] theorem Strand.getS_zero (st : Strand) : st.getS 0 = 0 := rfl
theorem Strand.getS_setS_self (st : Strand) {n : Nat} (v : Word) (h0 : n ≠ 0) (h : n < 64) : (st.setS n v).getS n = v := by
  simp [Strand.getS, Strand.setS, h0, h]
theorem Strand.getS_setS_ne (st : Strand) {n m : Nat} (v : Word) (h : m ≠ n) : (st.setS n v).getS m = st.getS m := by
  by_cases h0 : n = 0
  · simp [Strand.setS, h0]
  · simp [Strand.getS, Strand.setS, h0, Vector.getElem?_setIfInBounds_ne (Ne.symm h)]
theorem Strand.getP_setP_self (st : Strand) {n : Nat} (v : PReg) (h0 : n ≠ 0) (h : n < 16) : (st.setP n v).getP n = v := by
  simp [Strand.getP, Strand.setP, h0, h]
theorem Strand.getP_setP_ne (st : Strand) {n m : Nat} (v : PReg) (h : m ≠ n) : (st.setP n v).getP m = st.getP m := by
  by_cases h0 : n = 0
  · simp [Strand.setP, h0]
  · simp [Strand.getP, Strand.setP, h0, Vector.getElem?_setIfInBounds_ne (Ne.symm h)]
/-- p0 reads all ones (R60). -/
@[simp] theorem Strand.getP_zero (st : Strand) : st.getP 0 = BitVec.allOnes 256 := rfl
/-- A write to s0 is discarded (R60). -/
@[simp] theorem Strand.setS_zero (st : Strand) (v : Word) : st.setS 0 v = st := rfl
/-- A write to p0 is discarded (R60). -/
@[simp] theorem Strand.setP_zero (st : Strand) (v : PReg) : st.setP 0 v = st := rfl
@[simp] theorem Strand.advance_pc (st : Strand) : st.advance.pc = st.pc + 12 := rfl
@[simp] theorem Strand.goTo_pc (st : Strand) (a : Word) : (st.goTo a).pc = a := rfl
@[simp] theorem Strand.advance_getS (st : Strand) (n : Nat) : st.advance.getS n = st.getS n := rfl
@[simp] theorem Strand.advance_getP (st : Strand) (n : Nat) : st.advance.getP n = st.getP n := rfl

end Sys2Proof.Machine
end

