-- ==== Sys2Proof/Laws/Issue.lean ====
section
/-! SUPPORT. What issuing an instruction can do: every meaning of an instruction row is one call of `issue`, and these
lemmas say once what that call answers. -/

namespace Sys2Proof.Machine

/-- Every row with a description is issued under that description. -/
theorem exec_row {i : Instr} {s : State} {e : Enc} {d : Desc} (h : describe s.me.acc i = some (e, d)) :
    ∃ body : State → Except Stop State, exec i s = issue d e s body := by
  cases i <;> first | (cases h; exact ⟨_, rfl⟩) | cases h

/-- An accepted instruction has its own effect on the state that the wait mask leaves, or its own trap or wait. -/
theorem issue_accept {i : Instr} {s s1 : State} {e : Enc} {d : Desc} {body : State → Except Stop State}
    (hd : describe s.me.acc i = some (e, d)) (h : accept i s = some s1) :
    issue d e s body = .next (s.settle s.curT s.curX (body s1)) := by
  unfold accept at h
  rw [hd] at h
  unfold issue runChecked
  split at h
  case h_2 => cases h
  case h_1 e' d' th hq ht =>
    cases hq
    rw [ht]
    split at h
    case h_2 => cases h
    case h_1 s2 hc hw =>
      simp only [hc, hw]
      split at h
      · cases h
      · cases h; rw [if_neg ‹_›]

/-- The form that the completion statements use: the body answers a state. -/
theorem issue_accept_ok {i : Instr} {s s1 t : State} {e : Enc} {d : Desc} {body : State → Except Stop State}
    (hd : describe s.me.acc i = some (e, d)) (h : accept i s = some s1) (hb : body s1 = .ok t) :
    issue d e s body = .next t := by
  rw [issue_accept hd h, hb]; rfl

/-- A failing check of R69 steps 1 to 5 raises its cause. -/
theorem issue_check {s : State} {e : Enc} {d : Desc} {body : State → Except Stop State} {th : Thread} {c : Cause}
    (ht : s.thread? s.curT = some th) (h : d.check e s.me s.curX = some c) :
    issue d e s body = .next (s.raise s.curT s.curX (TrapInfo.plain c)) := by
  unfold issue runChecked
  simp only [ht, h]
  rfl

/-- With no token in the way and a clear guard, an instruction that is not a vector instruction only advances. -/
theorem issue_guard {s s1 : State} {e : Enc} {d : Desc} {body : State → Except Stop State} {th : Thread}
    (ht : s.thread? s.curT = some th) (hc : d.check e s.me s.curX = none) (hw : s.waitMask e.wm = .ok s1)
    (hv : d.vec = false) (hg : s1.my.guardOn e = false) :
    issue d e s body = .next s1.next := by
  unfold issue runChecked
  simp only [ht, hc, hw, hv, hg]
  rfl

/-- A token of the wait mask that stands in the way stops the instruction before its guard. -/
theorem issue_mask {s : State} {e : Enc} {d : Desc} {body : State → Except Stop State} {th : Thread} {x : Stop}
    (ht : s.thread? s.curT = some th) (hc : d.check e s.me s.curX = none) (hw : s.waitMask e.wm = .error x) :
    issue d e s body = .next (s.settle s.curT s.curX (.error x)) := by
  unfold issue runChecked
  simp only [ht, hc, hw]

/-- Issuing answers a next state wherever the issuing strand exists, and never a refusal. -/
theorem issue_next {s : State} (d : Desc) (e : Enc) (body : State → Except Stop State) {th : Thread}
    (ht : s.thread? s.curT = some th) : ∃ t, issue d e s body = .next t := by
  unfold issue
  simp only [ht]
  exact ⟨_, rfl⟩

theorem issue_noStrand {s : State} (d : Desc) (e : Enc) (body : State → Except Stop State)
    (ht : s.thread? s.curT = none) : issue d e s body = .fault .noStrand := by
  unfold issue
  simp only [ht]

/-- Reading off what acceptance says. -/
theorem accept_cases {i : Instr} {s s1 : State} (h : accept i s = some s1) :
    ∃ e d th, describe s.me.acc i = some (e, d) ∧ s.thread? s.curT = some th ∧ d.check e s.me s.curX = none ∧
      s.waitMask e.wm = .ok s1 ∧ (d.vec = true ∨ s1.my.guardOn e = true) := by
  unfold accept at h
  split at h
  case h_2 => cases h
  case h_1 e d th hq ht =>
    split at h
    case h_2 => cases h
    case h_1 s2 hc hw =>
      split at h
      · cases h
      · cases h
        refine ⟨e, d, th, hq, ht, hc, hw, ?_⟩
        rename_i hn
        revert hn
        cases d.vec <;> cases s1.my.guardOn e <;> simp

end Sys2Proof.Machine
end

