-- ==== Sys2Proof/Laws/Memory.lean ====
section
/-! SUPPORT. Memory by keys: what a byte reads as after each operation, and that every operation keeps the canonical
form. -/

namespace Sys2Proof.Machine

/-! ### The canonical form -/

/-- The canonical form in two parts: keys strictly rise, and no cell holds what an unlisted key reads as. -/
theorem memWf_iff (m : List Host.Cell) :
    memWf m = true ↔ m.Pairwise (fun a b => a.1 < b.1) ∧ ∀ c ∈ m, c.2 ≠ emptyByte := by
  induction m with
  | nil => simp [memWf]
  | cons p r ih =>
    obtain ⟨a, b⟩ := p
    cases r with
    | nil => simp [memWf]
    | cons q r =>
      obtain ⟨c, d⟩ := q
      rw [memWf, Bool.and_eq_true, Bool.and_eq_true, ih]
      simp only [bne_iff_ne, decide_eq_true_eq, List.pairwise_cons, List.mem_cons, forall_eq_or_imp]
      constructor
      · rintro ⟨⟨h1, h2⟩, ⟨h3, h4⟩, h5, h6⟩
        exact ⟨⟨⟨h2, fun x hx => Nat.lt_trans h2 (h3 x hx)⟩, h3, h4⟩, h1, h5, h6⟩
      · rintro ⟨⟨⟨h1, _⟩, h3, h4⟩, h5, h6, h7⟩
        exact ⟨⟨h5, h1⟩, ⟨h3, h4⟩, h6, h7⟩

@[simp] theorem memWf_nil : memWf [] = true := rfl

theorem memWf_tail {p : Host.Cell} {m : List Host.Cell} (h : memWf (p :: m) = true) : memWf m = true := by
  rw [memWf_iff] at *
  exact ⟨(List.pairwise_cons.mp h.1).2, fun c hc => h.2 c (List.mem_cons_of_mem p hc)⟩

@[simp] theorem memWf_filter {m : List Host.Cell} (f : Host.Cell → Bool) (h : memWf m = true) : memWf (m.filter f) = true := by
  rw [memWf_iff] at *
  exact ⟨h.1.filter f, fun c hc => h.2 c (List.mem_filter.mp hc).1⟩

/-! ### One byte -/

/-- A key below every listed one reads as an unlisted key does. -/
theorem memGet_low (m : List Host.Cell) (k : Nat) (h : ∀ c ∈ m, k < c.1) : memGet m k = emptyByte := by
  cases m with
  | nil => rfl
  | cons p r =>
    obtain ⟨a, b⟩ := p
    have : k < a := h (a, b) (List.mem_cons_self ..)
    simp only [memGet]
    rw [if_neg (by omega), if_pos this]

/-- A byte written reads as the value written. -/
theorem memGet_memSet_self {m : List Host.Cell} (h : memWf m = true) (k : Nat) (v : Byte) : memGet (memSet m k v) k = v := by
  induction m with
  | nil =>
    by_cases g : v = emptyByte <;> simp [memSet, memGet, g]
  | cons p r ih =>
    obtain ⟨a, b⟩ := p
    have hp := List.pairwise_cons.mp ((memWf_iff _).mp h).1
    by_cases e : a = k
    · subst e
      by_cases g : v = emptyByte
      · simp only [memSet, if_true, g]
        exact memGet_low r a hp.1
      · simp [memSet, memGet, g]
    · by_cases l : k < a
      · by_cases g : v = emptyByte
        · simp [memSet, memGet, e, l, g]
        · simp [memSet, memGet, e, l, g]
      · simp only [memSet, if_neg e, if_neg l, memGet]
        exact ih (memWf_tail h)

/-- A byte written leaves every other byte alone. -/
theorem memGet_memSet_ne {m : List Host.Cell} (h : memWf m = true) {k j : Nat} (v : Byte) (hne : j ≠ k) :
    memGet (memSet m k v) j = memGet m j := by
  induction m with
  | nil =>
    by_cases g : v = emptyByte
    · simp [memSet, memGet, g]
    · simp only [memSet, if_neg g, memGet, if_neg (Ne.symm hne)]
      split <;> rfl
  | cons p r ih =>
    obtain ⟨a, b⟩ := p
    have hp := List.pairwise_cons.mp ((memWf_iff _).mp h).1
    by_cases e : a = k
    · subst e
      by_cases g : v = emptyByte
      · simp only [memSet, if_true, g, memGet, if_neg (Ne.symm hne)]
        split
        · exact memGet_low r j (fun c hc => Nat.lt_trans ‹_› (hp.1 c hc))
        · rfl
      · simp [memSet, memGet, g, Ne.symm hne]
    · by_cases l : k < a
      · by_cases g : v = emptyByte
        · simp [memSet, e, l, g]
        · simp only [memSet, if_neg e, if_pos l, if_neg g, memGet, if_neg (Ne.symm hne)]
          split
          · rename_i hj
            rw [if_neg (by omega), if_pos (by omega)]
          · rfl
      · simp only [memSet, if_neg e, if_neg l, memGet, ih (memWf_tail h)]

/-- Keys that a write of one byte lists. -/
theorem mem_memSet {m : List Host.Cell} {k : Nat} {v : Byte} {c : Host.Cell} (h : c ∈ memSet m k v) :
    c ∈ m ∨ (c.1 = k ∧ c.2 = v ∧ v ≠ emptyByte) := by
  induction m with
  | nil =>
    by_cases g : v = emptyByte
    · simp [memSet, g] at h
    · simp only [memSet, if_neg g, List.mem_singleton] at h
      exact .inr ⟨by rw [h], by rw [h], g⟩
  | cons p r ih =>
    obtain ⟨a, b⟩ := p
    simp only [memSet] at h
    split at h
    · split at h
      · exact .inl (List.mem_cons_of_mem _ h)
      · rcases List.mem_cons.mp h with h | h
        · exact .inr ⟨by rw [h], by rw [h], ‹_›⟩
        · exact .inl (List.mem_cons_of_mem _ h)
    · split at h
      · split at h
        · exact .inl h
        · rcases List.mem_cons.mp h with h | h
          · exact .inr ⟨by rw [h], by rw [h], ‹_›⟩
          · exact .inl h
      · rcases List.mem_cons.mp h with h | h
        · exact .inl (h ▸ List.mem_cons_self ..)
        · rcases ih h with h | h
          · exact .inl (List.mem_cons_of_mem _ h)
          · exact .inr h

/-- A write of one byte keeps the canonical form. -/
@[simp] theorem memWf_memSet {m : List Host.Cell} (h : memWf m = true) (k : Nat) (v : Byte) : memWf (memSet m k v) = true := by
  induction m with
  | nil =>
    by_cases g : v = emptyByte <;> simp [memSet, memWf, g]
  | cons p r ih =>
    obtain ⟨a, b⟩ := p
    have hw := (memWf_iff _).mp h
    have hp := List.pairwise_cons.mp hw.1
    have hr := memWf_tail h
    rw [memWf_iff]
    simp only [memSet]
    split
    · subst_vars
      split
      · exact (memWf_iff _).mp hr
      · refine ⟨List.pairwise_cons.mpr ⟨hp.1, hp.2⟩, ?_⟩
        intro c hc
        rcases List.mem_cons.mp hc with hc | hc
        · rw [hc]; assumption
        · exact hw.2 c (List.mem_cons_of_mem _ hc)
    · split
      · split
        · exact hw
        · refine ⟨List.pairwise_cons.mpr ⟨?_, hw.1⟩, ?_⟩
          · intro c hc
            rcases List.mem_cons.mp hc with hc | hc
            · rw [hc]; assumption
            · exact Nat.lt_trans ‹_› (hp.1 c hc)
          · intro c hc
            rcases List.mem_cons.mp hc with hc | hc
            · rw [hc]; assumption
            · exact hw.2 c hc
      · have hs := (memWf_iff _).mp (ih hr)
        refine ⟨List.pairwise_cons.mpr ⟨?_, hs.1⟩, ?_⟩
        · intro c hc
          rcases mem_memSet hc with hc | ⟨hc, _⟩
          · exact hp.1 c hc
          · show a < c.1
            omega
        · intro c hc
          rcases List.mem_cons.mp hc with hc | hc
          · exact hw.2 c (hc ▸ List.mem_cons_self ..)
          · exact hs.2 c hc

/-! ### Runs of bytes -/

/-- A write of bytes keeps the canonical form. -/
@[simp] theorem memWf_memWrite {m : List Host.Cell} (h : memWf m = true) (k : Nat) (l : List Byte) : memWf (memWrite m k l) = true := by
  induction l generalizing m k with
  | nil => exact h
  | cons b r ih => exact ih (memWf_memSet h k b) (k + 1)

/-- A write of bytes leaves every byte outside its run alone. -/
theorem memGet_memWrite_out {m : List Host.Cell} (h : memWf m = true) {k j : Nat} (l : List Byte)
    (hj : j < k ∨ k + l.length ≤ j) : memGet (memWrite m k l) j = memGet m j := by
  induction l generalizing m k with
  | nil => rfl
  | cons b r ih =>
    simp only [List.length_cons] at hj
    rw [memWrite, ih (memWf_memSet h k b) (by omega), memGet_memSet_ne h b (by omega)]

/-- A byte of a run written reads as the byte written. -/
theorem memGet_memWrite_in {m : List Host.Cell} (h : memWf m = true) {k i : Nat} (l : List Byte) (hi : i < l.length) :
    memGet (memWrite m k l) (k + i) = l[i] := by
  induction l generalizing m k i with
  | nil => exact absurd hi (Nat.not_lt_zero i)
  | cons b r ih =>
    cases i with
    | zero =>
      rw [memWrite, memGet_memWrite_out (memWf_memSet h k b) r (by omega)]
      exact memGet_memSet_self h k b
    | succ i =>
      have := ih (memWf_memSet h k b) (k := k + 1) (i := i) (by simpa using hi)
      rw [memWrite]
      simpa [Nat.add_assoc, Nat.add_comm 1 i] using this

@[simp] theorem memRead_length (m : List Host.Cell) (k n : Nat) : (memRead m k n).length = n := by
  induction n generalizing k with
  | zero => rfl
  | succ n ih => simp [memRead, ih]

/-- A run of bytes reads as it was written. -/
theorem memRead_memWrite {m : List Host.Cell} (h : memWf m = true) (k : Nat) (l : List Byte) :
    memRead (memWrite m k l) k l.length = l := by
  induction l generalizing m k with
  | nil => rfl
  | cons b r ih =>
    have h0 : memGet (memWrite (memSet m k b) (k + 1) r) k = b := by
      rw [memGet_memWrite_out (memWf_memSet h k b) r (by omega)]
      exact memGet_memSet_self h k b
    simp only [List.length_cons, memRead, memWrite, h0, ih (memWf_memSet h k b)]

/-! ### Ranges -/

theorem memWf_memBelow {m : List Host.Cell} (h : memWf m = true) (k : Nat) : memWf (memBelow m k) = true := memWf_filter _ h
theorem memWf_memFrom {m : List Host.Cell} (h : memWf m = true) (k : Nat) : memWf (memFrom m k) = true := memWf_filter _ h

/-- A range replaced keeps the canonical form. -/
@[simp] theorem memWf_memPut {m cells : List Host.Cell} (h : memWf m = true) (hc : memWf cells = true) (k n : Nat) :
    memWf (memPut m k n cells) = true := by
  have a := (memWf_iff _).mp (memWf_memBelow h k)
  have b := (memWf_iff _).mp (memWf_memBelow (memWf_memFrom hc k) (k + n))
  have c := (memWf_iff _).mp (memWf_memFrom h (k + n))
  rw [memWf_iff, memPut]
  constructor
  · rw [List.pairwise_append, List.pairwise_append]
    refine ⟨⟨a.1, b.1, ?_⟩, c.1, ?_⟩
    · intro x hx y hy
      simp only [memBelow, memFrom, List.mem_filter, decide_eq_true_eq] at hx hy
      omega
    · intro x hx y hy
      simp only [memBelow, memFrom, List.mem_append, List.mem_filter, decide_eq_true_eq] at hx hy
      omega
  · intro x hx
    rw [List.mem_append, List.mem_append] at hx
    rcases hx with (hx | hx) | hx
    · exact a.2 x hx
    · exact b.2 x hx
    · exact c.2 x hx

/-- Cells moved keep the canonical form. -/
@[simp] theorem memWf_memMoved {m : List Host.Cell} (h : memWf m = true) (src dst n : Nat) : memWf (memMoved m src dst n) = true := by
  have a := (memWf_iff _).mp (memWf_memBelow (memWf_memFrom h src) (src + n))
  rw [memWf_iff, memMoved]
  constructor
  · rw [List.pairwise_map]
    refine List.Pairwise.imp_of_mem ?_ a.1
    intro x y hx hy hlt
    simp only [memBelow, memFrom, List.mem_filter, decide_eq_true_eq] at hx hy
    show x.1 - src + dst < y.1 - src + dst
    omega
  · intro c hc
    obtain ⟨x, hx, rfl⟩ := List.mem_map.mp hc
    exact a.2 x hx

@[simp] theorem memWf_memCopy {m : List Host.Cell} (h : memWf m = true) (src dst n : Nat) : memWf (memCopy m src dst n) = true :=
  memWf_memPut h (memWf_memMoved h src dst n) dst n

@[simp] theorem memWf_memClear {m : List Host.Cell} (h : memWf m = true) (k n : Nat) : memWf (memClear m k n) = true :=
  memWf_memPut h memWf_nil k n

/-- A cleared byte reads as an unlisted key does. -/
theorem memGet_filter_out (m : List Host.Cell) (f : Host.Cell → Bool) (k : Nat) (hf : ∀ c ∈ m, c.1 = k → f c = false) :
    memGet (m.filter f) k = emptyByte := by
  induction m with
  | nil => rfl
  | cons p r ih =>
    obtain ⟨a, b⟩ := p
    have hr := ih (fun c hc => hf c (List.mem_cons_of_mem _ hc))
    by_cases g : f (a, b) = true
    · have hne : a ≠ k := by
        intro e
        have := hf (a, b) (List.mem_cons_self ..) e
        rw [this] at g
        exact absurd g (by simp)
      rw [List.filter_cons_of_pos g]
      simp only [memGet, if_neg hne, hr]
      split <;> rfl
    · rw [List.filter_cons_of_neg g]
      exact hr

/-- Cells of a run of bytes are in the canonical form. -/
@[simp] theorem memWf_cellsOf (k : Nat) (l : List Byte) : memWf (cellsOf k l) = true := by
  rw [memWf_iff, cellsOf]
  constructor
  · rw [List.pairwise_filterMap]
    have hz : (l.zipIdx).Pairwise (fun a b => a.2 < b.2) := by
      rw [List.pairwise_iff_getElem]
      intro i j hi hj hij
      simp only [List.getElem_zipIdx]
      omega
    refine hz.imp ?_
    intro a b hab c hc d hd
    split at hc
    · exact absurd hc (by simp)
    · split at hd
      · exact absurd hd (by simp)
      · simp only [Option.some.injEq] at hc hd
        rw [← hc, ← hd]
        show k + a.2 < k + b.2
        omega
  · intro c hc
    obtain ⟨p, _, hp⟩ := List.mem_filterMap.mp hc
    split at hp
    · exact absurd hp (by simp)
    · simp only [Option.some.injEq] at hp
      rw [← hp]
      assumption

/-- The state after reset has the canonical form. -/
theorem memOk_reset : State.reset.memOk = true := rfl

end Sys2Proof.Machine
end

