-- ==== Sys2Proof/Laws/Frame.lean ====
section
/-! SUPPORT. What the shared operations of a row leave as it was: the wait mask, reading sources, retiring. -/

namespace Sys2Proof.Machine

/-- The registers of a strand, its PC and bookkeeping blanked. -/
def Strand.visible (st : Strand) : Strand :=
  { st with pc := 0, status := .ready, pend := [], order := 0, trap := none, flight := none, nextIssue := 0
            fenceRel := [], obs := [], homes := [], acquire := [] }

/-- The registers that a thread's strands share, its strands and queues and whether it has ended blanked. -/
def Thread.shared (th : Thread) : Thread :=
  { th with a := Strand.zero, x := Strand.zero, q := Vector.replicate 16 [], ended := false }

theorem Strand.keptOrResumed.trans {p q : Prop} {a b c : Strand} (h : a.keptOrResumed p b) (h' : b.keptOrResumed q c) :
    a.keptOrResumed (p ∨ q) c := by
  rcases h with rfl | ⟨hp, hm, rfl⟩ <;> rcases h' with rfl | ⟨hq, ⟨m, hm'⟩, rfl⟩
  · exact .inl rfl
  · exact .inr ⟨.inr hq, ⟨m, hm'⟩, rfl⟩
  · exact .inr ⟨.inl hp, hm, rfl⟩
  · cases hm'

theorem Strand.keptOrResumed.mono {p q : Prop} {a b : Strand} (h : a.keptOrResumed p b) (hq : p → q) : a.keptOrResumed q b :=
  h.imp id fun ⟨hp, hm, hb⟩ => ⟨hq hp, hm, hb⟩

theorem Strand.wake_kept (st : Strand) (th : Thread) : st.keptOrResumed True (st.wake th) := by
  unfold Strand.wake
  split
  · rename_i m hm
    split
    · exact .inr ⟨trivial, ⟨m, hm⟩, rfl⟩
    · exact .inl rfl
  · exact .inl rfl

theorem Strand.wake_visible (st : Strand) (th : Thread) : (st.wake th).visible = st.visible := by
  rcases st.wake_kept th with h | ⟨-, -, h⟩ <;> rw [h] <;> rfl

/-- What follows a change of a queue resumes parked strands and changes nothing else of a thread (R52). -/
theorem Thread.wake_strand (th : Thread) (x : Side) : (th.strand x).keptOrResumed True (th.wake.strand x) := by
  unfold Thread.wake
  split
  · exact .inl rfl
  · cases x <;> exact Strand.wake_kept ..

theorem Thread.wake_visible (th : Thread) (x : Side) : (th.wake.strand x).visible = (th.strand x).visible := by
  rcases th.wake_strand x with h | ⟨-, -, h⟩ <;> rw [h] <;> rfl

theorem Thread.wake_shared (th : Thread) : th.wake.shared = th.shared := by unfold Thread.wake; split <;> rfl
theorem Thread.wake_getQ (th : Thread) (q : Nat) : th.wake.getQ q = th.getQ q := by unfold Thread.wake; split <;> rfl

/-- A push leaves a thread's strands as they were, or resumes them, and its other queues. -/
theorem Thread.push_strand (th : Thread) (q : Nat) (en : QEntry) (x : Side) :
    (th.strand x).keptOrResumed True ((th.push q en).strand x) := by
  unfold Thread.push
  dsimp only
  split
  · cases x <;> exact .inl rfl
  · have := Thread.wake_strand (th.setQ q (th.getQ q ++ [en])) x
    cases x <;> exact this

theorem Thread.push_visible (th : Thread) (q : Nat) (en : QEntry) (x : Side) :
    ((th.push q en).strand x).visible = (th.strand x).visible := by
  rcases th.push_strand q en x with h | ⟨-, -, h⟩ <;> rw [h] <;> rfl

theorem Thread.push_shared (th : Thread) (q : Nat) (en : QEntry) : (th.push q en).shared = th.shared := by
  unfold Thread.push; dsimp only; split
  · rfl
  · exact Thread.wake_shared _

theorem Thread.push_getQ (th : Thread) {q m : Nat} (en : QEntry) (h : m ≠ q) : (th.push q en).getQ m = th.getQ m := by
  have hs : (th.setQ q (th.getQ q ++ [en])).getQ m = th.getQ m := by
    simp [Thread.getQ, Thread.setQ, Ne.symm h, Vector.getElem?_setIfInBounds_ne]
  unfold Thread.push; dsimp only; split
  · exact hs
  · exact (Thread.wake_getQ ..).trans hs

/-- Everything but the issuing strand's bookkeeping, the L1 copies and the queues that `q` names is as it was. -/
structure Kept (q : Nat → Prop) (s t : State) : Prop where
  rest   : { t with threads := s.threads, l1 := s.l1 } = s
  other  : ∀ k, k ≠ s.curT → t.thread k = s.thread k
  side   : ∀ x, x ≠ s.curX → ((s.thread s.curT).strand x).keptOrResumed (∃ n, q n) ((t.thread s.curT).strand x)
  mine   : (t.strand s.curT s.curX).visible = (s.strand s.curT s.curX).visible
  shared : (t.thread s.curT).shared = (s.thread s.curT).shared
  queue  : ∀ n, ¬q n → (t.thread s.curT).getQ n = (s.thread s.curT).getQ n

/-- A part of the state that neither the threads nor the L1 copies bear on is as it was. -/
theorem Kept.field {α : Type} {q : Nat → Prop} {s t : State} (h : Kept q s t) (f : State → α)
    (hf : ∀ (u : State) (a : List (Nat × Thread)) (b : List L1Line), f { u with threads := a, l1 := b } = f u) : f t = f s :=
  (hf t s.threads s.l1).symm.trans (congrArg f h.rest)

theorem Kept.curT {q : Nat → Prop} {s t : State} (h : Kept q s t) : t.curT = s.curT := h.field State.curT fun _ _ _ => rfl
theorem Kept.curX {q : Nat → Prop} {s t : State} (h : Kept q s t) : t.curX = s.curX := h.field State.curX fun _ _ _ => rfl

theorem Kept.refl (q : Nat → Prop) (s : State) : Kept q s s := ⟨rfl, fun _ _ => rfl, fun _ _ => .inl rfl, rfl, rfl, fun _ _ => rfl⟩

theorem Kept.trans {q : Nat → Prop} {s t u : State} (h : Kept q s t) (h' : Kept q t u) : Kept q s u := by
  obtain ⟨a1, a2, a3, a4, a5, a6⟩ := h'
  rw [h.curT] at a2 a3 a4 a5 a6
  rw [h.curX] at a3 a4
  refine ⟨?_, fun k hk => (a2 k hk).trans (h.other k hk), fun x hx => ((h.side x hx).trans (a3 x hx)).mono (or_self _).mp,
    a4.trans h.mine, a5.trans h.shared, fun n hn => (a6 n hn).trans (h.queue n hn)⟩
  have := congrArg (fun r : State => ({ r with threads := s.threads, l1 := s.l1 } : State)) a1
  exact this.trans h.rest

theorem Kept.mono {q r : Nat → Prop} {s t : State} (h : Kept q s t) (hq : ∀ n, q n → r n) : Kept r s t :=
  ⟨h.rest, h.other, fun x hx => (h.side x hx).mono fun ⟨n, hn⟩ => ⟨n, hq n hn⟩, h.mine, h.shared, fun n hn => h.queue n fun hc => hn (hq n hc)⟩

/-- An update of the issuing strand's bookkeeping. -/
theorem Kept.updMy (q : Nat → Prop) (s : State) (f : Strand → Strand) (hf : ∀ st, (f st).visible = st.visible) :
    Kept q s (s.updMy f) := by
  refine ⟨rfl, fun k hk => State.thread_setThread_ne s _ hk, fun x hx => ?_, ?_, ?_, fun n hn => ?_⟩
  · exact .inl (by simp [State.updMy, State.setMy, State.setStrand, Thread.strand_setStrand_ne _ _ hx])
  · simp [State.updMy, State.setMy, hf]; rfl
  · simp only [State.updMy, State.setMy, State.setStrand, State.thread_setThread]; cases s.curX <;> rfl
  · simp only [State.updMy, State.setMy, State.setStrand, State.thread_setThread]; cases s.curX <;> rfl

theorem Kept.popTo (s : State) (n : Nat) (l : List QEntry) :
    Kept (fun m => m = n) s (s.setThread s.curT (s.me.popTo n l)) := by
  have hs (x : Side) : (s.me.setQ n l).strand x = s.me.strand x := by cases x <;> rfl
  refine ⟨rfl, fun k hk => State.thread_setThread_ne s _ hk, fun x _ => ?_, ?_, ?_, fun m hm => ?_⟩
  · rw [State.thread_setThread]
    exact (hs x ▸ Thread.wake_strand (s.me.setQ n l) x).mono fun _ => ⟨n, rfl⟩
  · simp only [State.strand, State.thread_setThread]
    exact (Thread.wake_visible ..).trans (congrArg Strand.visible (hs _))
  · rw [State.thread_setThread]; exact (Thread.wake_shared _).trans rfl
  · rw [State.thread_setThread]
    refine (Thread.wake_getQ ..).trans ?_
    simp [Thread.getQ, Thread.setQ, State.me, Ne.symm hm, Vector.getElem?_setIfInBounds_ne]

theorem Strand.observePop_visible (st : Strand) (q : Nat) (en : QEntry) : (st.observePop q en).visible = st.visible := by
  unfold Strand.observePop; split
  · rfl
  · split <;> rfl

theorem State.waitMask_kept {s s1 : State} {wm : BitVec 8} (h : s.waitMask wm = .ok s1) : Kept (fun _ => False) s s1 := by
  unfold State.waitMask at h
  split at h
  · cases h; exact Kept.refl _ _
  · split at h
    · cases h
    · split at h
      · cases h
      · cases h; exact ⟨rfl, fun _ _ => rfl, fun _ _ => .inl rfl, rfl, rfl, fun _ _ => rfl⟩

theorem State.popWord_kept {s s1 : State} {q : Nat} {v : Word} {ws : List RegWrite} (h : s.popWord q = .ok (v, ws, s1)) :
    Kept (fun n => n = q) s s1 := by
  unfold State.popWord at h
  split at h
  · cases h
  · split at h <;> cases h <;>
      exact (Kept.popTo s q _).trans (Kept.updMy _ _ _ fun st => Strand.observePop_visible st _ _)

theorem State.popVector_kept {s s1 : State} {q : Nat} {v : VReg} {ws : List RegWrite}
    (h : s.popVector q = .ok (v, ws, s1)) : Kept (fun n => n = q) s s1 := by
  unfold State.popVector at h
  split at h
  · cases h
  · split at h <;> cases h <;>
      exact (Kept.popTo s q _).trans (Kept.updMy _ _ _ fun st => Strand.observePop_visible st _ _)

/-- A scalar source changes at most the queue that it names; without one it writes nothing. -/
theorem State.readScalar_kept {s s1 : State} {ty : Ty} {imm : BitVec 24} {o : Operand} {v : Word} {ws : List RegWrite}
    (h : s.readScalar ty imm o = .ok (v, ws, s1)) :
    Kept (fun n => o.cls = .queue ∧ o.idx.toNat = n) s s1 ∧ (o.cls ≠ .queue → ws = []) := by
  unfold State.readScalar at h
  split at h
  · cases h; exact ⟨Kept.refl _ _, fun _ => rfl⟩
  · rename_i hc
    exact ⟨(State.popWord_kept h).mono fun n hn => ⟨hc, hn.symm⟩, fun hn => absurd hc hn⟩
  · cases h; exact ⟨Kept.refl _ _, fun _ => rfl⟩
  · cases h; exact ⟨Kept.refl _ _, fun _ => rfl⟩

theorem Read.after_ok {α : Type} {o : Operand} {r : Read α} {v : α × List RegWrite × State} (h : r.after o = .ok v) : r = .ok v := by
  unfold Read.after at h
  split at h
  · cases h
  · exact h

theorem State.readPair_kept {s s1 : State} {e : Enc} {v : Word × Word} {ws : List RegWrite}
    (h : s.readPair e = .ok (v, ws, s1)) :
    Kept (fun n => (e.sa.cls = .queue ∧ e.sa.idx.toNat = n) ∨ (e.sb.cls = .queue ∧ e.sb.idx.toNat = n)) s s1 ∧
      (popsQueue e = false → ws = []) := by
  unfold State.readPair at h
  split at h
  · cases h
  · rename_i a wa t ha
    split at h
    · cases h
    · rename_i b wb u hb
      cases h
      obtain ⟨k1, w1⟩ := State.readScalar_kept ha
      obtain ⟨k2, w2⟩ := State.readScalar_kept (Read.after_ok hb)
      refine ⟨(k1.mono fun n hn => .inl hn).trans (k2.mono fun n hn => .inr hn), fun hp => ?_⟩
      simp only [popsQueue, Bool.or_eq_false_iff, beq_eq_false_iff_ne] at hp
      rw [w1 hp.1, w2 hp.2]; rfl

/-- A long operation accepted changes no register. -/
theorem State.retire_long_kept (s : State) (la : BitVec 4) (ws : List RegWrite) (q : Nat → Prop) :
    Kept q s (s.retire la true ws) :=
  Kept.updMy q s (fun st => st.accept la .plain true ws) fun _ => rfl

theorem State.retire_nil (s : State) (la : BitVec 4) : s.retire la false [] = s.updMy Strand.advance := rfl

/-- A short row that writes nothing changes no register. -/
theorem State.retire_nil_kept (s : State) (la : BitVec 4) (q : Nat → Prop) : Kept q s (s.retire la false []) :=
  Kept.updMy q s Strand.advance fun _ => rfl

/-- The state in which a short row has written and gone on. -/
theorem State.retire_short_thread (s : State) (la : BitVec 4) (ws : List RegWrite) :
    (s.retire la false ws).thread s.curT =
      let th := s.me.writeAll s.curX ws
      th.setStrand s.curX (th.strand s.curX).advance := State.thread_setThread ..

/-! ### From what is kept to the frame of the statements -/

/-- A register of the issuing strand. -/
theorem Kept.myField {α : Type} {q : Nat → Prop} {s t : State} (h : Kept q s t) (f : Strand → α)
    (hf : ∀ st : Strand, f st.visible = f st) : f t.my = f s.my := by
  rw [State.my, State.my, h.curT, h.curX]
  exact (hf _).symm.trans ((congrArg f h.mine).trans (hf _))

/-- A register that the strands of the issuing thread share. -/
theorem Kept.meField {α : Type} {q : Nat → Prop} {s t : State} (h : Kept q s t) (f : Thread → α)
    (hf : ∀ th : Thread, f th.shared = f th) : f t.me = f s.me := by
  rw [State.me, State.me, h.curT]
  exact (hf _).symm.trans ((congrArg f h.shared).trans (hf _))

theorem Kept.getS {q : Nat → Prop} {s t : State} (h : Kept q s t) (n : Nat) : t.my.getS n = s.my.getS n :=
  h.myField (fun st => st.getS n) fun _ => rfl
theorem Kept.getP {q : Nat → Prop} {s t : State} (h : Kept q s t) (n : Nat) : t.my.getP n = s.my.getP n :=
  h.myField (fun st => st.getP n) fun _ => rfl
theorem Kept.getV {q : Nat → Prop} {s t : State} (h : Kept q s t) (n : Nat) : t.me.getV n = s.me.getV n :=
  h.meField (fun th => th.getV n) fun _ => rfl

theorem Kept.special {q : Nat → Prop} {s t : State} (h : Kept q s t) (k : Nat) : t.special k = s.special k := by
  have hc : ∀ n, t.cluster n = s.cluster n := fun n => h.field (fun u => u.cluster n) fun _ _ _ => rfl
  have hy : ∀ n, t.now n = s.now n := fun n => h.field (fun u => u.now n) fun _ _ _ => rfl
  have hT : ∀ n, t.time n = s.time n := fun n => h.field (fun u => u.time n) fun _ _ _ => rfl
  have hl : ∀ a b, t.l2stat a b = s.l2stat a b := fun a b => h.field (fun u => u.l2stat a b) fun _ _ _ => rfl
  unfold State.special
  simp only [h.curT, hc, hy, hT, hl]
  split <;> first
    | rfl
    | exact h.myField Strand.fps fun _ => rfl
    | exact h.myField Strand.prog fun _ => rfl
    | exact h.myField Strand.uepc fun _ => rfl
    | exact h.myField Strand.ucause fun _ => rfl
    | exact h.myField Strand.uinfo fun _ => rfl
    | exact h.myField Strand.sepc fun _ => rfl
    | exact h.myField Strand.scause fun _ => rfl
    | exact h.myField Strand.sinfo fun _ => rfl
    | exact h.meField (fun th => th.eos.setWidth 64) fun _ => rfl
    | exact h.meField (fun th => wordOf th.prio) fun _ => rfl
    | exact h.meField (fun th => th.acc.setWidth 64) fun _ => rfl
    | exact h.meField Thread.uvec fun _ => rfl
    | exact h.meField (fun th => th.syncretry.setWidth 64) fun _ => rfl

/-- What is kept is the frame of a row. -/
theorem Kept.rowFrame {q : Nat → Prop} {s t : State} (h : Kept q s t) (e : Enc) (vs ks : List Nat) (fl : Bool)
    (hq : ∀ n, q n → ∃ o ∈ [e.da, e.sa, e.sb], o.cls = .queue ∧ o.idx.toNat = n) : RowFrame e vs ks fl s t := by
  have hf : t.my.fps = s.my.fps := h.myField Strand.fps fun _ => rfl
  refine ⟨h.curT, h.curX, fun a => h.field (fun u => memGet u.mem a) fun _ _ _ => rfl,
    h.field State.feEmpty fun _ _ _ => rfl, h.other, ?_,
    fun n _ => h.getS n, fun n _ => h.getP n, fun n _ => h.getV n, h.field State.cores fun _ _ _ => rfl,
    h.field State.clusters fun _ _ _ => rfl, h.field State.devices fun _ _ _ => rfl, ?_, fun k _ _ _ => h.special k,
    fun _ => hf, ?_, h.myField Strand.sup fun _ => rfl, h.myField Strand.uh fun _ => rfl⟩
  · intro x hx
    rw [State.me, State.me, h.curT]
    exact (h.side x hx).mono fun ⟨n, hn⟩ => (hq n hn).imp fun o ho => ⟨ho.1, ho.2.1⟩
  · intro n hn
    rw [State.me, State.me, h.curT]
    refine h.queue n fun hc => ?_
    obtain ⟨o, ho, h1, h2⟩ := hq n hc
    exact hn o ho h1 h2
  · rw [hf, BitVec.and_self]

/-- The frame of a row is transitive over what is kept before it. -/
theorem Kept.before {q : Nat → Prop} {s t u : State} (h : Kept q s t) (e : Enc) (vs ks : List Nat) (fl : Bool)
    (hq : ∀ n, q n → ∃ o ∈ [e.da, e.sa, e.sb], o.cls = .queue ∧ o.idx.toNat = n) (hu : RowFrame e vs ks fl t u) :
    RowFrame e vs ks fl s u := by
  obtain ⟨a1, a2, a3, a4, a5, a6, a7, a8, a9, a10, a11, a12, a13, a14, a15, a16, a17, a18⟩ := h.rowFrame e vs ks fl hq
  obtain ⟨b1, b2, b3, b4, b5, b6, b7, b8, b9, b10, b11, b12, b13, b14, b15, b16, b17, b18⟩ := hu
  refine ⟨b1.trans a1, b2.trans a2, fun a => (b3 a).trans (a3 a), b4.trans a4,
    fun k hk => (b5 k (by rw [a1]; exact hk)).trans (a5 k hk), fun x hx => ((a6 x hx).trans (b6 x (by rw [a2]; exact hx))).mono (or_self _).mp,
    fun n hn => (b7 n hn).trans (a7 n hn), fun n hn => (b8 n hn).trans (a8 n hn), fun n hn => (b9 n hn).trans (a9 n hn),
    b10.trans a10, b11.trans a11, b12.trans a12, fun n hn => (b13 n hn).trans (a13 n hn),
    fun k h0 h1 h2 => (b14 k h0 h1 h2).trans (a14 k h0 h1 h2), fun hf => (b15 hf).trans (a15 hf), ?_, b17.trans a17, b18.trans a18⟩
  have hf : t.my.fps = s.my.fps := h.myField Strand.fps fun _ => rfl
  rw [← hf]; exact b16

/-! ### The writes of a short row -/

/-- A write that a row of fields `e` may make, `vs` naming the vector registers. -/
def writeAllowed (e : Enc) (vs : List Nat) (fl : Bool) : RegWrite → Prop
  | .s n _ => e.da.cls = .scalar ∧ e.da.idx.toNat = n
  | .p n _ _ => e.da.cls = .predicate ∧ e.da.idx.toNat = n
  | .v n _ _ => n ∈ vs
  | .push q _ => e.da.cls = .queue ∧ e.da.idx.toNat = q
  | .fps f => fl = true ∨ f = 0
  | _ => False

/-- What the writes of a row leave of the issuing thread. -/
structure ThreadKept (e : Enc) (vs : List Nat) (fl : Bool) (x : Side) (a b : Thread) : Prop where
  side   : ∀ y, y ≠ x → (a.strand y).keptOrResumed (e.da.cls = .queue) (b.strand y)
  s      : ∀ n, (n ≠ e.da.idx.toNat ∨ e.da.cls ≠ .scalar) → (b.strand x).getS n = (a.strand x).getS n
  p      : ∀ n, (n ≠ e.da.idx.toNat ∨ e.da.cls ≠ .predicate) → (b.strand x).getP n = (a.strand x).getP n
  v      : ∀ n, n ∉ vs → b.getV n = a.getV n
  shared : { b.shared with v := a.v } = a.shared
  queue  : ∀ q, (e.da.cls = .queue → e.da.idx.toNat ≠ q) → b.getQ q = a.getQ q
  fps    : (fl = false → (b.strand x).fps = (a.strand x).fps) ∧ (a.strand x).fps &&& (b.strand x).fps = (a.strand x).fps
  rest   : { (b.strand x).visible with s := (a.strand x).s, p := (a.strand x).p, fps := (a.strand x).fps } = (a.strand x).visible

theorem setStrand_shared (th : Thread) (x : Side) (st : Strand) : (th.setStrand x st).shared = th.shared := by
  cases x <;> rfl
theorem setStrand_getV (th : Thread) (x : Side) (st : Strand) (n : Nat) : (th.setStrand x st).getV n = th.getV n := by
  cases x <;> rfl
theorem setStrand_getQ (th : Thread) (x : Side) (st : Strand) (q : Nat) : (th.setStrand x st).getQ q = th.getQ q := by
  cases x <;> rfl

theorem ThreadKept.refl (e : Enc) (vs : List Nat) (fl : Bool) (x : Side) (a : Thread) : ThreadKept e vs fl x a a :=
  ⟨fun _ _ => .inl rfl, fun _ _ => rfl, fun _ _ => rfl, fun _ _ => rfl, rfl, fun _ _ => rfl, ⟨fun _ => rfl, BitVec.and_self⟩, rfl⟩

theorem ThreadKept.trans {e : Enc} {vs : List Nat} {fl : Bool} {x : Side} {a b c : Thread} (h : ThreadKept e vs fl x a b)
    (h' : ThreadKept e vs fl x b c) : ThreadKept e vs fl x a c := by
  refine ⟨fun y hy => ((h.side y hy).trans (h'.side y hy)).mono (or_self _).mp, fun n hn => (h'.s n hn).trans (h.s n hn),
    fun n hn => (h'.p n hn).trans (h.p n hn), fun n hn => (h'.v n hn).trans (h.v n hn), ?_, fun q hq => (h'.queue q hq).trans (h.queue q hq),
    ⟨fun hf => (h'.fps.1 hf).trans (h.fps.1 hf), ?_⟩, ?_⟩
  · exact (congrArg (fun th : Thread => { th with v := a.v }) h'.shared).trans h.shared
  · rw [← h.fps.2, BitVec.and_assoc, h'.fps.2]
  · have := congrArg (fun st : Strand => { st with s := (a.strand x).s, p := (a.strand x).p, fps := (a.strand x).fps }) h'.rest
    exact this.trans h.rest

theorem Thread.write_kept {e : Enc} {vs : List Nat} {fl : Bool} (th : Thread) (x : Side) {w : RegWrite} (h : writeAllowed e vs fl w) :
    ThreadKept e vs fl x th (th.write x w) := by
  cases w with
  | s n v =>
    obtain ⟨h1, h2⟩ := h
    have hs : (th.write x (.s n v)).strand x = (th.strand x).setS n v := Thread.strand_setStrand ..
    refine ⟨fun y hy => .inl (Thread.strand_setStrand_ne _ _ hy), fun m hm => ?_, fun m _ => ?_, fun m _ => setStrand_getV .., by rw [show (th.write x (.s n v)).shared = th.shared from setStrand_shared ..]; rfl, fun q _ => setStrand_getQ .., ?_, ?_⟩
    · rw [hs]; exact Strand.getS_setS_ne _ _ (by rcases hm with hm | hm <;> simp_all)
    · rw [hs]; unfold Strand.setS; split <;> rfl
    · rw [hs]; have : ((th.strand x).setS n v).fps = (th.strand x).fps := by unfold Strand.setS; split <;> rfl
      rw [this]; exact ⟨fun _ => rfl, BitVec.and_self⟩
    · rw [hs]; unfold Strand.setS; split <;> rfl
  | v n m v =>
    refine ⟨fun y _ => .inl (by cases y <;> rfl), fun _ _ => by cases x <;> rfl, fun _ _ => by cases x <;> rfl, fun k hk => ?_, rfl,
      fun _ _ => rfl, ⟨fun _ => by cases x <;> rfl, ?_⟩, by cases x <;> rfl⟩
    · have hne : n ≠ k := fun hc => hk (hc ▸ h)
      simp [Thread.write, Thread.setV, Thread.getV, Vector.getElem?_setIfInBounds_ne, hne]
    · have : ((th.write x (.v n m v)).strand x).fps = (th.strand x).fps := by cases x <;> rfl
      rw [this]; exact BitVec.and_self
  | p n m v =>
    obtain ⟨h1, h2⟩ := h
    have hs : (th.write x (.p n m v)).strand x = (th.strand x).setP n (maskP m ((th.strand x).getP n) v) := Thread.strand_setStrand ..
    refine ⟨fun y hy => .inl (Thread.strand_setStrand_ne _ _ hy), fun m _ => ?_, fun m hm => ?_, fun m _ => setStrand_getV .., by rw [show (th.write x (.p n m v)).shared = th.shared from setStrand_shared ..]; rfl, fun q _ => setStrand_getQ .., ?_, ?_⟩
    · rw [hs]; unfold Strand.setP; split <;> rfl
    · rw [hs]; exact Strand.getP_setP_ne _ _ (by rcases hm with hm | hm <;> simp_all)
    · rw [hs]
      have : ((th.strand x).setP n (maskP m ((th.strand x).getP n) v)).fps = (th.strand x).fps := by unfold Strand.setP; split <;> rfl
      rw [this]; exact ⟨fun _ => rfl, BitVec.and_self⟩
    · rw [hs]; unfold Strand.setP; split <;> rfl
  | push q en =>
    obtain ⟨h1, h2⟩ := h
    have hv := th.push_visible q en x
    have hf {α : Type} (f : Strand → α) (hf : ∀ st : Strand, f st.visible = f st) : f ((th.push q en).strand x) = f (th.strand x) :=
      (hf _).symm.trans ((congrArg f hv).trans (hf _))
    have hfps : ((th.push q en).strand x).fps = (th.strand x).fps := hf Strand.fps fun _ => rfl
    refine ⟨fun y _ => (th.push_strand q en y).mono fun _ => h1, fun n _ => hf (fun st => st.getS n) fun _ => rfl,
      fun n _ => hf (fun st => st.getP n) fun _ => rfl, fun n _ => ?_, ?_,
      fun m hm => th.push_getQ en fun hc => hm h1 (h2.trans hc.symm), ⟨fun _ => hfps, ?_⟩, ?_⟩
    · have := congrArg (fun u : Thread => u.getV n) (th.push_shared q en)
      exact this
    · exact (congrArg (fun u : Thread => { u with v := th.v }) (th.push_shared q en)).trans rfl
    · show (th.strand x).fps &&& ((th.push q en).strand x).fps = _
      rw [hfps]; exact BitVec.and_self
    · have := congrArg (fun st : Strand => { st with s := (th.strand x).s, p := (th.strand x).p, fps := (th.strand x).fps }) hv
      exact this.trans rfl
  | eos q => exact absurd h id
  | fps f =>
    have hs : (th.write x (.fps f)).strand x = (th.strand x).orFps f := Thread.strand_setStrand ..
    refine ⟨fun y hy => .inl (Thread.strand_setStrand_ne _ _ hy), fun m _ => by rw [hs]; rfl, fun m _ => by rw [hs]; rfl, fun m _ => setStrand_getV ..,
      by rw [show (th.write x (.fps f)).shared = th.shared from setStrand_shared ..]; rfl,
      fun q _ => setStrand_getQ .., ⟨fun hf => ?_, ?_⟩, by rw [hs]; rfl⟩
    · rcases h with h | h
      · rw [h] at hf; cases hf
      · rw [hs, h]; simp [Strand.orFps]
    · rw [hs]
      show (th.strand x).fps &&& ((th.strand x).fps ||| _) = _
      apply BitVec.eq_of_getLsbD_eq
      intro i hi
      simp only [BitVec.getLsbD_and, BitVec.getLsbD_or]
      cases (th.strand x).fps.getLsbD i <;> simp
  | prog v => exact absurd h id

theorem Thread.writeAll_kept {e : Enc} {vs : List Nat} {fl : Bool} (x : Side) (ws : List RegWrite) (h : ∀ w ∈ ws, writeAllowed e vs fl w)
    (th : Thread) : ThreadKept e vs fl x th (th.writeAll x ws) := by
  induction ws generalizing th with
  | nil => exact ThreadKept.refl ..
  | cons w ws ih =>
    exact (th.write_kept x (h w List.mem_cons_self)).trans (ih (fun v hv => h v (List.mem_cons_of_mem _ hv)) _)

/-- A short row whose writes are allowed leaves the frame of a row. -/
theorem State.retire_short_frame {e : Enc} {vs : List Nat} {ks : List Nat} {fl : Bool} (s : State) (la : BitVec 4) (ws : List RegWrite)
    (h : ∀ w ∈ ws, writeAllowed e vs fl w) : RowFrame e vs ks fl s (s.retire la false ws) := by
  have hk := Thread.writeAll_kept s.curX ws h s.me
  have hm : (s.retire la false ws).my = ((s.me.writeAll s.curX ws).strand s.curX).advance := by
    show ((s.retire la false ws).thread s.curT).strand s.curX = _
    rw [State.retire_short_thread]
    exact Thread.strand_setStrand ..
  have he : (s.retire la false ws).me = (s.me.writeAll s.curX ws).setStrand s.curX ((s.me.writeAll s.curX ws).strand s.curX).advance :=
    State.retire_short_thread s la ws
  have hsh : { (s.retire la false ws).me.shared with v := s.me.v } = s.me.shared := by rw [he, setStrand_shared]; exact hk.shared
  have hr {α : Type} (f : Strand → α) (h1 : ∀ st : Strand, f st.advance = f st)
      (h2 : ∀ (st : Strand) a b c, f { st.visible with s := a, p := b, fps := c } = f st) (h3 : ∀ st : Strand, f st.visible = f st) :
      f (s.retire la false ws).my = f s.my := by
    rw [hm, h1, ← h2]
    exact (congrArg f hk.rest).trans (h3 _)
  have hsh' {α : Type} (f : Thread → α) (h1 : ∀ (th : Thread) v, f { th.shared with v := v } = f th)
      (h2 : ∀ th : Thread, f th.shared = f th) : f (s.retire la false ws).me = f s.me :=
    (h1 _ s.me.v).symm.trans ((congrArg f hsh).trans (h2 _))
  refine ⟨rfl, rfl, fun _ => rfl, rfl, fun k hk => State.thread_setThread_ne s _ hk, fun x hx => ?_, fun n hn => ?_, fun n hn => ?_,
    fun n hn => ?_, rfl, rfl, rfl, fun q hq => ?_, fun k _ h9 h11 => ?_, fun hf => ?_, ?_,
    hr Strand.sup (fun _ => rfl) (fun _ _ _ _ => rfl) fun _ => rfl, hr Strand.uh (fun _ => rfl) (fun _ _ _ _ => rfl) fun _ => rfl⟩
  · rw [he, Thread.strand_setStrand_ne _ _ hx]
    exact (hk.side x hx).mono fun hc => ⟨e.da, by simp, hc⟩
  · rw [hm]; exact hk.s n hn
  · rw [hm]; exact hk.p n hn
  · rw [he, setStrand_getV]; exact hk.v n hn
  · rw [he, setStrand_getQ]; exact hk.queue q fun hc => hq e.da (by simp) hc
  · have hT : (s.retire la false ws).curT = s.curT := rfl
    have hc : ∀ n, (s.retire la false ws).cluster n = s.cluster n := fun _ => rfl
    have hd : (s.retire la false ws).devices = s.devices := rfl
    unfold State.special
    simp only [hT, hc]
    split <;> first
      | rfl
      | exact absurd rfl h9
      | exact hr Strand.prog (fun _ => rfl) (fun _ _ _ _ => rfl) fun _ => rfl
      | exact hr Strand.uepc (fun _ => rfl) (fun _ _ _ _ => rfl) fun _ => rfl
      | exact hr Strand.ucause (fun _ => rfl) (fun _ _ _ _ => rfl) fun _ => rfl
      | exact hr Strand.uinfo (fun _ => rfl) (fun _ _ _ _ => rfl) fun _ => rfl
      | exact hr Strand.sepc (fun _ => rfl) (fun _ _ _ _ => rfl) fun _ => rfl
      | exact hr Strand.scause (fun _ => rfl) (fun _ _ _ _ => rfl) fun _ => rfl
      | exact hr Strand.sinfo (fun _ => rfl) (fun _ _ _ _ => rfl) fun _ => rfl
      | exact hsh' (fun th => th.eos.setWidth 64) (fun _ _ => rfl) fun _ => rfl
      | exact hsh' (fun th => wordOf th.prio) (fun _ _ => rfl) fun _ => rfl
      | exact hsh' (fun th => th.acc.setWidth 64) (fun _ _ => rfl) fun _ => rfl
      | exact hsh' Thread.uvec (fun _ _ => rfl) fun _ => rfl
      | exact hsh' (fun th => th.syncretry.setWidth 64) (fun _ _ => rfl) fun _ => rfl
  · rw [hm]; exact hk.fps.1 hf
  · rw [hm]; exact hk.fps.2

/-! ### What completes -/

theorem State.updStrand_order (s : State) (t : Nat) (x : Side) (f : Strand → Strand) (hf : ∀ st, (f st).order = st.order) :
    ((s.updStrand t x f).strand t x).order = (s.strand t x).order := by
  simp [State.updStrand, hf]

theorem State.deliver_order (s : State) (t : Nat) (x : Side) (p : PendTrap) :
    ((s.deliver t x p).strand t x).order = (s.strand t x).order := by
  have hr : ∀ o, ((s.regionDelivered o).strand t x) = s.strand t x := by intro o; cases o <;> rfl
  have hm : ∀ (u : State), ((u.updThread t fun th => th.moveRecord p.info).strand t x) = u.strand t x := by
    intro u
    unfold State.updThread State.strand
    rw [State.thread_setThread]
    unfold Thread.moveRecord
    split
    · cases x <;> rfl
    · rfl
  unfold State.deliver
  split
  · dsimp only
    split
    · unfold State.enterUser
      refine (State.updStrand_order _ t x _ ?_).trans (congrArg Strand.order ((hm _).trans (hr _))); exact fun _ => rfl
    · unfold State.enterSupervisor
      dsimp only
      split
      · have hu : ∀ (u : State) f g, ((u.updStrand t x f).updDevice (deviceOf t) g).strand t x = (u.updStrand t x f).strand t x := fun _ _ _ => rfl
        rw [hu]
        refine (State.updStrand_order _ t x _ ?_).trans (congrArg Strand.order ((hm _).trans (hr _))); exact fun _ => rfl
      · refine (State.updStrand_order _ t x _ ?_).trans (congrArg Strand.order ((hm _).trans (hr _))); exact fun _ => rfl
  · exact State.updStrand_order _ _ _ _ fun _ => rfl

/-- A trap of an instruction leaves the count of those completed. -/
theorem State.raise_order (s : State) (t : Nat) (x : Side) (i : TrapInfo) :
    ((s.raise t x i).strand t x).order = (s.strand t x).order := by
  have hd : ∀ (u : State) i, ((u.discard t i).strand t x) = u.strand t x := by
    intro u i; unfold State.discard; dsimp only; split <;> rfl
  have h0 := State.updStrand_order s t x (fun st => { st with status := .ready, flight := none }) fun _ => rfl
  rw [← h0]
  unfold State.raise State.raiseAt
  dsimp only
  split
  · split
    · rw [hd]
    · refine (State.updStrand_order _ t x _ ?_).trans (congrArg Strand.order (hd ..)); exact fun _ => rfl
  · split
    · exact State.deliver_order ..
    · exact State.updStrand_order _ _ _ _ fun _ => rfl

/-- The state that an instruction's end carries. -/
def Stop.carried (s : State) : Stop → State
  | .trapIn _ s' | .waitIn _ s' => s'
  | _ => s

/-- An instruction that traps or waits leaves the count of those completed, where the state that it carries does. -/
theorem State.settle_order (s : State) (t : Nat) (x : Side) (e : Stop)
    (h : ((e.carried s).strand t x).order = (s.strand t x).order) :
    ((s.settle t x (.error e)).strand t x).order = (s.strand t x).order := by
  cases e with
  | trap i => exact State.raise_order ..
  | wait c => exact State.updStrand_order _ _ _ _ fun _ => rfl
  | trapIn i s' => exact (State.raise_order ..).trans h
  | waitIn c s' => exact (State.updStrand_order s' t x (fun st => { st with status := .waiting c }) fun _ => rfl).trans h

/-- An instruction that completes has passed its checks and its wait mask, and has its own effect or, its guard clear, only
goes on, where the states that its own traps and waits carry leave the count of those completed. -/
theorem issue_completed {d : Desc} {e : Enc} {s t : State} {body : State → Except Stop State}
    (h : issue d e s body = .next t) (hc : completed s t)
    (hb : ∀ s1 x, s.waitMask e.wm = .ok s1 → body s1 = .error x →
      ((x.carried s).strand s.curT s.curX).order = (s.strand s.curT s.curX).order) :
    d.check e s.me s.curX = none ∧ ∃ s1, s.waitMask e.wm = .ok s1 ∧ (t = s1.next ∨ body s1 = .ok t) := by
  have no : ∀ x : Stop, ((x.carried s).strand s.curT s.curX).order = (s.strand s.curT s.curX).order →
      t = s.settle s.curT s.curX (.error x) → False := by
    intro x hx ht
    have h1 := State.settle_order s s.curT s.curX x hx
    rw [← ht] at h1
    unfold completed State.my at hc
    omega
  unfold issue at h
  split at h
  · cases h
  · injection h with h
    unfold runChecked at h
    split at h
    · exact (no _ (by rfl) h.symm).elim
    · rename_i hk
      refine ⟨hk, ?_⟩
      split at h
      · rename_i x hw
        refine (no x ?_ h.symm).elim
        unfold State.waitMask at hw
        split at hw
        · cases hw
        · split at hw
          · cases hw; rfl
          · split at hw <;> cases hw; rfl
      · rename_i s1 hw
        refine ⟨s1, hw, ?_⟩
        split at h
        · exact .inl h.symm
        · cases hx : body s1 with
          | ok u => rw [hx] at h; cases h; exact .inr rfl
          | error x =>
            rw [hx] at h
            exact (no x (hb s1 x hw hx) h.symm).elim

/-! ### Stores -/

/-- Every part of the state that a write of a line at its home, with the evictions it causes and the watches it answers,
may change, blanked. -/
def State.offCache (s : State) : State :=
  { s with mem := [], poison := [], rel := [], l1 := [], rind := [], paste := [], pages := [], watches := [], answers := []
           nextId := 0 }

/-- The same, and the stores on their way. -/
def State.offStore (s : State) : State := { s.offCache with stores := [] }

theorem State.offStore_of {s t : State} (h : s.offCache = t.offCache) : s.offStore = t.offStore :=
  congrArg (fun u : State => { u with stores := [] }) h

/-- A fold of steps that leave a view of the state as it was leaves it so. -/
theorem fold_view {α β : Type} (f : State → α) (step : State → β → State) (h : ∀ s b, f (step s b) = f s) (l : List β) (s : State) :
    f (l.foldl step s) = f s := by
  induction l generalizing s with
  | nil => rfl
  | cons b l ih => exact (ih _).trans (h s b)

theorem State.setPoisons_offCache (line : Nat) (l : List Nat) (s : State) :
    (l.foldl (fun s i => s.setPoison (line * 64 + 8 * i)) s).offCache = s.offCache := by
  induction l generalizing s with
  | nil => rfl
  | cons b l ih => rw [List.foldl_cons, ih]; simp only [State.setPoison, State.offCache]

theorem State.writeMemLine_offCache (s : State) (line : Nat) (d : BitVec 512) (p : Bool) :
    (s.writeMemLine line d p).offCache = s.offCache := by
  unfold State.writeMemLine
  cases p
  · simp only [Bool.false_eq_true, if_false, State.clearPoison, State.offCache]
  · simp only [if_true]
    rw [State.setPoisons_offCache]
    simp only [State.offCache]

theorem State.releaseOld_offCache (s : State) (sl : Nat) (o : Option Nat) : (s.releaseOld sl o).offCache = s.offCache := by
  cases o <;> rfl

theorem State.cleanRind_offCache (s : State) (sl line : Nat) : (s.cleanRind sl line).offCache = s.offCache := by
  unfold State.cleanRind
  split
  · rfl
  · split
    · exact State.writeMemLine_offCache ..
    · rfl

theorem State.invalidRind_offCache (s : State) (sl line : Nat) : (s.invalidRind sl line).offCache = s.offCache := by
  unfold State.invalidRind
  split
  · rfl
  · exact State.releaseOld_offCache ..

theorem State.evictRind_offCache (s : State) (sl line : Nat) : (s.evictRind sl line).offCache = s.offCache :=
  (State.invalidRind_offCache ..).trans (State.cleanRind_offCache ..)

theorem State.roomInPaste_offCache (s : State) (sl n : Nat) : (s.roomInPaste sl n).offCache = s.offCache := by
  induction n generalizing s with
  | zero => rfl
  | succ n ih =>
    unfold State.roomInPaste
    split
    · rfl
    · split
      · exact (ih _).trans (State.evictRind_offCache ..)
      · rfl

theorem State.bypass_offCache (s : State) (x : Content) : (s.bypass x).offCache = s.offCache := by
  unfold State.bypass
  dsimp only
  split
  · refine (State.writeMemLine_offCache ..).trans ?_
    split
    · exact State.releaseOld_offCache ..
    · rfl
  · split
    · exact State.releaseOld_offCache ..
    · rfl

theorem State.putRind_offCache (s : State) (r : Rind) : (s.putRind r).offCache = s.offCache := rfl

theorem State.touchRind_offCache (s : State) (sl line : Nat) : (s.touchRind sl line).offCache = s.offCache := rfl

theorem State.newPaste_offCache (s : State) (x : Content) (h : BitVec 32) (b : Nat) (base : Rind) (st : RindState) :
    (s.newPaste x h b base st).offCache = s.offCache := by
  have hr := State.roomInPaste_offCache s x.slice s.rind.length
  unfold State.newPaste
  dsimp only
  generalize s.roomInPaste x.slice s.rind.length = u at hr ⊢
  rw [← hr]
  split
  · rw [State.touchRind_offCache, State.putRind_offCache, State.releaseOld_offCache]; rfl
  · exact State.bypass_offCache ..

theorem State.roomInSet_offCache (s : State) (sl line : Nat) : (s.roomInSet sl line).offCache = s.offCache := by
  unfold State.roomInSet
  split
  · rfl
  · split
    · exact State.evictRind_offCache ..
    · rfl

theorem State.install_offCache (s : State) (x : Content) (pin : Option Nat) : (s.install x pin).offCache = s.offCache := by
  have h : (if (s.findRind x.slice x.line).isNone then s.roomInSet x.slice x.line else s).offCache = s.offCache := by
    split
    · exact State.roomInSet_offCache ..
    · rfl
  unfold State.install
  dsimp only
  generalize (if (s.findRind x.slice x.line).isNone then s.roomInSet x.slice x.line else s) = u at h
  rw [← h]
  split
  · exact State.bypass_offCache ..
  · generalize Config.pasteHash _ _ _ _ = h
    split
    · exact State.releaseOld_offCache ..
    · split
      · split
        · rfl
        · exact State.releaseOld_offCache ..
      · split
        · split
          · rfl
          · exact State.newPaste_offCache ..
        · exact State.newPaste_offCache ..

/-- Watches compared change the watches, the answers and the numbering only. -/
theorem State.watchRange_rest (s : State) (key n : Nat) :
    ({ s.watchRange key n with watches := [], answers := [], nextId := 0 } : State) =
      { s with watches := [], answers := [], nextId := 0 } := by
  unfold State.watchRange
  refine fold_view (fun u : State => { u with watches := [], answers := [], nextId := 0 }) _ (fun u p => ?_) _ _
  dsimp only
  split <;> rfl

theorem State.watchRange_offCache (s : State) (key n : Nat) : (s.watchRange key n).offCache = s.offCache :=
  (congrArg State.offCache (s.watchRange_rest key n) :)

theorem State.pageMode_offCache (s : State) (die page : Nat) : (s.pageMode die page).offCache = s.offCache := by
  unfold State.pageMode
  split
  · rfl
  · dsimp only
    split
    · rfl
    · split
      · exact fold_view State.offCache (fun s (r : Rind) => s.invalidRind r.slice r.line) (fun _ _ => State.invalidRind_offCache ..) _ _
      · rfl

theorem State.countPage_offCache (s : State) (die page : Nat) (w : Bool) : (s.countPage die page w).offCache = s.offCache := by
  unfold State.countPage
  dsimp only
  split <;> rfl

theorem State.writeLine_offCache (s : State) (home line : Nat) (d : BitVec 512) (w : Bool) (part dom ctx : Nat) (p : Bool) :
    (s.writeLine home line d w part dom ctx p).offCache = s.offCache := by
  unfold State.writeLine
  split
  · exact State.writeMemLine_offCache ..
  · dsimp only
    refine (State.install_offCache ..).trans ((State.pageMode_offCache ..).trans ((State.countPage_offCache ..).trans ?_))
    exact fold_view State.offCache (fun s (r : Rind) => s.invalidRind r.slice r.line) (fun _ _ => State.invalidRind_offCache ..) _ _

theorem State.writeBackL1_offCache (s : State) (l : L1Line) : (s.writeBackL1 l).offCache = s.offCache := by
  unfold State.writeBackL1
  split
  · rfl
  · exact (State.watchRange_offCache ..).trans (State.writeLine_offCache ..)

theorem State.putL1_offCache (s : State) (l : L1Line) : (s.putL1 l).offCache = s.offCache := by
  unfold State.putL1
  dsimp only
  split
  · rfl
  · split
    · exact State.writeBackL1_offCache ..
    · rfl

theorem State.recordRel_offCache (s : State) (key : Nat) (rel : List Release) : (s.recordRel key rel).offCache = s.offCache := by
  unfold State.recordRel
  split <;> rfl

theorem State.storeBytes_off (s : State) (t : Nat) (x : Side) (g : Target) (bytes : List Byte) (rel : List Release) :
    (s.storeBytes t x g bytes rel).offStore = s.offStore := by
  unfold State.storeBytes
  split
  · rfl
  · dsimp only
    split
    · exact State.offStore_of ((State.watchRange_offCache ..).trans (State.recordRel_offCache ..))
    · exact State.offStore_of ((State.putL1_offCache ..).trans (State.recordRel_offCache ..))

/-- Stores of elements change memory, the stores on their way, the caches, the releases, the poison and the watches only. -/
theorem State.storeFrom_off (t : Nat) (x : Side) (n : Nat) (rel : List Release) (val : Nat → Nat) (l : List Elem)
    (prev : Option Nat) (s : State) : (s.storeFrom t x n rel val prev l).offStore = s.offStore := by
  induction l generalizing s prev with
  | nil => rfl
  | cons e l ih =>
    unfold State.storeFrom
    dsimp only
    refine (ih _ _).trans ?_
    split <;> exact State.storeBytes_off ..

/-! ### Bytes on their way to SRAM -/

/-- The byte at a key after a list of stores has been laid over it. -/
def overlay (l : List Store) (a : Nat) (b : Byte) : Byte := l.foldl (fun b st => (st.byteAt a).getD b) b

theorem forward_eq (s : State) (u : Nat) (x : Side) (a : Nat) (b : Byte) :
    s.forward u x a [b] = [overlay (s.stores.filter fun st => st.t == u && st.x == x) a b] := by
  unfold State.forward overlay
  generalize s.stores.filter (fun st => st.t == u && st.x == x) = l
  induction l generalizing b with
  | nil => rfl
  | cons st l ih => exact ih _

theorem overlay_append (l m : List Store) (a : Nat) (b : Byte) : overlay (l ++ m) a b = overlay m a (overlay l a b) :=
  List.foldl_append ..

/-- A store writes no byte outside its own. -/
theorem Store.byteAt_out (t : Nat) (x : Side) (key : Nat) (bytes : List Byte) (rel : List Release) (a : Nat)
    (h : a < key ∨ key + bytes.length ≤ a) : (Store.of t x key bytes rel).byteAt a = none := by
  unfold Store.byteAt Store.of
  dsimp only
  refine if_neg fun hc => ?_
  obtain ⟨h1, h2⟩ := hc
  unfold wordKey at h1
  simp only [BitVec.getLsbD_shiftLeft, BitVec.getLsbD_ofNat, Nat.testBit_two_pow_sub_one, Bool.and_eq_true,
    Bool.not_eq_true', decide_eq_true_eq, decide_eq_false_iff_not] at h2
  omega

theorem spread_bit (mask : BitVec 8) (l : List Nat) (v : Word) (j : Nat) (hj : j < 64) :
    (l.foldl (fun v i => if mask.getLsbD i then v ||| (255 : Word) <<< (8 * i) else v) v).getLsbD j =
      (v.getLsbD j || l.any fun i => mask.getLsbD i && decide (8 * i ≤ j) && decide (j < 8 * i + 8)) := by
  induction l generalizing v with
  | nil => simp
  | cons i l ih =>
    rw [List.foldl_cons, ih, List.any_cons]
    have h255 : ∀ k, (255 : Word).getLsbD k = decide (k < 8) := by
      intro k
      have : (255 : Word) = BitVec.ofNat 64 (2 ^ 8 - 1) := rfl
      rw [this, BitVec.getLsbD_ofNat, Nat.testBit_two_pow_sub_one]
      by_cases hk : k < 8 <;> simp [hk]; omega
    cases hm : mask.getLsbD i
    · simp
    · simp only [if_true, BitVec.getLsbD_or, BitVec.getLsbD_shiftLeft, h255, hj, decide_true, Bool.true_and, Bool.or_assoc]
      congr 2
      by_cases h1 : 8 * i ≤ j <;> by_cases h2 : j < 8 * i + 8 <;> simp [h1, h2] <;> omega

/-- A store joined by one that does not write a byte writes there what it wrote. -/
theorem Store.byteAt_join (a b : Store) (k : Nat) (hk : a.key = b.key) (h : b.byteAt k = none) :
    (a.join b).byteAt k = a.byteAt k := by
  unfold Store.byteAt at h ⊢
  unfold Store.join byteSpread
  dsimp only
  by_cases hw : wordKey k = a.key
  · have hm : b.mask.getLsbD (k % 8) = false := by
      cases hb : b.mask.getLsbD (k % 8)
      · rfl
      · rw [if_pos ⟨hw.trans hk, hb⟩] at h; cases h
    simp only [hw, true_and, BitVec.getLsbD_or, hm, Bool.or_false]
    split
    · refine congrArg some (BitVec.eq_of_getLsbD_eq fun i hi => ?_)
      have hj : 8 * (k % 8) + i < 64 := by omega
      have hz : (List.range 8).any (fun i' => b.mask.getLsbD i' && decide (8 * i' ≤ 8 * (k % 8) + i) &&
          decide (8 * (k % 8) + i < 8 * i' + 8)) = false := by
        rw [List.any_eq_false]
        intro i' _
        by_cases he : i' = k % 8
        · simp [he, hm]
        · simp only [Bool.and_eq_true, decide_eq_true_eq, not_and]; omega
      simp only [BitVec.getLsbD_setWidth, BitVec.getLsbD_ushiftRight, BitVec.getLsbD_or, BitVec.getLsbD_and, BitVec.getLsbD_not,
        spread_bit _ _ _ _ hj, hz, hj, hi]
      simp
    · rfl
  · simp [hw]

/-- The last of the stores on their way, joined with the one before it, lays the same byte where it wrote none. -/
theorem overlay_joinLast (l : List Store) (st : Store) (u : Nat) (x : Side) (a : Nat) (b : Byte) (h : st.byteAt a = none) :
    overlay ((joinLast (l ++ [st])).filter fun q => q.t == u && q.x == x) a b =
      overlay ((l ++ [st]).filter fun q => q.t == u && q.x == x) a b := by
  unfold joinLast
  rw [List.reverse_append]
  match hl : l.reverse with
  | [] => rfl
  | q :: r =>
    have : l = r.reverse ++ [q] := by rw [← List.reverse_reverse l, hl, List.reverse_cons]
    subst this
    show overlay ((if q.t = st.t ∧ q.x = st.x ∧ q.key = st.key then (q.join st :: r).reverse else r.reverse ++ [q] ++ [st]).filter _) a b = _
    split
    · rename_i hq
      obtain ⟨h1, h2, h3⟩ := hq
      simp only [List.reverse_cons, List.filter_append, overlay_append]
      have hj := Store.byteAt_join q st a h3 h
      have e1 : (q.join st).t = q.t := rfl
      have e2 : (q.join st).x = q.x := rfl
      simp only [List.filter_cons, List.filter_nil, e1, e2, ← h1, ← h2]
      split
      · simp only [overlay, List.foldl_cons, List.foldl_nil, hj, h, Option.getD_none]
      · rfl
    · rfl

/-- A store of an element lays no byte outside it. -/
theorem State.storeBytes_forward (s : State) (t : Nat) (x : Side) (g : Target) (bytes : List Byte) (rel : List Release)
    (j : Bool) (a : Nat) (h : a < g.key ∨ g.key + bytes.length ≤ a) (u : Nat) (y : Side) (b : Byte) :
    State.forward (if isSram g.key && j then { s.storeBytes t x g bytes rel with stores := joinLast (s.storeBytes t x g bytes rel).stores }
      else s.storeBytes t x g bytes rel) u y a [b] = s.forward u y a [b] := by
  have hb := Store.byteAt_out t x g.key bytes rel a h
  have h0 : overlay ((s.stores ++ [Store.of t x g.key bytes rel]).filter fun q => q.t == u && q.x == y) a b =
      overlay (s.stores.filter fun q => q.t == u && q.x == y) a b := by
    rw [List.filter_append, overlay_append]
    simp only [List.filter_cons, List.filter_nil]
    split
    · simp only [overlay, List.foldl_cons, List.foldl_nil, hb, Option.getD_none]
    · rfl
  rw [forward_eq, forward_eq]
  refine congrArg (fun c => [c]) ?_
  cases hs : isSram g.key
  · simp only [Bool.false_and, Bool.false_eq_true, if_false]
    have : (s.storeBytes t x g bytes rel).stores = s.stores := by
      unfold State.storeBytes
      rw [hs]
      simp only [Bool.false_eq_true, if_false]
      split
      · have h := (State.watchRange_offCache { (s.recordRel g.key rel).clearPoison g.key bytes.length with
          mem := memWrite ((s.recordRel g.key rel).clearPoison g.key bytes.length).mem g.key bytes } g.key bytes.length)
        exact (congrArg State.stores h :).trans (congrArg State.stores (State.recordRel_offCache s g.key rel) :)
      · exact (congrArg State.stores (State.putL1_offCache _ _) :).trans (congrArg State.stores (State.recordRel_offCache s g.key rel) :)
    rw [this]
  · have : (s.storeBytes t x g bytes rel).stores = s.stores ++ [Store.of t x g.key bytes rel] := by
      unfold State.storeBytes; rw [if_pos hs]
    simp only [Bool.true_and]
    cases j
    · simp only [Bool.false_eq_true, if_false, this]; exact h0
    · simp only [if_true, this]
      exact (overlay_joinLast s.stores _ u y a b hb).trans h0

theorem leNat_bound (l : List Byte) : leNat l < 2 ^ (8 * l.length) := by
  induction l with
  | nil => decide
  | cons b l ih =>
    have hb := b.isLt
    simp only [leNat, List.length_cons, Nat.mul_add, Nat.pow_add]
    omega

/-- A byte of a line outside the bytes patched is as it was. -/
theorem patchLine_out (d : BitVec 512) (ofs i : Nat) (l : List Byte) (h : i < ofs ∨ ofs + l.length ≤ i) :
    (patchLine d ofs l >>> (8 * i)).setWidth 8 = (d >>> (8 * i)).setWidth 8 := by
  apply BitVec.eq_of_getLsbD_eq
  intro j hj
  have hb := leNat_bound l
  unfold patchLine
  simp only [BitVec.getLsbD_setWidth, BitVec.getLsbD_ushiftRight, BitVec.getLsbD_or, BitVec.getLsbD_and, BitVec.getLsbD_not,
    BitVec.getLsbD_shiftLeft, BitVec.getLsbD_ofNat, Nat.testBit_two_pow_sub_one]
  by_cases h2 : 8 * i + j < 512
  · rcases h with h | h
    · have : decide (8 * i + j < 8 * ofs) = true := decide_eq_true (by omega)
      simp [this, hj, h2]
    · have h3 : (leNat l).testBit (8 * i + j - 8 * ofs) = false := by
        apply Nat.testBit_lt_two_pow
        exact Nat.lt_of_lt_of_le hb (Nat.pow_le_pow_right (by decide) (by omega))
      have h4 : decide (8 * i + j - 8 * ofs < 8 * l.length) = false := decide_eq_false (by omega)
      simp [h3, h4, hj, h2]
  · simp [hj, h2, BitVec.getLsbD_of_ge d _ (Nat.le_of_not_lt h2)]

theorem byteMask_out (ofs i n : Nat) (h : i < ofs ∨ ofs + n ≤ i) : (byteMask ofs n).getLsbD i = false := by
  unfold byteMask
  simp only [BitVec.getLsbD_shiftLeft, BitVec.getLsbD_ofNat, Nat.testBit_two_pow_sub_one]
  rcases h with h | h
  · simp [h]
  · have : decide (i - ofs < n) = false := decide_eq_false (by omega)
    simp [this]

theorem State.findL1_setL1_self (s : State) (l : L1Line) : (s.setL1 l).findL1 l.core l.line = some l := by
  unfold State.setL1 State.findL1
  rw [List.find?_append]
  have : (s.l1.filter fun q => !(q.core == l.core && q.line == l.line)).find? (fun q => q.core == l.core && q.line == l.line) = none := by
    rw [List.find?_eq_none]
    intro q hq
    have := (List.mem_filter.mp hq).2
    intro hc
    rw [hc] at this
    cases this
  rw [this]
  simp

theorem State.findL1_setL1_ne (s : State) (l : L1Line) {k line : Nat} (h : k ≠ l.core ∨ line ≠ l.line) :
    (s.setL1 l).findL1 k line = s.findL1 k line := by
  unfold State.setL1 State.findL1
  rw [List.find?_append]
  have h1 : [l].find? (fun q => q.core == k && q.line == line) = none := by
    rcases h with h | h <;> simp [Ne.symm h]
  rw [h1, Option.or_none]
  generalize s.l1 = ls
  induction ls with
  | nil => rfl
  | cons q ls ih =>
    rw [List.filter_cons]
    split
    · rw [List.find?_cons, List.find?_cons, ih]
    · rename_i hq
      rw [List.find?_cons, ih]
      have : (q.core == k && q.line == line) = false := by
        simp only [Bool.and_eq_true, Bool.not_eq_true', beq_iff_eq, Bool.not_eq_false] at hq
        rcases h with h | h
        · rw [hq.1]; simp [Ne.symm h]
        · rw [hq.2]; simp [Ne.symm h]
      rw [this]

/-- With room in the core's L1, or the line in it, keeping a line moves no other. -/
theorem State.putL1_room (s : State) (l : L1Line)
    (h : (s.findL1 l.core l.line).isSome ∨ (s.l1.filter fun q => q.core == l.core).length < l1Lines) : s.putL1 l = s.setL1 l := by
  unfold State.putL1
  dsimp only
  rw [if_pos]
  rcases h with h | h <;> simp [h]

/-- A line kept adds at most one to its core's lines. -/
theorem State.setL1_count (s : State) (l : L1Line) (k : Nat) :
    ((s.setL1 l).l1.filter fun q => q.core == k).length ≤ (s.l1.filter fun q => q.core == k).length + 1 := by
  unfold State.setL1
  dsimp only
  rw [List.filter_append, List.length_append, List.filter_filter]
  have h1 : (s.l1.filter fun q => q.core == k && !(q.core == l.core && q.line == l.line)).length ≤
      (s.l1.filter fun q => q.core == k).length := by
    rw [← List.countP_eq_length_filter, ← List.countP_eq_length_filter]
    exact List.countP_mono_left fun q _ hq => by simp only [Bool.and_eq_true] at hq; exact hq.1
  have h2 : ([l].filter fun q => q.core == k).length ≤ 1 := (List.length_filter_le ..)
  omega

/-- Through a line kept every byte outside those that `bytes` replaces is held as before. -/
theorem State.setL1_byte (s : State) (l : L1Line) (k a ofs : Nat) (bytes : List Byte) (hl : s.findL1 l.core l.line = some l)
    (mark : Option (BitVec 32)) (h : a / 64 ≠ l.line ∨ a % 64 < ofs ∨ ofs + bytes.length ≤ a % 64) :
    (s.setL1 { l with data := patchLine l.data ofs bytes, valid := l.valid ||| byteMask ofs bytes.length
                      dirty := l.dirty ||| byteMask ofs bytes.length, mark := mark }).l1Byte k a = s.l1Byte k a := by
  unfold State.l1Byte
  by_cases hk : k = l.core ∧ a / 64 = l.line
  · obtain ⟨rfl, hn⟩ := hk
    have h' := h.resolve_left (fun hc => hc hn)
    have := State.findL1_setL1_self s { l with
      data := patchLine l.data ofs bytes, valid := l.valid ||| byteMask ofs bytes.length
      dirty := l.dirty ||| byteMask ofs bytes.length, mark := mark }
    dsimp only at this
    rw [hn, this, hl]
    simp only [BitVec.getLsbD_or, byteMask_out ofs (a % 64) bytes.length h', Bool.or_false,
      patchLine_out l.data ofs (a % 64) bytes h']
  · rw [State.findL1_setL1_ne]
    dsimp only
    by_cases hc : k = l.core
    · exact .inr fun hn => hk ⟨hc, hn⟩
    · exact .inl hc

/-- A line that a core does not hold, kept with some bytes, is held in those bytes only. -/
theorem State.setL1_fresh (s : State) (l : L1Line) (k a ofs : Nat) (bytes : List Byte) (hl : s.findL1 l.core l.line = none)
    (hv : l.valid = byteMask ofs bytes.length) (h : a / 64 ≠ l.line ∨ a % 64 < ofs ∨ ofs + bytes.length ≤ a % 64) :
    (s.setL1 l).l1Byte k a = s.l1Byte k a := by
  unfold State.l1Byte
  by_cases hk : k = l.core ∧ a / 64 = l.line
  · obtain ⟨rfl, hn⟩ := hk
    have h' := h.resolve_left (fun hc => hc hn)
    rw [hn, State.findL1_setL1_self, hl]
    simp only [hv, byteMask_out ofs (a % 64) bytes.length h', Bool.false_eq_true, if_false]
  · rw [State.findL1_setL1_ne]
    by_cases hc : k = l.core
    · exact .inr fun hn => hk ⟨hc, hn⟩
    · exact .inl hc

/-- A write in a core's L1 with room leaves memory and the slices, every byte outside it, and adds at most a line. -/
theorem State.writeL1_room (s : State) (t : Nat) (g : Target) (bytes : List Byte) (rel : List Release)
    (hr : (s.l1.filter fun q => q.core == coreOf t).length < l1Lines) :
    (s.writeL1 t g bytes rel).mem = s.mem ∧ (s.writeL1 t g bytes rel).rind = s.rind ∧
    ((s.writeL1 t g bytes rel).l1.filter fun q => q.core == coreOf t).length ≤ (s.l1.filter fun q => q.core == coreOf t).length + 1 ∧
    ∀ k a, (a < g.key ∨ g.key + bytes.length ≤ a) → (s.writeL1 t g bytes rel).l1Byte k a = s.l1Byte k a := by
  unfold State.writeL1
  dsimp only
  cases hf : s.findL1 (coreOf t) (g.key / 64) with
  | none =>
    simp only [Option.getD_none]
    rw [State.putL1_room _ _ (.inr hr)]
    refine ⟨rfl, rfl, State.setL1_count .., fun k a h => ?_⟩
    exact State.setL1_fresh s _ k a (g.key % 64) bytes hf (by simp) (by dsimp only; omega)
  | some l =>
    have hcl : l.core = coreOf t ∧ l.line = g.key / 64 := by
      have := List.find?_some hf
      simpa using this
    simp only [Option.getD_some]
    rw [← hcl.1, ← hcl.2] at hf
    rw [State.putL1_room _ _ (.inl (by dsimp only; rw [hf]; rfl))]
    refine ⟨rfl, rfl, State.setL1_count .., fun k a h => ?_⟩
    exact State.setL1_byte s l k a (g.key % 64) bytes hf _ (by omega)

/-- A store of one element where the core's L1 has room leaves every byte outside it as it was, wherever it is held, and
the slices. -/
theorem State.storeBytes_byte (s : State) (t : Nat) (x : Side) (g : Target) (bytes : List Byte) (rel : List Release)
    (hm : memWf s.mem = true) (hr : (s.l1.filter fun q => q.core == coreOf t).length < l1Lines) :
    (∀ a, (a < g.key ∨ g.key + bytes.length ≤ a) → memGet (s.storeBytes t x g bytes rel).mem a = memGet s.mem a ∧
      ∀ k, (s.storeBytes t x g bytes rel).l1Byte k a = s.l1Byte k a) ∧
    (s.storeBytes t x g bytes rel).rind = s.rind ∧ memWf (s.storeBytes t x g bytes rel).mem = true ∧
    ((s.storeBytes t x g bytes rel).l1.filter fun q => q.core == coreOf t).length ≤
      (s.l1.filter fun q => q.core == coreOf t).length + 1 := by
  have hrr : { s.recordRel g.key rel with rel := s.rel } = s := by unfold State.recordRel; split <;> rfl
  have hrm : (s.recordRel g.key rel).mem = s.mem := (congrArg State.mem hrr :)
  have hrl : (s.recordRel g.key rel).l1 = s.l1 := (congrArg State.l1 hrr :)
  have hri : (s.recordRel g.key rel).rind = s.rind := (congrArg State.rind hrr :)
  have hrb : ∀ k a, (s.recordRel g.key rel).l1Byte k a = s.l1Byte k a := fun k a => (congrArg (fun u => State.l1Byte u k a) hrr :)
  unfold State.storeBytes
  split
  · exact ⟨fun _ _ => ⟨rfl, fun _ => rfl⟩, rfl, hm, Nat.le_succ _⟩
  · dsimp only
    split
    · have hw (v : State) (hvm : v.mem = memWrite s.mem g.key bytes) (hvl : v.l1 = s.l1) (hvi : v.rind = s.rind)
          (hvb : ∀ k a, v.l1Byte k a = s.l1Byte k a) :
          (∀ a, (a < g.key ∨ g.key + bytes.length ≤ a) → memGet (v.watchRange g.key bytes.length).mem a = memGet s.mem a ∧
            ∀ k, (v.watchRange g.key bytes.length).l1Byte k a = s.l1Byte k a) ∧
          (v.watchRange g.key bytes.length).rind = s.rind ∧ memWf (v.watchRange g.key bytes.length).mem = true ∧
          ((v.watchRange g.key bytes.length).l1.filter fun q => q.core == coreOf t).length ≤
            (s.l1.filter fun q => q.core == coreOf t).length + 1 := by
        have hw := v.watchRange_rest g.key bytes.length
        have hwm : (v.watchRange g.key bytes.length).mem = v.mem := (congrArg State.mem hw :)
        have hwl : (v.watchRange g.key bytes.length).l1 = v.l1 := (congrArg State.l1 hw :)
        have hwi : (v.watchRange g.key bytes.length).rind = v.rind := (congrArg State.rind hw :)
        have hwb : ∀ k a, (v.watchRange g.key bytes.length).l1Byte k a = v.l1Byte k a :=
          fun k a => (congrArg (fun u => State.l1Byte u k a) hw :)
        refine ⟨fun a h => ⟨?_, fun k => (hwb k a).trans (hvb k a)⟩, hwi.trans hvi, ?_, ?_⟩
        · rw [hwm, hvm]
          exact memGet_memWrite_out hm bytes h
        · rw [hwm, hvm]
          exact memWf_memWrite hm _ _
        · rw [hwl, hvl]
          exact Nat.le_succ _
      exact hw _ (congrArg (fun m => memWrite m g.key bytes) hrm) hrl hri hrb
    · obtain ⟨h1, h2, h3, h4⟩ := State.writeL1_room (s.recordRel g.key rel) t g bytes rel (by rw [hrl]; exact hr)
      refine ⟨fun a h => ⟨by rw [h1, hrm], fun k => (h4 k a h).trans (hrb k a)⟩, h2.trans hri, by rw [h1, hrm]; exact hm, ?_⟩
      rw [hrl] at h3
      exact h3

theorem leBytes_length (n v : Nat) : (leBytes n v).length = n := by
  induction n generalizing v with
  | zero => rfl
  | succ n ih => simp [leBytes, ih]

/-- Stores of elements lay no byte outside them. -/
theorem State.storeFrom_forward (t : Nat) (x : Side) (n : Nat) (rel : List Release) (val : Nat → Nat) (l : List Elem) (a : Nat)
    (h : outside l n a) (u : Nat) (y : Side) (b : Byte) (prev : Option Nat) (s : State) :
    (s.storeFrom t x n rel val prev l).forward u y a [b] = s.forward u y a [b] := by
  induction l generalizing s prev with
  | nil => rfl
  | cons e l ih =>
    unfold State.storeFrom
    exact (ih (fun el hel => h el (List.mem_cons_of_mem _ hel)) _ _).trans
      (State.storeBytes_forward s t x e.g _ rel _ a (by rw [leBytes_length]; exact h e List.mem_cons_self) u y b)

/-- Stores of elements, a line of the core's L1 free for each, leave every byte outside them as it was, and the slices. -/
theorem State.storeFrom_byte (t : Nat) (x : Side) (n : Nat) (rel : List Release) (val : Nat → Nat) (l : List Elem)
    (prev : Option Nat) (s : State) (hm : memWf s.mem = true)
    (hr : (s.l1.filter fun q => q.core == coreOf t).length + l.length ≤ l1Lines) :
    (∀ a, outside l n a → memGet (s.storeFrom t x n rel val prev l).mem a = memGet s.mem a ∧
      ∀ k, (s.storeFrom t x n rel val prev l).l1Byte k a = s.l1Byte k a) ∧
    (s.storeFrom t x n rel val prev l).rind = s.rind := by
  induction l generalizing s prev with
  | nil => exact ⟨fun _ _ => ⟨rfl, fun _ => rfl⟩, rfl⟩
  | cons e l ih =>
    rw [List.length_cons] at hr
    obtain ⟨h1, h2, h3, h4⟩ := s.storeBytes_byte t x e.g (leBytes n (val e.i)) rel hm (by omega)
    unfold State.storeFrom
    dsimp only
    let v : State := if isSram e.g.key && prev == some (wordKey e.g.key) then
        { s.storeBytes t x e.g (leBytes n (val e.i)) rel with
          stores := joinLast (s.storeBytes t x e.g (leBytes n (val e.i)) rel).stores }
      else s.storeBytes t x e.g (leBytes n (val e.i)) rel
    have hv : { v with stores := [] } = { s.storeBytes t x e.g (leBytes n (val e.i)) rel with stores := [] } := by
      show ({ (if _ then _ else _ : State) with stores := [] } : State) = _
      split <;> rfl
    have hvm : v.mem = (s.storeBytes t x e.g (leBytes n (val e.i)) rel).mem := (congrArg State.mem hv :)
    have hvl : v.l1 = (s.storeBytes t x e.g (leBytes n (val e.i)) rel).l1 := (congrArg State.l1 hv :)
    have hvi : v.rind = (s.storeBytes t x e.g (leBytes n (val e.i)) rel).rind := (congrArg State.rind hv :)
    have hvb : ∀ k a, v.l1Byte k a = (s.storeBytes t x e.g (leBytes n (val e.i)) rel).l1Byte k a :=
      fun k a => (congrArg (fun u => State.l1Byte u k a) hv :)
    obtain ⟨i1, i2⟩ := ih (some (wordKey e.g.key)) v (by rw [hvm]; exact h3) (by rw [hvl]; omega)
    refine ⟨fun a ha => ?_, i2.trans (hvi.trans h2)⟩
    have hx := h1 a (by rw [leBytes_length]; exact ha e List.mem_cons_self)
    have hy := i1 a fun el hel => ha el (List.mem_cons_of_mem _ hel)
    exact ⟨hy.1.trans ((congrArg (fun m => memGet m a) hvm).trans hx.1), fun k => (hy.2 k).trans ((hvb k a).trans (hx.2 k))⟩

/-- The stores of a row's elements, then its retirement, leave the frame of a store. -/
theorem State.storeElems_frame (s : State) (n : Nat) (rel : List Release) (val : Nat → Nat) (l : List Elem) (la : BitVec 4)
    (long : Bool) (ws : List RegWrite) (hm : memWf s.mem = true) (hws : long = false → ws = []) :
    StoreFrame l n s ((s.storeElems s.curT s.curX n rel val l).retire la long ws) := by
  let u := s.storeElems s.curT s.curX n rel val l
  have hof : u.offStore = s.offStore := State.storeFrom_off s.curT s.curX n rel val l none s
  have hf {α : Type} (f : State → α) (hf : ∀ v : State, f v.offStore = f v) : f u = f s :=
    (hf u).symm.trans ((congrArg f hof).trans (hf s))
  have hT : u.curT = s.curT := hf State.curT fun _ => rfl
  have hX : u.curX = s.curX := hf State.curX fun _ => rfl
  have hth : ∀ k, u.thread k = s.thread k := fun k => hf (fun v => v.thread k) fun _ => rfl
  have hmy : u.my = s.my := hf State.my fun _ => rfl
  have hme : u.me = s.me := hf State.me fun _ => rfl
  have hk : Kept (fun _ => False) u (u.retire la long ws) := by
    cases long
    · rw [hws rfl]; exact u.retire_nil_kept la _
    · exact u.retire_long_kept la ws _
  have hl1 : ∀ k a, (u.retire la long ws).l1Byte k a = u.l1Byte k a := by intro k a; cases long <;> rfl
  show StoreFrame l n s (u.retire la long ws)
  generalize u.retire la long ws = t at hk hl1
  refine ⟨fun a ha y z b => ?_, fun hr => ?_, fun k hne => ?_, fun x hx => ?_,
    fun k => (hk.getS k).trans (congrArg (fun st => Strand.getS st k) hmy),
    fun k => (hk.getP k).trans (congrArg (fun st => Strand.getP st k) hmy),
    fun k => (hk.getV k).trans (congrArg (fun th => Thread.getV th k) hme), fun q => ?_, fun k _ => (hk.special k).trans ?_, ?_, ?_, ?_⟩
  · exact (hk.field (fun v => v.forward y z a [b]) fun _ _ _ => rfl).trans (State.storeFrom_forward _ _ _ _ _ _ _ ha y z b _ _)
  · obtain ⟨h1, h2⟩ := State.storeFrom_byte s.curT s.curX n rel val l none s hm hr
    exact ⟨fun a ha => ⟨(hk.field (fun v => memGet v.mem a) fun _ _ _ => rfl).trans (h1 a ha).1,
      fun k => (hl1 k a).trans ((h1 a ha).2 k)⟩, (hk.field State.rind fun _ _ _ => rfl).trans h2⟩
  · exact (hk.other k (by rw [hT]; exact hne)).trans (hth k)
  · rcases hk.side x (by rw [hX]; exact hx) with h1 | ⟨⟨_, h1⟩, -⟩
    · rw [State.me, hk.curT]
      exact h1.trans (by rw [hT, hth]; rfl)
    · exact absurd h1 id
  · rw [State.me, hk.curT]
    exact (hk.queue q id).trans (by rw [hT, hth]; rfl)
  · exact hf (fun v => v.special k) fun _ => rfl
  · exact (hk.myField Strand.sup fun _ => rfl).trans (congrArg Strand.sup hmy)
  · exact (hk.myField Strand.uh fun _ => rfl).trans (congrArg Strand.uh hmy)
  · exact (hk.field State.cores fun _ _ _ => rfl).trans (hf State.cores fun _ => rfl)

end Sys2Proof.Machine
end

