-- ==== Sys2Proof/Laws/PerInstr.lean ====
section
/-! SUPPORT. The family RoundTrip: what encoding and decoding say of one instruction, one lemma a constructor. -/

namespace Sys2Proof.Laws.RoundTrip

/-- A row with an opcode has bytes; the bytes of a well-formed instruction decode to it and leave what follows them. -/
def Statement (i : Instr) : Prop :=
  (i.op.isSome = true → (encode i).isSome = true) ∧
  ∀ b rest : List Byte, i.wf = true → encode i = some b → decode (b ++ rest) = .ok (i, rest)

/-- A row whose opcode and fields select it. -/
theorem of_row {i : Instr} (op : BitVec 8) (e : Enc) (hw : encodeWord i = some (packWord op e))
    (hi : i.wf = true → ∀ w, instrOf w op.toNat e = i) : Statement i := by
  unfold Statement encode
  rw [hw]
  refine ⟨fun _ => rfl, fun b rest hf hb => ?_⟩
  cases hb
  rw [decode_bytesOfWord]
  unfold decodeWord
  rw [opOf_packWord, fieldsOf_packWord, hi hf]

/-- A row with no word. -/
theorem of_event {i : Instr} (ho : i.op = none) (hw : encodeWord i = none) : Statement i := by
  unfold Statement encode
  rw [hw, ho]
  refine ⟨fun h => ?_, fun b rest _ hb => ?_⟩
  · cases h
  · cases hb

theorem nop (e : Enc) : Statement (.nop e) := of_row 0x01#8 e rfl fun _ _ => rfl
theorem br (e : Enc) : Statement (.br e) := of_row 0x02#8 e rfl fun _ _ => rfl
theorem brl (e : Enc) : Statement (.brl e) := of_row 0x03#8 e rfl fun _ _ => rfl
theorem jmp (e : Enc) : Statement (.jmp e) := of_row 0x04#8 e rfl fun _ _ => rfl
theorem jmpl (e : Enc) : Statement (.jmpl e) := of_row 0x05#8 e rfl fun _ _ => rfl
theorem dbnz (e : Enc) : Statement (.dbnz e) := of_row 0x06#8 e rfl fun _ _ => rfl
theorem trap (e : Enc) : Statement (.trap e) := of_row 0x07#8 e rfl fun _ _ => rfl
theorem brk (e : Enc) : Statement (.brk e) := of_row 0x08#8 e rfl fun _ _ => rfl
theorem kget (e : Enc) : Statement (.kget e) := of_row 0x09#8 e rfl fun _ _ => rfl
theorem kset (e : Enc) : Statement (.kset e) := of_row 0x0A#8 e rfl fun _ _ => rfl
theorem kswap (e : Enc) : Statement (.kswap e) := of_row 0x0B#8 e rfl fun _ _ => rfl
theorem sret (e : Enc) : Statement (.sret e) := of_row 0x0C#8 e rfl fun _ _ => rfl
theorem uret (e : Enc) : Statement (.uret e) := of_row 0x0D#8 e rfl fun _ _ => rfl
theorem add (e : Enc) : Statement (.add e) := of_row 0x10#8 e rfl fun _ _ => rfl
theorem sub (e : Enc) : Statement (.sub e) := of_row 0x11#8 e rfl fun _ _ => rfl
theorem mul (e : Enc) : Statement (.mul e) := of_row 0x12#8 e rfl fun _ _ => rfl
theorem mulh (e : Enc) : Statement (.mulh e) := of_row 0x13#8 e rfl fun _ _ => rfl
theorem mad (e : Enc) : Statement (.mad e) := of_row 0x14#8 e rfl fun _ _ => rfl
theorem div (e : Enc) : Statement (.div e) := of_row 0x15#8 e rfl fun _ _ => rfl
theorem rem (e : Enc) : Statement (.rem e) := of_row 0x16#8 e rfl fun _ _ => rfl
theorem min (e : Enc) : Statement (.min e) := of_row 0x17#8 e rfl fun _ _ => rfl
theorem max (e : Enc) : Statement (.max e) := of_row 0x18#8 e rfl fun _ _ => rfl
theorem abs (e : Enc) : Statement (.abs e) := of_row 0x19#8 e rfl fun _ _ => rfl
theorem sel (e : Enc) : Statement (.sel e) := of_row 0x1A#8 e rfl fun _ _ => rfl
theorem ldi (e : Enc) : Statement (.ldi e) := of_row 0x1B#8 e rfl fun _ _ => rfl
theorem ldp (e : Enc) : Statement (.ldp e) := of_row 0x1C#8 e rfl fun _ _ => rfl
theorem and (e : Enc) : Statement (.and e) := of_row 0x20#8 e rfl fun _ _ => rfl
theorem or (e : Enc) : Statement (.or e) := of_row 0x21#8 e rfl fun _ _ => rfl
theorem xor (e : Enc) : Statement (.xor e) := of_row 0x22#8 e rfl fun _ _ => rfl
theorem andn (e : Enc) : Statement (.andn e) := of_row 0x23#8 e rfl fun _ _ => rfl
theorem shl (e : Enc) : Statement (.shl e) := of_row 0x24#8 e rfl fun _ _ => rfl
theorem shr (e : Enc) : Statement (.shr e) := of_row 0x25#8 e rfl fun _ _ => rfl
theorem sar (e : Enc) : Statement (.sar e) := of_row 0x26#8 e rfl fun _ _ => rfl
theorem rotl (e : Enc) : Statement (.rotl e) := of_row 0x27#8 e rfl fun _ _ => rfl
theorem clz (e : Enc) : Statement (.clz e) := of_row 0x28#8 e rfl fun _ _ => rfl
theorem ctz (e : Enc) : Statement (.ctz e) := of_row 0x29#8 e rfl fun _ _ => rfl
theorem popc (e : Enc) : Statement (.popc e) := of_row 0x2A#8 e rfl fun _ _ => rfl
theorem bfx (e : Enc) : Statement (.bfx e) := of_row 0x2B#8 e rfl fun _ _ => rfl
theorem bfi (e : Enc) : Statement (.bfi e) := of_row 0x2C#8 e rfl fun _ _ => rfl
theorem cmp (e : Enc) : Statement (.cmp e) := of_row 0x2D#8 e rfl fun _ _ => rfl
theorem plog (e : Enc) : Statement (.plog e) := of_row 0x2E#8 e rfl fun _ _ => rfl
theorem fadd (e : Enc) : Statement (.fadd e) := of_row 0x30#8 e rfl fun _ _ => rfl
theorem fsub (e : Enc) : Statement (.fsub e) := of_row 0x31#8 e rfl fun _ _ => rfl
theorem fmul (e : Enc) : Statement (.fmul e) := of_row 0x32#8 e rfl fun _ _ => rfl
theorem ffma (e : Enc) : Statement (.ffma e) := of_row 0x33#8 e rfl fun _ _ => rfl
theorem fdiv (e : Enc) : Statement (.fdiv e) := of_row 0x34#8 e rfl fun _ _ => rfl
theorem fsqrt (e : Enc) : Statement (.fsqrt e) := of_row 0x35#8 e rfl fun _ _ => rfl
theorem fmin (e : Enc) : Statement (.fmin e) := of_row 0x36#8 e rfl fun _ _ => rfl
theorem fmax (e : Enc) : Statement (.fmax e) := of_row 0x37#8 e rfl fun _ _ => rfl
theorem fcmp (e : Enc) : Statement (.fcmp e) := of_row 0x38#8 e rfl fun _ _ => rfl
theorem fcvt (e : Enc) : Statement (.fcvt e) := of_row 0x39#8 e rfl fun _ _ => rfl
theorem fsgn (e : Enc) : Statement (.fsgn e) := of_row 0x3A#8 e rfl fun _ _ => rfl
theorem fclass (e : Enc) : Statement (.fclass e) := of_row 0x3B#8 e rfl fun _ _ => rfl
theorem vadd (e : Enc) : Statement (.vadd e) := of_row 0x40#8 e rfl fun _ _ => rfl
theorem vsub (e : Enc) : Statement (.vsub e) := of_row 0x41#8 e rfl fun _ _ => rfl
theorem vmul (e : Enc) : Statement (.vmul e) := of_row 0x42#8 e rfl fun _ _ => rfl
theorem vmulh (e : Enc) : Statement (.vmulh e) := of_row 0x43#8 e rfl fun _ _ => rfl
theorem vmad (e : Enc) : Statement (.vmad e) := of_row 0x44#8 e rfl fun _ _ => rfl
theorem vmin (e : Enc) : Statement (.vmin e) := of_row 0x45#8 e rfl fun _ _ => rfl
theorem vmax (e : Enc) : Statement (.vmax e) := of_row 0x46#8 e rfl fun _ _ => rfl
theorem vabs (e : Enc) : Statement (.vabs e) := of_row 0x47#8 e rfl fun _ _ => rfl
theorem vand (e : Enc) : Statement (.vand e) := of_row 0x48#8 e rfl fun _ _ => rfl
theorem vor (e : Enc) : Statement (.vor e) := of_row 0x49#8 e rfl fun _ _ => rfl
theorem vxor (e : Enc) : Statement (.vxor e) := of_row 0x4A#8 e rfl fun _ _ => rfl
theorem vshl (e : Enc) : Statement (.vshl e) := of_row 0x4B#8 e rfl fun _ _ => rfl
theorem vshr (e : Enc) : Statement (.vshr e) := of_row 0x4C#8 e rfl fun _ _ => rfl
theorem vsar (e : Enc) : Statement (.vsar e) := of_row 0x4D#8 e rfl fun _ _ => rfl
theorem vcmp (e : Enc) : Statement (.vcmp e) := of_row 0x4E#8 e rfl fun _ _ => rfl
theorem vsel (e : Enc) : Statement (.vsel e) := of_row 0x4F#8 e rfl fun _ _ => rfl
theorem vfadd (e : Enc) : Statement (.vfadd e) := of_row 0x50#8 e rfl fun _ _ => rfl
theorem vfsub (e : Enc) : Statement (.vfsub e) := of_row 0x51#8 e rfl fun _ _ => rfl
theorem vfmul (e : Enc) : Statement (.vfmul e) := of_row 0x52#8 e rfl fun _ _ => rfl
theorem vffma (e : Enc) : Statement (.vffma e) := of_row 0x53#8 e rfl fun _ _ => rfl
theorem vfdiv (e : Enc) : Statement (.vfdiv e) := of_row 0x54#8 e rfl fun _ _ => rfl
theorem vfsqrt (e : Enc) : Statement (.vfsqrt e) := of_row 0x55#8 e rfl fun _ _ => rfl
theorem vfmin (e : Enc) : Statement (.vfmin e) := of_row 0x56#8 e rfl fun _ _ => rfl
theorem vfmax (e : Enc) : Statement (.vfmax e) := of_row 0x57#8 e rfl fun _ _ => rfl
theorem vfcmp (e : Enc) : Statement (.vfcmp e) := of_row 0x58#8 e rfl fun _ _ => rfl
theorem vfcvt (e : Enc) : Statement (.vfcvt e) := of_row 0x59#8 e rfl fun _ _ => rfl
theorem vfsgn (e : Enc) : Statement (.vfsgn e) := of_row 0x5A#8 e rfl fun _ _ => rfl
theorem vfclass (e : Enc) : Statement (.vfclass e) := of_row 0x5B#8 e rfl fun _ _ => rfl
theorem bmaxe (e : Enc) : Statement (.bmaxe e) := of_row 0x5C#8 e rfl fun _ _ => rfl
theorem malign (e : Enc) : Statement (.malign e) := of_row 0x5D#8 e rfl fun _ _ => rfl
theorem vbcast (e : Enc) : Statement (.vbcast e) :=
  of_row 0x60#8 e rfl fun h w => by
    have h' : (e.fn != 1) = true := h
    show (if e.fn = 1 then Instr.vbcastEl e else .vbcast e) = _
    rw [if_neg (by simpa using h')]
theorem vbcastEl (e : Enc) : Statement (.vbcastEl e) :=
  of_row 0x60#8 e rfl fun h w => by
    have h' : (e.fn == 1) = true := h
    show (if e.fn = 1 then Instr.vbcastEl e else .vbcast e) = _
    rw [if_pos (by simpa using h')]
theorem vperm (e : Enc) : Statement (.vperm e) := of_row 0x61#8 e rfl fun _ _ => rfl
theorem vshuf (e : Enc) : Statement (.vshuf e) := of_row 0x62#8 e rfl fun _ _ => rfl
theorem vext (e : Enc) : Statement (.vext e) :=
  of_row 0x63#8 e rfl fun h w => by
    have h' : (e.fn != 1) = true := h
    show (if e.fn = 1 then Instr.vextEl e else .vext e) = _
    first | rw [if_pos (by simpa using h')] | rw [if_neg (by simpa using h')]
theorem vextEl (e : Enc) : Statement (.vextEl e) :=
  of_row 0x63#8 e rfl fun h w => by
    have h' : (e.fn == 1) = true := h
    show (if e.fn = 1 then Instr.vextEl e else .vext e) = _
    first | rw [if_pos (by simpa using h')] | rw [if_neg (by simpa using h')]
theorem vins (e : Enc) : Statement (.vins e) := of_row 0x64#8 e rfl fun _ _ => rfl
theorem vred (e : Enc) : Statement (.vred e) :=
  of_row 0x65#8 e rfl fun h w => by
    have h' : (e.sa.cls != .queue) = true := h
    show (if e.sa.cls = .queue then Instr.vredQueue e else .vred e) = _
    first | rw [if_pos (by simpa using h')] | rw [if_neg (by simpa using h')]
theorem vredQueue (e : Enc) : Statement (.vredQueue e) :=
  of_row 0x65#8 e rfl fun h w => by
    have h' : (e.sa.cls == .queue) = true := h
    show (if e.sa.cls = .queue then Instr.vredQueue e else .vred e) = _
    first | rw [if_pos (by simpa using h')] | rw [if_neg (by simpa using h')]
theorem vscan (e : Enc) : Statement (.vscan e) := of_row 0x66#8 e rfl fun _ _ => rfl
theorem vcomp (e : Enc) : Statement (.vcomp e) := of_row 0x67#8 e rfl fun _ _ => rfl
theorem lbc (e : Enc) : Statement (.lbc e) := of_row 0x68#8 e rfl fun _ _ => rfl
theorem vlq (e : Enc) : Statement (.vlq e) := of_row 0x69#8 e rfl fun _ _ => rfl
theorem pcnt (e : Enc) : Statement (.pcnt e) := of_row 0x6A#8 e rfl fun _ _ => rfl
theorem pfirst (e : Enc) : Statement (.pfirst e) := of_row 0x6B#8 e rfl fun _ _ => rfl
theorem pset (e : Enc) : Statement (.pset e) := of_row 0x6C#8 e rfl fun _ _ => rfl
theorem vexp2 (e : Enc) : Statement (.vexp2 e) := of_row 0x70#8 e rfl fun _ _ => rfl
theorem vlog2 (e : Enc) : Statement (.vlog2 e) := of_row 0x71#8 e rfl fun _ _ => rfl
theorem vrcp (e : Enc) : Statement (.vrcp e) := of_row 0x72#8 e rfl fun _ _ => rfl
theorem vrsq (e : Enc) : Statement (.vrsq e) := of_row 0x73#8 e rfl fun _ _ => rfl
theorem vsin (e : Enc) : Statement (.vsin e) := of_row 0x74#8 e rfl fun _ _ => rfl
theorem vcos (e : Enc) : Statement (.vcos e) := of_row 0x75#8 e rfl fun _ _ => rfl
theorem vtanh (e : Enc) : Statement (.vtanh e) := of_row 0x76#8 e rfl fun _ _ => rfl
theorem welf (e : Enc) : Statement (.welf e) := of_row 0x77#8 e rfl fun _ _ => rfl
theorem wmerge (e : Enc) : Statement (.wmerge e) := of_row 0x78#8 e rfl fun _ _ => rfl
theorem wred (e : Enc) : Statement (.wred e) := of_row 0x79#8 e rfl fun _ _ => rfl
theorem wfin (e : Enc) : Statement (.wfin e) := of_row 0x7A#8 e rfl fun _ _ => rfl
theorem ld (e : Enc) : Statement (.ld e) := of_row 0x80#8 e rfl fun _ _ => rfl
theorem st (e : Enc) : Statement (.st e) := of_row 0x81#8 e rfl fun _ _ => rfl
theorem vld (e : Enc) : Statement (.vld e) := of_row 0x82#8 e rfl fun _ _ => rfl
theorem vst (e : Enc) : Statement (.vst e) := of_row 0x83#8 e rfl fun _ _ => rfl
theorem vlds (e : Enc) : Statement (.vlds e) := of_row 0x84#8 e rfl fun _ _ => rfl
theorem vsts (e : Enc) : Statement (.vsts e) := of_row 0x85#8 e rfl fun _ _ => rfl
theorem vldx (e : Enc) : Statement (.vldx e) := of_row 0x86#8 e rfl fun _ _ => rfl
theorem vstx (e : Enc) : Statement (.vstx e) := of_row 0x87#8 e rfl fun _ _ => rfl
theorem tld (e : Enc) : Statement (.tld e) := of_row 0x90#8 e rfl fun _ _ => rfl
theorem vtld (e : Enc) : Statement (.vtld e) := of_row 0x91#8 e rfl fun _ _ => rfl
theorem rdm (e : Enc) : Statement (.rdm e) := of_row 0x92#8 e rfl fun _ _ => rfl
theorem rdmm (e : Enc) : Statement (.rdmm e) := of_row 0x93#8 e rfl fun _ _ => rfl
theorem tstat (e : Enc) : Statement (.tstat e) := of_row 0x94#8 e rfl fun _ _ => rfl
theorem tdrop (e : Enc) : Statement (.tdrop e) := of_row 0x95#8 e rfl fun _ _ => rfl
theorem pull (e : Enc) : Statement (.pull e) := of_row 0x96#8 e rfl fun _ _ => rfl
theorem pullr (e : Enc) : Statement (.pullr e) := of_row 0x97#8 e rfl fun _ _ => rfl
theorem fence (e : Enc) : Statement (.fence e) := of_row 0xA0#8 e rfl fun _ _ => rfl
theorem clean (e : Enc) : Statement (.clean e) := of_row 0xA1#8 e rfl fun _ _ => rfl
theorem inval (e : Enc) : Statement (.inval e) :=
  of_row 0xA2#8 e rfl fun h w => by
    have h' : (e.fn != 1) = true := h
    show (if e.fn = 1 then Instr.invalI e else .inval e) = _
    first | rw [if_pos (by simpa using h')] | rw [if_neg (by simpa using h')]
theorem invalI (e : Enc) : Statement (.invalI e) :=
  of_row 0xA2#8 e rfl fun h w => by
    have h' : (e.fn == 1) = true := h
    show (if e.fn = 1 then Instr.invalI e else .inval e) = _
    first | rw [if_pos (by simpa using h')] | rw [if_neg (by simpa using h')]
theorem discard (e : Enc) : Statement (.discard e) := of_row 0xA3#8 e rfl fun _ _ => rfl
theorem pref (e : Enc) : Statement (.pref e) := of_row 0xA4#8 e rfl fun _ _ => rfl
theorem lease (e : Enc) : Statement (.lease e) := of_row 0xA5#8 e rfl fun _ _ => rfl
theorem unlease (e : Enc) : Statement (.unlease e) := of_row 0xA6#8 e rfl fun _ _ => rfl
theorem ldsync (e : Enc) : Statement (.ldsync e) :=
  of_row 0xB0#8 e rfl fun h w => by
    have h' : (e.fn != 1) = true := h
    show (if e.fn = 1 then Instr.ldsyncTake e else .ldsync e) = _
    first | rw [if_pos (by simpa using h')] | rw [if_neg (by simpa using h')]
theorem ldsyncTake (e : Enc) : Statement (.ldsyncTake e) :=
  of_row 0xB0#8 e rfl fun h w => by
    have h' : (e.fn == 1) = true := h
    show (if e.fn = 1 then Instr.ldsyncTake e else .ldsync e) = _
    first | rw [if_pos (by simpa using h')] | rw [if_neg (by simpa using h')]
theorem stsync (e : Enc) : Statement (.stsync e) := of_row 0xB1#8 e rfl fun _ _ => rfl
theorem feset (e : Enc) : Statement (.feset e) := of_row 0xB2#8 e rfl fun _ _ => rfl
theorem festat (e : Enc) : Statement (.festat e) := of_row 0xB3#8 e rfl fun _ _ => rfl
theorem cinc (e : Enc) : Statement (.cinc e) := of_row 0xB4#8 e rfl fun _ _ => rfl
theorem csetCount (e : Enc) : Statement (.csetCount e) :=
  of_row 0xB5#8 e rfl fun h w => by
    have h' : (e.fn != 1) = true := h
    show (if e.fn = 1 then Instr.csetPend e else .csetCount e) = _
    first | rw [if_pos (by simpa using h')] | rw [if_neg (by simpa using h')]
theorem csetPend (e : Enc) : Statement (.csetPend e) :=
  of_row 0xB5#8 e rfl fun h w => by
    have h' : (e.fn == 1) = true := h
    show (if e.fn = 1 then Instr.csetPend e else .csetCount e) = _
    first | rw [if_pos (by simpa using h')] | rw [if_neg (by simpa using h')]
theorem cwait (e : Enc) : Statement (.cwait e) :=
  of_row 0xB6#8 e rfl fun h w => by
    have h' : (e.fn != 1) = true := h
    show (if e.fn = 1 then Instr.cwaitPh e else .cwait e) = _
    first | rw [if_pos (by simpa using h')] | rw [if_neg (by simpa using h')]
theorem cwaitPh (e : Enc) : Statement (.cwaitPh e) :=
  of_row 0xB6#8 e rfl fun h w => by
    have h' : (e.fn == 1) = true := h
    show (if e.fn = 1 then Instr.cwaitPh e else .cwait e) = _
    first | rw [if_pos (by simpa using h')] | rw [if_neg (by simpa using h')]
theorem cphase (e : Enc) : Statement (.cphase e) := of_row 0xB7#8 e rfl fun _ _ => rfl
theorem bar (e : Enc) : Statement (.bar e) := of_row 0xB8#8 e rfl fun _ _ => rfl
theorem advseq (e : Enc) : Statement (.advseq e) := of_row 0xB9#8 e rfl fun _ _ => rfl
theorem watch (e : Enc) : Statement (.watch e) := of_row 0xBA#8 e rfl fun _ _ => rfl
theorem unwatch (e : Enc) : Statement (.unwatch e) := of_row 0xBB#8 e rfl fun _ _ => rfl
theorem arm (e : Enc) : Statement (.arm e) := of_row 0xBC#8 e rfl fun _ _ => rfl
theorem disarm (e : Enc) : Statement (.disarm e) := of_row 0xBD#8 e rfl fun _ _ => rfl
theorem aadd (e : Enc) : Statement (.aadd e) := of_row 0xC0#8 e rfl fun _ _ => rfl
theorem aand (e : Enc) : Statement (.aand e) := of_row 0xC1#8 e rfl fun _ _ => rfl
theorem aor (e : Enc) : Statement (.aor e) := of_row 0xC2#8 e rfl fun _ _ => rfl
theorem axor (e : Enc) : Statement (.axor e) := of_row 0xC3#8 e rfl fun _ _ => rfl
theorem amin (e : Enc) : Statement (.amin e) := of_row 0xC4#8 e rfl fun _ _ => rfl
theorem amax (e : Enc) : Statement (.amax e) := of_row 0xC5#8 e rfl fun _ _ => rfl
theorem aswp (e : Enc) : Statement (.aswp e) := of_row 0xC6#8 e rfl fun _ _ => rfl
theorem acas (e : Enc) : Statement (.acas e) := of_row 0xC7#8 e rfl fun _ _ => rfl
theorem rsst (e : Enc) : Statement (.rsst e) := of_row 0xC8#8 e rfl fun _ _ => rfl
theorem rsld (e : Enc) : Statement (.rsld e) := of_row 0xC9#8 e rfl fun _ _ => rfl
theorem rsclr (e : Enc) : Statement (.rsclr e) := of_row 0xCA#8 e rfl fun _ _ => rfl
theorem msadd (e : Enc) : Statement (.msadd e) := of_row 0xD0#8 e rfl fun _ _ => rfl
theorem msmul (e : Enc) : Statement (.msmul e) := of_row 0xD1#8 e rfl fun _ _ => rfl
theorem msfma (e : Enc) : Statement (.msfma e) := of_row 0xD2#8 e rfl fun _ _ => rfl
theorem msscale (e : Enc) : Statement (.msscale e) := of_row 0xD3#8 e rfl fun _ _ => rfl
theorem mscopy (e : Enc) : Statement (.mscopy e) := of_row 0xD4#8 e rfl fun _ _ => rfl
theorem msfill (e : Enc) : Statement (.msfill e) := of_row 0xD5#8 e rfl fun _ _ => rfl
theorem msrow (e : Enc) : Statement (.msrow e) := of_row 0xD6#8 e rfl fun _ _ => rfl
theorem mszero (e : Enc) : Statement (.mszero e) := of_row 0xD7#8 e rfl fun _ _ => rfl
theorem mma (e : Enc) : Statement (.mma e) := of_row 0xE0#8 e rfl fun _ _ => rfl
theorem mring (e : Enc) : Statement (.mring e) := of_row 0xE1#8 e rfl fun _ _ => rfl
theorem scacc (e : Enc) : Statement (.scacc e) := of_row 0xE2#8 e rfl fun _ _ => rfl
theorem cld (e : Enc) : Statement (.cld e) := of_row 0xE3#8 e rfl fun _ _ => rfl
theorem cst (e : Enc) : Statement (.cst e) := of_row 0xE4#8 e rfl fun _ _ => rfl
theorem czero (e : Enc) : Statement (.czero e) := of_row 0xE5#8 e rfl fun _ _ => rfl
theorem cstat (e : Enc) : Statement (.cstat e) :=
  of_row 0xE6#8 e rfl fun h w => by
    have h' : (e.fn != 1) = true := h
    show (if e.fn = 1 then Instr.cstatClr e else .cstat e) = _
    first | rw [if_pos (by simpa using h')] | rw [if_neg (by simpa using h')]
theorem cstatClr (e : Enc) : Statement (.cstatClr e) :=
  of_row 0xE6#8 e rfl fun h w => by
    have h' : (e.fn == 1) = true := h
    show (if e.fn = 1 then Instr.cstatClr e else .cstat e) = _
    first | rw [if_pos (by simpa using h')] | rw [if_neg (by simpa using h')]
theorem mprio (e : Enc) : Statement (.mprio e) := of_row 0xE7#8 e rfl fun _ _ => rfl
theorem rgset (e : Enc) : Statement (.rgset e) := of_row 0xE8#8 e rfl fun _ _ => rfl
theorem rgclr (e : Enc) : Statement (.rgclr e) := of_row 0xE9#8 e rfl fun _ _ => rfl
theorem rgstat (e : Enc) : Statement (.rgstat e) := of_row 0xEA#8 e rfl fun _ _ => rfl
theorem cpy (e : Enc) : Statement (.cpy e) :=
  of_row 0xEB#8 e rfl fun h w => by
    have h' : (e.fn != 1) = true := h
    show (if e.fn = 1 then Instr.cpyL2 e else .cpy e) = _
    first | rw [if_pos (by simpa using h')] | rw [if_neg (by simpa using h')]
theorem cpyL2 (e : Enc) : Statement (.cpyL2 e) :=
  of_row 0xEB#8 e rfl fun h w => by
    have h' : (e.fn == 1) = true := h
    show (if e.fn = 1 then Instr.cpyL2 e else .cpy e) = _
    first | rw [if_pos (by simpa using h')] | rw [if_neg (by simpa using h')]
theorem cpys (e : Enc) : Statement (.cpys e) := of_row 0xEC#8 e rfl fun _ _ => rfl
theorem send (e : Enc) : Statement (.send e) := of_row 0xF0#8 e rfl fun _ _ => rfl
theorem sendeos (e : Enc) : Statement (.sendeos e) := of_row 0xF1#8 e rfl fun _ _ => rfl
theorem qstat (e : Enc) : Statement (.qstat e) := of_row 0xF2#8 e rfl fun _ _ => rfl
theorem park (e : Enc) : Statement (.park e) := of_row 0xF3#8 e rfl fun _ _ => rfl
theorem spawn (e : Enc) : Statement (.spawn e) := of_row 0xF4#8 e rfl fun _ _ => rfl
theorem reap (e : Enc) : Statement (.reap e) := of_row 0xF5#8 e rfl fun _ _ => rfl
theorem preempt (e : Enc) : Statement (.preempt e) := of_row 0xF6#8 e rfl fun _ _ => rfl
theorem resumeJob (e : Enc) : Statement (.resumeJob e) :=
  of_row 0xF7#8 e rfl fun h w => by
    have h' : (e.fn != 1) = true := h
    show (if e.fn = 1 then Instr.resumeRun e else .resumeJob e) = _
    first | rw [if_pos (by simpa using h')] | rw [if_neg (by simpa using h')]
theorem resumeRun (e : Enc) : Statement (.resumeRun e) :=
  of_row 0xF7#8 e rfl fun h w => by
    have h' : (e.fn == 1) = true := h
    show (if e.fn = 1 then Instr.resumeRun e else .resumeJob e) = _
    first | rw [if_pos (by simpa using h')] | rw [if_neg (by simpa using h')]
theorem ctxsave (e : Enc) : Statement (.ctxsave e) :=
  of_row 0xF8#8 e rfl fun h w => by
    have h' : (e.fn != 1) = true := h
    show (if e.fn = 1 then Instr.ctxsaveDrop e else .ctxsave e) = _
    first | rw [if_pos (by simpa using h')] | rw [if_neg (by simpa using h')]
theorem ctxsaveDrop (e : Enc) : Statement (.ctxsaveDrop e) :=
  of_row 0xF8#8 e rfl fun h w => by
    have h' : (e.fn == 1) = true := h
    show (if e.fn = 1 then Instr.ctxsaveDrop e else .ctxsave e) = _
    first | rw [if_pos (by simpa using h')] | rw [if_neg (by simpa using h')]
theorem ctxload (e : Enc) : Statement (.ctxload e) :=
  of_row 0xF9#8 e rfl fun h w => by
    have h' : (e.fn != 1) = true := h
    show (if e.fn = 1 then Instr.ctxloadDrop e else .ctxload e) = _
    first | rw [if_pos (by simpa using h')] | rw [if_neg (by simpa using h')]
theorem ctxloadDrop (e : Enc) : Statement (.ctxloadDrop e) :=
  of_row 0xF9#8 e rfl fun h w => by
    have h' : (e.fn == 1) = true := h
    show (if e.fn = 1 then Instr.ctxloadDrop e else .ctxload e) = _
    first | rw [if_pos (by simpa using h')] | rw [if_neg (by simpa using h')]
theorem tlbinvCtx (e : Enc) : Statement (.tlbinvCtx e) :=
  of_row 0xFA#8 e rfl fun h w => by
    have h' : (e.fn != 1) = true := h
    show (if e.fn = 1 then Instr.tlbinvOwn e else .tlbinvCtx e) = _
    first | rw [if_pos (by simpa using h')] | rw [if_neg (by simpa using h')]
theorem tlbinvOwn (e : Enc) : Statement (.tlbinvOwn e) :=
  of_row 0xFA#8 e rfl fun h w => by
    have h' : (e.fn == 1) = true := h
    show (if e.fn = 1 then Instr.tlbinvOwn e else .tlbinvCtx e) = _
    first | rw [if_pos (by simpa using h')] | rw [if_neg (by simpa using h')]
theorem tprobeCtx (e : Enc) : Statement (.tprobeCtx e) :=
  of_row 0xFB#8 e rfl fun h w => by
    have h' : (e.fn != 1) = true := h
    show (if e.fn = 1 then Instr.tprobeOwn e else .tprobeCtx e) = _
    first | rw [if_pos (by simpa using h')] | rw [if_neg (by simpa using h')]
theorem tprobeOwn (e : Enc) : Statement (.tprobeOwn e) :=
  of_row 0xFB#8 e rfl fun h w => by
    have h' : (e.fn == 1) = true := h
    show (if e.fn = 1 then Instr.tprobeOwn e else .tprobeCtx e) = _
    first | rw [if_pos (by simpa using h')] | rw [if_neg (by simpa using h')]
/-- The unassigned OP values, listed (R75). -/
def unassigned : List Nat :=
  [0, 14, 15, 29, 30, 31, 47, 60, 61, 62, 63, 94, 95, 109, 110, 111, 123, 124, 125, 126,
   127, 136, 137, 138, 139, 140, 141, 142, 143, 152, 153, 154, 155, 156, 157, 158, 159, 167, 168, 169,
   170, 171, 172, 173, 174, 175, 190, 191, 203, 204, 205, 206, 207, 216, 217, 218, 219, 220, 221, 222,
   223, 237, 238, 239, 252, 253, 254, 255]

set_option maxRecDepth 20000 in
theorem mem_unassigned : ∀ n : Fin 256, opUnassigned (BitVec.ofNat 8 n.val) = true → n.val ∈ unassigned := by decide

/-- An unassigned OP selects no row (R75). -/
theorem instrOf_unassigned (w : BitVec 96) (op : BitVec 8) (e : Enc) (h : opUnassigned op = true) :
    instrOf w op.toNat e = .illegalOpcode w := by
  have hm := mem_unassigned ⟨op.toNat, op.isLt⟩ (by simpa using h)
  have all : ∀ n ∈ unassigned, instrOf w n e = .illegalOpcode w := by
    unfold unassigned
    repeat refine List.forall_mem_cons.2 ⟨rfl, ?_⟩
    exact List.forall_mem_nil _
  exact all _ hm

theorem illegalOpcode (w : BitVec 96) : Statement (.illegalOpcode w) := by
  refine ⟨fun h => ?_, fun b rest hf hb => ?_⟩
  · cases h
  · cases hb
    rw [decode_bytesOfWord]
    unfold decodeWord
    rw [instrOf_unassigned _ _ _ hf]

theorem longOpComplete (t : Nat) (x : Side) (id : Nat) : Statement (.longOpComplete t x id) := of_event rfl rfl
theorem userTrapEntry : Statement .userTrapEntry := of_event rfl rfl
theorem supervisorTrapEntry : Statement .supervisorTrapEntry := of_event rfl rfl
theorem messageArrival : Statement .messageArrival := of_event rfl rfl
theorem refusalReceived : Statement .refusalReceived := of_event rfl rfl
theorem requestRepresent : Statement .requestRepresent := of_event rfl rfl
theorem sendRepresent : Statement .sendRepresent := of_event rfl rfl
theorem spawnRecordAdmit : Statement .spawnRecordAdmit := of_event rfl rfl
theorem spawnPlacement : Statement .spawnPlacement := of_event rfl rfl
theorem spawnPriorityAge : Statement .spawnPriorityAge := of_event rfl rfl
theorem clusterScrub : Statement .clusterScrub := of_event rfl rfl
theorem ticketAllocate : Statement .ticketAllocate := of_event rfl rfl
theorem ticketLineFill : Statement .ticketLineFill := of_event rfl rfl
theorem ticketLeaseExpiry : Statement .ticketLeaseExpiry := of_event rfl rfl
theorem ticketPresent : Statement .ticketPresent := of_event rfl rfl
theorem copyBlockComplete : Statement .copyBlockComplete := of_event rfl rfl
theorem copyJobFault : Statement .copyJobFault := of_event rfl rfl
theorem fenceComplete : Statement .fenceComplete := of_event rfl rfl
theorem feWordEvent : Statement .feWordEvent := of_event rfl rfl
theorem remoteLdsyncRequest : Statement .remoteLdsyncRequest := of_event rfl rfl
theorem acquireAtReleaser : Statement .acquireAtReleaser := of_event rfl rfl
theorem pageCountPeriod : Statement .pageCountPeriod := of_event rfl rfl
theorem counterArrival : Statement .counterArrival := of_event rfl rfl
theorem armActionRun : Statement .armActionRun := of_event rfl rfl
theorem watchPlaceRequest : Statement .watchPlaceRequest := of_event rfl rfl
theorem watchAnswerDelivery : Statement .watchAnswerDelivery := of_event rfl rfl
theorem watchAnswerReoffer : Statement .watchAnswerReoffer := of_event rfl rfl
theorem unwatchRequest : Statement .unwatchRequest := of_event rfl rfl
theorem atomicExecute (t : Nat) (x : Side) (id : Nat) : Statement (.atomicExecute t x id) := of_event rfl rfl
theorem msLineComplete : Statement .msLineComplete := of_event rfl rfl
theorem matrixOpStart : Statement .matrixOpStart := of_event rfl rfl
theorem matrixPriorityAge : Statement .matrixPriorityAge := of_event rfl rfl
theorem matrixOperandFetch : Statement .matrixOperandFetch := of_event rfl rfl
theorem matrixKstep : Statement .matrixKstep := of_event rfl rfl
theorem ringGroupForm : Statement .ringGroupForm := of_event rfl rfl
theorem ringLatchArrival : Statement .ringLatchArrival := of_event rfl rfl
theorem ringWatchdogExpiry : Statement .ringWatchdogExpiry := of_event rfl rfl
theorem regionCopyRow : Statement .regionCopyRow := of_event rfl rfl
theorem regionCopyFault : Statement .regionCopyFault := of_event rfl rfl
theorem l2LineInstall : Statement .l2LineInstall := of_event rfl rfl
theorem pasteEccError : Statement .pasteEccError := of_event rfl rfl
theorem l2statSnapshot : Statement .l2statSnapshot := of_event rfl rfl
theorem leaseExpiry (die ctx lid : Nat) : Statement (.leaseExpiry die ctx lid) := of_event rfl rfl
theorem establish (die n : Nat) : Statement (.establish die n) := of_event rfl rfl
theorem cxcDrain (die n : Nat) : Statement (.cxcDrain die n) := of_event rfl rfl
theorem cxcRelease (die n : Nat) : Statement (.cxcRelease die n) := of_event rfl rfl
theorem circuitTuningDone (die n : Nat) (ok : Bool) : Statement (.circuitTuningDone die n ok) := of_event rfl rfl
theorem circuitDrainDone (die n : Nat) : Statement (.circuitDrainDone die n) := of_event rfl rfl
theorem tfence (d : Nat) (g : BitVec 8) : Statement (.tfence d g) := of_event rfl rfl
theorem tableFenceComplete : Statement .tableFenceComplete := of_event rfl rfl
theorem requestBounce : Statement .requestBounce := of_event rfl rfl
theorem linkAdmission : Statement .linkAdmission := of_event rfl rfl
theorem permitGrantTimeout : Statement .permitGrantTimeout := of_event rfl rfl
theorem linkReplay : Statement .linkReplay := of_event rfl rfl
theorem packetForward (n chk : Nat) : Statement (.packetForward n chk) := of_event rfl rfl
theorem packetDelivery (n : Nat) (ok : Bool) : Statement (.packetDelivery n ok) := of_event rfl rfl
theorem packetAck : Statement .packetAck := of_event rfl rfl
theorem dropNotice : Statement .dropNotice := of_event rfl rfl
theorem packetRetransmitTimeout : Statement .packetRetransmitTimeout := of_event rfl rfl
theorem requestAnswerTimeout : Statement .requestAnswerTimeout := of_event rfl rfl
theorem laneFailure (d port : Nat) : Statement (.laneFailure d port) := of_event rfl rfl
theorem hostMemWrite (d pa : Nat) (data : List Byte) : Statement (.hostMemWrite d pa data) := of_event rfl rfl
theorem hostMemRead (d pa len : Nat) : Statement (.hostMemRead d pa len) := of_event rfl rfl
theorem hostMemoryWrite (d pa : Nat) (data : List Byte) : Statement (.hostMemoryWrite d pa data) := of_event rfl rfl
theorem registerWrite (d ofs : Nat) (v : Word) : Statement (.registerWrite d ofs v) := of_event rfl rfl
theorem partcreate : Statement .partcreate := of_event rfl rfl
theorem partdestroy : Statement .partdestroy := of_event rfl rfl
theorem rekey : Statement .rekey := of_event rfl rfl
theorem loadImage : Statement .loadImage := of_event rfl rfl
theorem drain : Statement .drain := of_event rfl rfl
theorem online : Statement .online := of_event rfl rfl
theorem resetCluster : Statement .resetCluster := of_event rfl rfl
theorem chretire : Statement .chretire := of_event rfl rfl
theorem retrain : Statement .retrain := of_event rfl rfl
theorem retrainWindowEnd (die ch : Nat) : Statement (.retrainWindowEnd die ch) := of_event rfl rfl
theorem fwupdate : Statement .fwupdate := of_event rfl rfl
theorem firmwareActivate (d blk : Nat) : Statement (.firmwareActivate d blk) := of_event rfl rfl
theorem getVersion : Statement .getVersion := of_event rfl rfl
theorem getCapabilities : Statement .getCapabilities := of_event rfl rfl
theorem negotiateAlgorithms (d alg : Nat) : Statement (.negotiateAlgorithms d alg) := of_event rfl rfl
theorem getDigests : Statement .getDigests := of_event rfl rfl
theorem getCertificate (d slot ofs len : Nat) : Statement (.getCertificate d slot ofs len) := of_event rfl rfl
theorem challenge (d slot : Nat) (nonce : BitVec 256) : Statement (.challenge d slot nonce) := of_event rfl rfl
theorem getMeasurements (d idx : Nat) (nonce : BitVec 256) : Statement (.getMeasurements d idx nonce) := of_event rfl rfl
theorem keyExchange (d link : Nat) (pub : BitVec 512) : Statement (.keyExchange d link pub) := of_event rfl rfl
theorem finish (d link : Nat) (mac : BitVec 256) : Statement (.finish d link mac) := of_event rfl rfl
theorem keyUpdate (d link : Nat) : Statement (.keyUpdate d link) := of_event rfl rfl
theorem endSession : Statement .endSession := of_event rfl rfl
theorem tdispStop (d part : Nat) (err : Bool) : Statement (.tdispStop d part err) := of_event rfl rfl
theorem correctedError (d blk : Nat) : Statement (.correctedError d blk) := of_event rfl rfl
theorem uncorrectableError : Statement .uncorrectableError := of_event rfl rfl
theorem clusterFence : Statement .clusterFence := of_event rfl rfl
theorem deviceReset : Statement .deviceReset := of_event rfl rfl
theorem bringupStageTimeout : Statement .bringupStageTimeout := of_event rfl rfl
theorem powerClockStep (d watts : Nat) : Statement (.powerClockStep d watts) := of_event rfl rfl
theorem thermalThrottle (d dieC hbmC : Nat) : Statement (.thermalThrottle d dieC hbmC) := of_event rfl rfl
theorem thermalShutdown (d dieC : Nat) : Statement (.thermalShutdown d dieC) := of_event rfl rfl
theorem pldmMonitor : Statement .pldmMonitor := of_event rfl rfl
theorem pldmFwUpdate (d blk : Nat) (image : List Byte) (sig : List Byte) : Statement (.pldmFwUpdate d blk image sig) := of_event rfl rfl
theorem tdispLock (d part : Nat) : Statement (.tdispLock d part) := of_event rfl rfl
theorem tdispStart (d part : Nat) : Statement (.tdispStart d part) := of_event rfl rfl
theorem podMembershipSet (d num q : Nat) (members : List Nat) (time : Nat) : Statement (.podMembershipSet d num q members time) := of_event rfl rfl
theorem retrainWindowStart (die ch : Nat) : Statement (.retrainWindowStart die ch) := of_event rfl rfl
theorem portTrainingComplete (d port mode : Nat) : Statement (.portTrainingComplete d port mode) := of_event rfl rfl

end Sys2Proof.Laws.RoundTrip
end

