-- ==== Sys2Proof/Laws/Results.lean ====
section
/-! SUPPORT. What the shared bodies of the rows answer where their sources and places are ready, and what acceptance says
of the operands. -/

namespace Sys2Proof.Machine

theorem ok_bind {α β : Type} (a : α) (f : α → Except Stop β) : ((Except.ok a : Except Stop α) >>= f) = f a := rfl

/-- An accepted row whose body waits blocks its strand. -/
theorem issue_wait {i : Instr} {s s1 : State} {e : Enc} {d : Desc} {body : State → Except Stop State} {c : Cond}
    (hd : describe s.me.acc i = some (e, d)) (h : accept i s = some s1) (hb : body s1 = .error (.wait c)) :
    issue d e s body = .next (s.block s.curT s.curX c) := by
  rw [issue_accept hd h, hb]; rfl

/-- An accepted row whose body waits after an effect. -/
theorem issue_waitIn {i : Instr} {s s1 s2 : State} {e : Enc} {d : Desc} {body : State → Except Stop State} {c : Cond}
    (hd : describe s.me.acc i = some (e, d)) (h : accept i s = some s1) (hb : body s1 = .error (.waitIn c s2)) :
    issue d e s body = .next (s2.block s.curT s.curX c) := by
  rw [issue_accept hd h, hb]; rfl

/-- An accepted row whose body traps. -/
theorem issue_trap {i : Instr} {s s1 : State} {e : Enc} {d : Desc} {body : State → Except Stop State} {c : TrapInfo}
    (hd : describe s.me.acc i = some (e, d)) (h : accept i s = some s1) (hb : body s1 = .error (.trap c)) :
    issue d e s body = .next (s.raise s.curT s.curX c) := by
  rw [issue_accept hd h, hb]; rfl

/-- An accepted row whose body traps after an effect. -/
theorem issue_trapIn {i : Instr} {s s1 s2 : State} {e : Enc} {d : Desc} {body : State → Except Stop State} {c : TrapInfo}
    (hd : describe s.me.acc i = some (e, d)) (h : accept i s = some s1) (hb : body s1 = .error (.trapIn c s2)) :
    issue d e s body = .next (s2.raise s.curT s.curX c) := by
  rw [issue_accept hd h, hb]; rfl

/-- A scalar row of one result retires with it. -/
theorem scalarOp_ok (long : Bool) (e : Enc) (f : Word → Word → Word × List RegWrite) (s1 s2 : State) (a b : Word) (ws)
   (hr : s1.needRoom e.da 1 (long || popsQueue e) = .ok ()) (hp : s1.readPair e = .ok ((a, b), ws, s2)) :
   scalarOp long e f s1 = .ok (s2.retire e.la (long || popsQueue e)
      (ws ++ (f a b).2 ++ [destWrite s2.my e.da (f a b).1])) := by
  unfold scalarOp
  rw [hr]; dsimp only; rw [hp]
/-- An accepted row's DA is of a class and an index that its description permits. -/
theorem accept_da {i s s1 e d} (h : accept i s = some s1) (hd : describe s.me.acc i = some (e,d)) : d.da.misused e.da = false := by
  obtain ⟨e', d', th, hq, ht, hc, hw, hv⟩ := accept_cases h
  rw [hd] at hq; cases hq
  unfold Desc.check at hc
  split at hc; · cases hc
  split at hc; · cases hc
  split at hc; · cases hc
  rename_i h3
  unfold Desc.operandClass at h3
  cases hm : d.da.misused e.da
  · rfl
  · rw [hm] at h3; simp at h3
/-- Acceptance changes no register. -/
theorem accept_kept {i s s1 e d} (h : accept i s = some s1) (hd : describe s.me.acc i = some (e,d)) : Kept (fun _ => False) s s1 := by
  obtain ⟨e', d', th, hq, ht, hc, hw, hv⟩ := accept_cases h
  rw [hd] at hq; cases hq
  exact State.waitMask_kept hw
theorem dstSlot_cls {o : Operand} (h : dstSlot.misused o = false) : o.cls = .scalar ∨ o.cls = .queue := by
  obtain ⟨c, n⟩ := o; cases c <;> simp_all [Slot.misused, dstSlot]
theorem sReg_cls {o : Operand} (h : sReg.misused o = false) : o.cls = .scalar := by
  obtain ⟨c, n⟩ := o; cases c <;> simp_all [Slot.misused, sReg]
theorem pRegSlot_cls {o : Operand} (h : pRegSlot.misused o = false) : o.cls = .predicate := by
  obtain ⟨c, n⟩ := o; cases c <;> simp_all [Slot.misused, pRegSlot]
theorem destWrite_allowed {e : Enc} {vs : List Nat} {fl} {o : Operand} (ho : o = e.da) (h : o.cls = .scalar ∨ o.cls = .queue) (st v) : writeAllowed e vs fl (destWrite st o v) := by
  subst ho
  unfold destWrite
  rcases h with h | h
  · rw [h]; exact ⟨h, rfl⟩
  · rw [h]; exact ⟨h, rfl⟩
theorem sources_named (e : Enc) : ∀ n, (e.sa.cls = .queue ∧ e.sa.idx.toNat = n) ∨ (e.sb.cls = .queue ∧ e.sb.idx.toNat = n) → ∃ o ∈ [e.da, e.sa, e.sb], o.cls = .queue ∧ o.idx.toNat = n := by
  rintro n (⟨h1, h2⟩ | ⟨h1, h2⟩)
  · exact ⟨e.sa, by simp, h1, h2⟩
  · exact ⟨e.sb, by simp, h1, h2⟩
/-- A scalar row whose result is known, and which writes its destination and flags alone, has the frame of a scalar row. -/
theorem scalarFramed_of {row : Enc → Instr} {long fl : Bool} {f : Enc → Strand → Word → Word → Word × List RegWrite} (D : Enc → Desc)
   (hd : ∀ e acc, describe acc (row e) = some (e, D e)) (hdst : ∀ e, (D e).da = dstSlot ∨ (D e).da = sReg)
   (hf : ∀ e st a b, (f e st a b).2 = [] ∨ fl = true ∧ ∃ g, (f e st a b).2 = [.fps g])
   (hres : ScalarResult row long f) : ScalarFramed row long fl := by
  intro e s s1 s2 a b ws h hr hp
  refine ⟨_, hres e s s1 s2 a b ws h hr hp, ?_⟩
  refine (accept_kept h (hd ..)).before e [] [] fl (fun n hn => hn.elim) ?_
  obtain ⟨kp, kw⟩ := State.readPair_kept hp
  refine kp.before e [] [] fl (sources_named e) ?_
  have hc : e.da.cls = .scalar ∨ e.da.cls = .queue := by
    rcases hdst e with hh | hh
    · exact dstSlot_cls (by rw [← hh]; exact accept_da h (hd ..))
    · exact .inl (sReg_cls (by rw [← hh]; exact accept_da h (hd ..)))
  cases hl : (long || popsQueue e)
  · refine State.retire_short_frame _ _ _ ?_
    simp only [Bool.or_eq_false_iff] at hl
    rw [kw hl.2]
    intro w hw
    simp only [List.nil_append, List.mem_append, List.mem_singleton] at hw
    rcases hw with hw | rfl
    · rcases hf e s1.my a b with h0 | ⟨h1, g, h2⟩
      · rw [h0] at hw; cases hw
      · rw [h2] at hw; simp at hw; subst hw; exact .inl h1
    · exact destWrite_allowed rfl hc _ _
  · exact (State.retire_long_kept _ _ _ (fun _ => False)).rowFrame e [] [] fl (fun n hn => hn.elim)

/-- A vector row of one result retires with it. -/
theorem vectorOp_ok (long : Bool) (e : Enc) (f : Nat → Nat → Nat → FRes) (s1 s2 s3 : State) (a b : VReg) (wa wb)
   (hr : s1.needRoom e.da 1 (long || popsQueue e) = .ok ()) (h1 : s1.readVecSrc e (tyWidth true e.ty) e.sa = .ok (a, wa, s2))
   (h2 : s2.readVecSrc e (tyWidth true e.ty) e.sb = .ok (b, wb, s3)) :
   vectorOp long e f s1 = .ok (s3.retire e.la (long || popsQueue e)
      (wa ++ wb ++ [.fps (vectorOf e s3.my (s3.me.getV e.da.idx.toNat) a b f).2,
        destWriteV s3.my e.da (elemMask (s3.my.guard e) (tyWidth true e.ty))
          (vectorOf e s3.my (s3.me.getV e.da.idx.toNat) a b f).1])) := by
  unfold vectorOp
  simp only [hr, h1, h2, ok_bind]
  rfl
/-- A vector comparison retires with its predicate. -/
theorem vectorCompare_ok (e : Enc) (f) (s1 s2 s3 : State) (a b : VReg) (wa wb)
   (h1 : s1.readVecSrc e (tyWidth true e.ty) e.sa = .ok (a, wa, s2))
   (h2 : s2.readVecSrc e (tyWidth true e.ty) e.sb = .ok (b, wb, s3)) :
    let w := tyWidth true e.ty
    let rs := (enabledElems s3.my e w).map fun i => (i, f (elemOf w a i) (elemOf w b i))
   vectorCompare e f s1 = .ok (s3.retire e.la (popsQueue e) (wa ++ wb ++
      [.fps (rs.foldl (fun a r => a ||| r.2.2) 0),
       .p e.da.idx.toNat (predMask (s3.my.guard e) w) (predOf w ((rs.filter fun r => r.2.1).map (·.1)))])) := by
  unfold vectorCompare
  simp only [h1, h2, ok_bind]
  rfl

/-- An atomic row whose die is the strand's own, or grants it, is accepted as a long operation. -/
theorem atomicBody_ok (op : AtomicOp) (e : Enc) (s1 s2 s3 s4 : State) (g : Target) :
    let dm := s3.lineDomain s2.curT g
    let a : AtomicWait := ⟨{ op := op, ty := e.ty, key := g.key, va := effAddr s1 e, home := g.home, kind := g.kind
                             b := s3.my.getS e.sb.idx.toNat, d := s3.my.getS e.da.idx.toNat, dst := e.da.idx.toNat
                             acq := e.gs.getLsbD 0, rel := [], part := dm.1, dom := dm.2.1, ctx := dm.2.2 },
                           e.gs.getLsbD 1, e.la⟩
    s1.resolve s1.curT (effAddr s1 e) (tyWidth false e.ty / 8) (tyWidth false e.ty / 8) e.sw.toNat .atomic false = .ok (g, s2) →
    atomicPlaceBad op e.ty g = none → s2.touchRange s2.curT g = .ok s3 → s3.admitAtomic (targetDie s2.curT g) a = .ok s4 →
    atomicBody op e s1 = .ok (s4.acceptAtomic s2.curT s4.curX a) := by
  intro dm a h1 h2 h3 h4
  unfold atomicBody
  simp only [h1, ok_bind, h2, h3]
  rw [show s3.admitAtomic (targetDie s2.curT g) _ = _ from h4]
  rfl

/-- A tile row enters the queue of the matrix unit. -/
theorem tileBody_ok {e : Enc} {s1 : State} {op : MatOp} (h : s1.matFull = false) : tileBody e s1 op = .ok ((s1.enqueueMat op).2.updMy fun st => st.accept e.la (.matrix (s1.enqueueMat op).1) false []) := by
  unfold tileBody; rw [if_neg (by simp [h])]

/-- The index of a scalar DA is in range. -/
theorem accept_idx {i s s1 e d} (h : accept i s = some s1) (hd : describe s.me.acc i = some (e,d)) (hs : d.da = sReg) : e.da.idx.toNat < 64 := by
  obtain ⟨e', d', th, hq, ht, hc, hw, hv⟩ := accept_cases h
  rw [hd] at hq; cases hq
  unfold Desc.check at hc
  split at hc; · cases hc
  split at hc; · cases hc
  split at hc; · cases hc
  rename_i h3
  unfold Desc.operandClass at h3
  rw [hs] at h3
  simp [Slot.misused, sReg] at h3
  obtain ⟨⟨⟨⟨⟨⟨⟨⟨⟨h3, _⟩,_⟩,_⟩,_⟩,_⟩,_⟩,_⟩,_⟩,_⟩ := h3
  have := h3.2
  rw [h3.1] at this
  simpa [classSize] using this
theorem jumpAligned_iff (a : Word) : jumpAligned a = true ↔ a.toNat % 4 = 0 := by
  unfold jumpAligned
  rw [beq_iff_eq, ← BitVec.toNat_inj]
  simp

theorem setFlight_self (s : State) (t : Nat) (x : Side) (f : Flight) : ((s.setFlight t x f).strand t x).flight = some f := by
  simp [State.setFlight, State.updStrand, State.setStrand, State.strand]

end Sys2Proof.Machine
end

