-- ==== Sys2Proof/Laws/Turn.lean ====
section
/-! SUPPORT. Whose turn it is: what a barrel names is a slot of its core, and the default mover issues no strand out of turn. -/

namespace Sys2Proof.Machine

theorem State.barrel_core {s : State} {k t : Nat} {x : Side} (h : s.barrel k x = some t) : coreOf t = k := by
  unfold State.barrel at h
  simp only [Option.ite_none_left_eq_some] at h
  have hm := List.mem_of_find?_eq_some h.2
  simp only [List.mem_map] at hm
  obtain ⟨i, -, rfl⟩ := hm
  unfold coreOf
  omega

theorem State.turn_of_barrelA {s : State} {k t : Nat} (h : s.barrel k .strandA = some t) : s.turn t .strandA = true := by
  unfold State.turn
  rw [State.barrel_core h, h]
  simp

theorem State.turn_of_barrelX {s : State} {k t : Nat} (ha : s.barrel k .strandA = none) (h : s.barrel k .strandX = some t) :
    s.turn t .strandX = true := by
  unfold State.turn
  rw [State.barrel_core h, h, ha]
  simp

/-- The strand that issues next is one whose turn it is (R34). -/
theorem State.turn_of_nextIssuer {s : State} {t : Nat} {x : Side} (h : s.nextIssuer = some (t, x)) : s.turn t x = true := by
  unfold State.nextIssuer at h
  obtain ⟨k, -, hk⟩ := List.exists_of_findSome?_eq_some h
  cases ha : s.barrel k .strandA with
  | some u =>
    rw [ha] at hk
    cases hk
    exact State.turn_of_barrelA ha
  | none =>
    rw [ha] at hk
    obtain ⟨u, hx, hu⟩ := Option.map_eq_some_iff.mp hk
    cases hu
    exact State.turn_of_barrelX ha hx

/-- A step that the default mover takes changes something, so that an issue is none of them. -/
theorem State.turn_of_choose {s : State} {t : Nat} {x : Side} (h : s.choose = .issue t x) : s.turn t x = true := by
  unfold State.choose at h
  split at h
  · cases h
  · split at h
    · rename_i m hm
      have hc := List.find?_some hm
      rw [h] at hc
      simp [State.changes] at hc
    · split at h
      · rename_i t' x' hn
        cases h
        exact State.turn_of_nextIssuer hn
      · cases h

end Sys2Proof.Machine
end

