-- ==== Sys2Proof/Tests/Slice0.lean ====
section
/-! SUPPORT. Tests: the checks of well-formedness refuse ill-formed terms, words decode as the spec encodes them, and every
statement's hypotheses are met by a concrete state and operands. -/

namespace Sys2Proof.Tests

open Sys2Proof Sys2Proof.Machine

set_option Elab.async false

/-! ### Small states and operands -/

/-- Fields that name nothing. -/
def blank : Enc := ⟨0, .none, false, 0, 0, 0, ⟨.absent, 0⟩, ⟨.absent, 0⟩, ⟨.absent, 0⟩, 0, 0, false, false, .rne, 0⟩

/-- A supervisor thread at name 7 whose X-strand issues, with every tile held and message queue entries to pop. -/
def person : Thread :=
  { Thread.zero with isSup := true, acc := 0xFF, uvec := 0x100
                     x := { Strand.zero with sup := true, pc := 0x20000000000 } }

/-- A device past bring-up, cluster 0 in service and running, thread 7's X-strand about to issue. -/
def base : State :=
  { State.reset with
    devices := [(0, { Device.zero with stage := 8 })], threads := [(7, person)]
    clusters := [(0, { Cluster.zero with service := .inService, run := .running, part := 1 })], curT := 7, curX := .strandX }

/-- An operand of the first class that a slot permits. -/
def slotOp (k : Nat) : Slot → Operand
  | .unused => ⟨.absent, 0⟩
  | .of l =>
    match l.head? with
    | some .scalar => ⟨.scalar, BitVec.ofNat 7 (8 + 8 * k)⟩
    | some .vector => ⟨.vector, BitVec.ofNat 7 (4 + 4 * k)⟩
    | some .predicate => ⟨.predicate, BitVec.ofNat 7 (1 + k)⟩
    | some .tile => ⟨.tile, BitVec.ofNat 7 k⟩
    | some .special => ⟨.special, 9⟩
    | some c => ⟨c, 0⟩
    | none => ⟨.absent, 0⟩

/-- Candidate fields of a row, the operands filled in from its description. -/
def fill (row : Enc → Instr) (e : Enc) : Option Enc :=
  match describe 0xFF (row e) with
  | some (_, d) =>
    if d.legal && !d.gs.illegal e.gs.toNat then some { e with da := slotOp 0 d.da, sa := slotOp 1 d.sa, sb := slotOp 2 d.sb }
    else none
  | none => none

def types : List Ty := [.none, .s8, .u8, .s16, .u16, .s32, .u32, .s64, .u64, .bf16, .fp16, .fp32, .pl, .b]

/-- The first fields that a row's description permits. -/
def pick (row : Enc → Instr) : Enc :=
  let all := (List.range 16).flatMap fun f => types.flatMap fun t => (List.range 8).map fun g =>
    { blank with fn := BitVec.ofNat 4 f, ty := t, gs := BitVec.ofNat 3 g }
  (all.findSome? (fill row)).getD blank

def accepted (i : Instr) (s : State) (k : State → Bool) : Bool :=
  match accept i s with
  | some s1 => k s1
  | none => false

def okay {ε α : Type} (x : Except ε α) (k : α → Bool) : Bool :=
  match x with
  | .ok a => k a
  | .error _ => false


/-! ### Decoding: a word of each row, written from R57, R58, R65, R66 and R74 -/

/-- Every field at a value of its own: TY 5, G 1010, LA 3, WM 81H, DA s9, SB p6, SW 5, MD 1101010, IMM ABCDEFH. -/
def sample (fn : BitVec 4) (sa : OpClass) : Enc :=
  ⟨fn, .s32, true, 2, 3, 0x81, ⟨.scalar, 9⟩, ⟨sa, 5⟩, ⟨.predicate, 6⟩, 5, 6, true, false, .rdn, 0xABCDEF⟩

def decodes (l : List (BitVec 96 × Instr)) : Bool := l.all fun p => decodeWord p.1 == p.2

theorem test_words_control : decodes
    [(0x0105A3810248541AEAABCDEF, .nop (sample 0 .vector)),
     (0x0205A3810248541AEAABCDEF, .br (sample 0 .vector)),
     (0x0305A3810248541AEAABCDEF, .brl (sample 0 .vector)),
     (0x0405A3810248541AEAABCDEF, .jmp (sample 0 .vector)),
     (0x0505A3810248541AEAABCDEF, .jmpl (sample 0 .vector)),
     (0x0605A3810248541AEAABCDEF, .dbnz (sample 0 .vector)),
     (0x0705A3810248541AEAABCDEF, .trap (sample 0 .vector)),
     (0x0805A3810248541AEAABCDEF, .brk (sample 0 .vector)),
     (0x0905A3810248541AEAABCDEF, .kget (sample 0 .vector)),
     (0x0A05A3810248541AEAABCDEF, .kset (sample 0 .vector)),
     (0x0B05A3810248541AEAABCDEF, .kswap (sample 0 .vector)),
     (0x0C05A3810248541AEAABCDEF, .sret (sample 0 .vector)),
     (0x0D05A3810248541AEAABCDEF, .uret (sample 0 .vector))] = true := by decide +kernel

theorem test_words_scalarInteger : decodes
    [(0x1005A3810248541AEAABCDEF, .add (sample 0 .vector)),
     (0x1105A3810248541AEAABCDEF, .sub (sample 0 .vector)),
     (0x1205A3810248541AEAABCDEF, .mul (sample 0 .vector)),
     (0x1305A3810248541AEAABCDEF, .mulh (sample 0 .vector)),
     (0x1405A3810248541AEAABCDEF, .mad (sample 0 .vector)),
     (0x1505A3810248541AEAABCDEF, .div (sample 0 .vector)),
     (0x1605A3810248541AEAABCDEF, .rem (sample 0 .vector)),
     (0x1705A3810248541AEAABCDEF, .min (sample 0 .vector)),
     (0x1805A3810248541AEAABCDEF, .max (sample 0 .vector)),
     (0x1905A3810248541AEAABCDEF, .abs (sample 0 .vector)),
     (0x1A05A3810248541AEAABCDEF, .sel (sample 0 .vector)),
     (0x1B05A3810248541AEAABCDEF, .ldi (sample 0 .vector)),
     (0x1C05A3810248541AEAABCDEF, .ldp (sample 0 .vector))] = true := by decide +kernel

theorem test_words_bitsAndShifts : decodes
    [(0x2005A3810248541AEAABCDEF, .and (sample 0 .vector)),
     (0x2105A3810248541AEAABCDEF, .or (sample 0 .vector)),
     (0x2205A3810248541AEAABCDEF, .xor (sample 0 .vector)),
     (0x2305A3810248541AEAABCDEF, .andn (sample 0 .vector)),
     (0x2405A3810248541AEAABCDEF, .shl (sample 0 .vector)),
     (0x2505A3810248541AEAABCDEF, .shr (sample 0 .vector)),
     (0x2605A3810248541AEAABCDEF, .sar (sample 0 .vector)),
     (0x2705A3810248541AEAABCDEF, .rotl (sample 0 .vector)),
     (0x2805A3810248541AEAABCDEF, .clz (sample 0 .vector)),
     (0x2905A3810248541AEAABCDEF, .ctz (sample 0 .vector)),
     (0x2A05A3810248541AEAABCDEF, .popc (sample 0 .vector)),
     (0x2B05A3810248541AEAABCDEF, .bfx (sample 0 .vector)),
     (0x2C05A3810248541AEAABCDEF, .bfi (sample 0 .vector)),
     (0x2D05A3810248541AEAABCDEF, .cmp (sample 0 .vector)),
     (0x2E05A3810248541AEAABCDEF, .plog (sample 0 .vector))] = true := by decide +kernel

theorem test_words_scalarFloat : decodes
    [(0x3005A3810248541AEAABCDEF, .fadd (sample 0 .vector)),
     (0x3105A3810248541AEAABCDEF, .fsub (sample 0 .vector)),
     (0x3205A3810248541AEAABCDEF, .fmul (sample 0 .vector)),
     (0x3305A3810248541AEAABCDEF, .ffma (sample 0 .vector)),
     (0x3405A3810248541AEAABCDEF, .fdiv (sample 0 .vector)),
     (0x3505A3810248541AEAABCDEF, .fsqrt (sample 0 .vector)),
     (0x3605A3810248541AEAABCDEF, .fmin (sample 0 .vector)),
     (0x3705A3810248541AEAABCDEF, .fmax (sample 0 .vector)),
     (0x3805A3810248541AEAABCDEF, .fcmp (sample 0 .vector)),
     (0x3905A3810248541AEAABCDEF, .fcvt (sample 0 .vector)),
     (0x3A05A3810248541AEAABCDEF, .fsgn (sample 0 .vector)),
     (0x3B05A3810248541AEAABCDEF, .fclass (sample 0 .vector))] = true := by decide +kernel

theorem test_words_vectorInteger : decodes
    [(0x4005A3810248541AEAABCDEF, .vadd (sample 0 .vector)),
     (0x4105A3810248541AEAABCDEF, .vsub (sample 0 .vector)),
     (0x4205A3810248541AEAABCDEF, .vmul (sample 0 .vector)),
     (0x4305A3810248541AEAABCDEF, .vmulh (sample 0 .vector)),
     (0x4405A3810248541AEAABCDEF, .vmad (sample 0 .vector)),
     (0x4505A3810248541AEAABCDEF, .vmin (sample 0 .vector)),
     (0x4605A3810248541AEAABCDEF, .vmax (sample 0 .vector)),
     (0x4705A3810248541AEAABCDEF, .vabs (sample 0 .vector)),
     (0x4805A3810248541AEAABCDEF, .vand (sample 0 .vector)),
     (0x4905A3810248541AEAABCDEF, .vor (sample 0 .vector)),
     (0x4A05A3810248541AEAABCDEF, .vxor (sample 0 .vector)),
     (0x4B05A3810248541AEAABCDEF, .vshl (sample 0 .vector)),
     (0x4C05A3810248541AEAABCDEF, .vshr (sample 0 .vector)),
     (0x4D05A3810248541AEAABCDEF, .vsar (sample 0 .vector)),
     (0x4E05A3810248541AEAABCDEF, .vcmp (sample 0 .vector)),
     (0x4F05A3810248541AEAABCDEF, .vsel (sample 0 .vector))] = true := by decide +kernel

theorem test_words_vectorFloat : decodes
    [(0x5005A3810248541AEAABCDEF, .vfadd (sample 0 .vector)),
     (0x5105A3810248541AEAABCDEF, .vfsub (sample 0 .vector)),
     (0x5205A3810248541AEAABCDEF, .vfmul (sample 0 .vector)),
     (0x5305A3810248541AEAABCDEF, .vffma (sample 0 .vector)),
     (0x5405A3810248541AEAABCDEF, .vfdiv (sample 0 .vector)),
     (0x5505A3810248541AEAABCDEF, .vfsqrt (sample 0 .vector)),
     (0x5605A3810248541AEAABCDEF, .vfmin (sample 0 .vector)),
     (0x5705A3810248541AEAABCDEF, .vfmax (sample 0 .vector)),
     (0x5805A3810248541AEAABCDEF, .vfcmp (sample 0 .vector)),
     (0x5905A3810248541AEAABCDEF, .vfcvt (sample 0 .vector)),
     (0x5A05A3810248541AEAABCDEF, .vfsgn (sample 0 .vector)),
     (0x5B05A3810248541AEAABCDEF, .vfclass (sample 0 .vector)),
     (0x5C05A3810248541AEAABCDEF, .bmaxe (sample 0 .vector)),
     (0x5D05A3810248541AEAABCDEF, .malign (sample 0 .vector))] = true := by decide +kernel

theorem test_words_lanesAndPredicates : decodes
    [(0x6005A3810248541AEAABCDEF, .vbcast (sample 0 .vector)),
     (0x6015A3810248541AEAABCDEF, .vbcastEl (sample 1 .vector)),
     (0x6105A3810248541AEAABCDEF, .vperm (sample 0 .vector)),
     (0x6205A3810248541AEAABCDEF, .vshuf (sample 0 .vector)),
     (0x6305A3810248541AEAABCDEF, .vext (sample 0 .vector)),
     (0x6315A3810248541AEAABCDEF, .vextEl (sample 1 .vector)),
     (0x6405A3810248541AEAABCDEF, .vins (sample 0 .vector)),
     (0x6505A3810248541AEAABCDEF, .vred (sample 0 .vector)),
     (0x6505A3810258541AEAABCDEF, .vredQueue (sample 0 .queue)),
     (0x6605A3810248541AEAABCDEF, .vscan (sample 0 .vector)),
     (0x6705A3810248541AEAABCDEF, .vcomp (sample 0 .vector)),
     (0x6805A3810248541AEAABCDEF, .lbc (sample 0 .vector)),
     (0x6905A3810248541AEAABCDEF, .vlq (sample 0 .vector)),
     (0x6A05A3810248541AEAABCDEF, .pcnt (sample 0 .vector)),
     (0x6B05A3810248541AEAABCDEF, .pfirst (sample 0 .vector)),
     (0x6C05A3810248541AEAABCDEF, .pset (sample 0 .vector))] = true := by decide +kernel

theorem test_words_specialFunctions : decodes
    [(0x7005A3810248541AEAABCDEF, .vexp2 (sample 0 .vector)),
     (0x7105A3810248541AEAABCDEF, .vlog2 (sample 0 .vector)),
     (0x7205A3810248541AEAABCDEF, .vrcp (sample 0 .vector)),
     (0x7305A3810248541AEAABCDEF, .vrsq (sample 0 .vector)),
     (0x7405A3810248541AEAABCDEF, .vsin (sample 0 .vector)),
     (0x7505A3810248541AEAABCDEF, .vcos (sample 0 .vector)),
     (0x7605A3810248541AEAABCDEF, .vtanh (sample 0 .vector)),
     (0x7705A3810248541AEAABCDEF, .welf (sample 0 .vector)),
     (0x7805A3810248541AEAABCDEF, .wmerge (sample 0 .vector)),
     (0x7905A3810248541AEAABCDEF, .wred (sample 0 .vector)),
     (0x7A05A3810248541AEAABCDEF, .wfin (sample 0 .vector))] = true := by decide +kernel

theorem test_words_loadsAndStores : decodes
    [(0x8005A3810248541AEAABCDEF, .ld (sample 0 .vector)),
     (0x8105A3810248541AEAABCDEF, .st (sample 0 .vector)),
     (0x8205A3810248541AEAABCDEF, .vld (sample 0 .vector)),
     (0x8305A3810248541AEAABCDEF, .vst (sample 0 .vector)),
     (0x8405A3810248541AEAABCDEF, .vlds (sample 0 .vector)),
     (0x8505A3810248541AEAABCDEF, .vsts (sample 0 .vector)),
     (0x8605A3810248541AEAABCDEF, .vldx (sample 0 .vector)),
     (0x8705A3810248541AEAABCDEF, .vstx (sample 0 .vector))] = true := by decide +kernel

theorem test_words_ticketsAndPulls : decodes
    [(0x9005A3810248541AEAABCDEF, .tld (sample 0 .vector)),
     (0x9105A3810248541AEAABCDEF, .vtld (sample 0 .vector)),
     (0x9205A3810248541AEAABCDEF, .rdm (sample 0 .vector)),
     (0x9305A3810248541AEAABCDEF, .rdmm (sample 0 .vector)),
     (0x9405A3810248541AEAABCDEF, .tstat (sample 0 .vector)),
     (0x9505A3810248541AEAABCDEF, .tdrop (sample 0 .vector)),
     (0x9605A3810248541AEAABCDEF, .pull (sample 0 .vector)),
     (0x9705A3810248541AEAABCDEF, .pullr (sample 0 .vector))] = true := by decide +kernel

theorem test_words_maintenance : decodes
    [(0xA005A3810248541AEAABCDEF, .fence (sample 0 .vector)),
     (0xA105A3810248541AEAABCDEF, .clean (sample 0 .vector)),
     (0xA205A3810248541AEAABCDEF, .inval (sample 0 .vector)),
     (0xA215A3810248541AEAABCDEF, .invalI (sample 1 .vector)),
     (0xA305A3810248541AEAABCDEF, .discard (sample 0 .vector)),
     (0xA405A3810248541AEAABCDEF, .pref (sample 0 .vector)),
     (0xA505A3810248541AEAABCDEF, .lease (sample 0 .vector)),
     (0xA605A3810248541AEAABCDEF, .unlease (sample 0 .vector))] = true := by decide +kernel

theorem test_words_synchronisation : decodes
    [(0xB005A3810248541AEAABCDEF, .ldsync (sample 0 .vector)),
     (0xB015A3810248541AEAABCDEF, .ldsyncTake (sample 1 .vector)),
     (0xB105A3810248541AEAABCDEF, .stsync (sample 0 .vector)),
     (0xB205A3810248541AEAABCDEF, .feset (sample 0 .vector)),
     (0xB305A3810248541AEAABCDEF, .festat (sample 0 .vector)),
     (0xB405A3810248541AEAABCDEF, .cinc (sample 0 .vector)),
     (0xB505A3810248541AEAABCDEF, .csetCount (sample 0 .vector)),
     (0xB515A3810248541AEAABCDEF, .csetPend (sample 1 .vector)),
     (0xB605A3810248541AEAABCDEF, .cwait (sample 0 .vector)),
     (0xB615A3810248541AEAABCDEF, .cwaitPh (sample 1 .vector)),
     (0xB705A3810248541AEAABCDEF, .cphase (sample 0 .vector)),
     (0xB805A3810248541AEAABCDEF, .bar (sample 0 .vector)),
     (0xB905A3810248541AEAABCDEF, .advseq (sample 0 .vector)),
     (0xBA05A3810248541AEAABCDEF, .watch (sample 0 .vector)),
     (0xBB05A3810248541AEAABCDEF, .unwatch (sample 0 .vector)),
     (0xBC05A3810248541AEAABCDEF, .arm (sample 0 .vector)),
     (0xBD05A3810248541AEAABCDEF, .disarm (sample 0 .vector))] = true := by decide +kernel

theorem test_words_atomicsAndSlots : decodes
    [(0xC005A3810248541AEAABCDEF, .aadd (sample 0 .vector)),
     (0xC105A3810248541AEAABCDEF, .aand (sample 0 .vector)),
     (0xC205A3810248541AEAABCDEF, .aor (sample 0 .vector)),
     (0xC305A3810248541AEAABCDEF, .axor (sample 0 .vector)),
     (0xC405A3810248541AEAABCDEF, .amin (sample 0 .vector)),
     (0xC505A3810248541AEAABCDEF, .amax (sample 0 .vector)),
     (0xC605A3810248541AEAABCDEF, .aswp (sample 0 .vector)),
     (0xC705A3810248541AEAABCDEF, .acas (sample 0 .vector)),
     (0xC805A3810248541AEAABCDEF, .rsst (sample 0 .vector)),
     (0xC905A3810248541AEAABCDEF, .rsld (sample 0 .vector)),
     (0xCA05A3810248541AEAABCDEF, .rsclr (sample 0 .vector))] = true := by decide +kernel

theorem test_words_memorySide : decodes
    [(0xD005A3810248541AEAABCDEF, .msadd (sample 0 .vector)),
     (0xD105A3810248541AEAABCDEF, .msmul (sample 0 .vector)),
     (0xD205A3810248541AEAABCDEF, .msfma (sample 0 .vector)),
     (0xD305A3810248541AEAABCDEF, .msscale (sample 0 .vector)),
     (0xD405A3810248541AEAABCDEF, .mscopy (sample 0 .vector)),
     (0xD505A3810248541AEAABCDEF, .msfill (sample 0 .vector)),
     (0xD605A3810248541AEAABCDEF, .msrow (sample 0 .vector)),
     (0xD705A3810248541AEAABCDEF, .mszero (sample 0 .vector))] = true := by decide +kernel

theorem test_words_matrixAndCopies : decodes
    [(0xE005A3810248541AEAABCDEF, .mma (sample 0 .vector)),
     (0xE105A3810248541AEAABCDEF, .mring (sample 0 .vector)),
     (0xE205A3810248541AEAABCDEF, .scacc (sample 0 .vector)),
     (0xE305A3810248541AEAABCDEF, .cld (sample 0 .vector)),
     (0xE405A3810248541AEAABCDEF, .cst (sample 0 .vector)),
     (0xE505A3810248541AEAABCDEF, .czero (sample 0 .vector)),
     (0xE605A3810248541AEAABCDEF, .cstat (sample 0 .vector)),
     (0xE615A3810248541AEAABCDEF, .cstatClr (sample 1 .vector)),
     (0xE705A3810248541AEAABCDEF, .mprio (sample 0 .vector)),
     (0xE805A3810248541AEAABCDEF, .rgset (sample 0 .vector)),
     (0xE905A3810248541AEAABCDEF, .rgclr (sample 0 .vector)),
     (0xEA05A3810248541AEAABCDEF, .rgstat (sample 0 .vector)),
     (0xEB05A3810248541AEAABCDEF, .cpy (sample 0 .vector)),
     (0xEB15A3810248541AEAABCDEF, .cpyL2 (sample 1 .vector)),
     (0xEC05A3810248541AEAABCDEF, .cpys (sample 0 .vector))] = true := by decide +kernel

theorem test_words_system : decodes
    [(0xF005A3810248541AEAABCDEF, .send (sample 0 .vector)),
     (0xF105A3810248541AEAABCDEF, .sendeos (sample 0 .vector)),
     (0xF205A3810248541AEAABCDEF, .qstat (sample 0 .vector)),
     (0xF305A3810248541AEAABCDEF, .park (sample 0 .vector)),
     (0xF405A3810248541AEAABCDEF, .spawn (sample 0 .vector)),
     (0xF505A3810248541AEAABCDEF, .reap (sample 0 .vector)),
     (0xF605A3810248541AEAABCDEF, .preempt (sample 0 .vector)),
     (0xF705A3810248541AEAABCDEF, .resumeJob (sample 0 .vector)),
     (0xF715A3810248541AEAABCDEF, .resumeRun (sample 1 .vector)),
     (0xF805A3810248541AEAABCDEF, .ctxsave (sample 0 .vector)),
     (0xF815A3810248541AEAABCDEF, .ctxsaveDrop (sample 1 .vector)),
     (0xF905A3810248541AEAABCDEF, .ctxload (sample 0 .vector)),
     (0xF915A3810248541AEAABCDEF, .ctxloadDrop (sample 1 .vector)),
     (0xFA05A3810248541AEAABCDEF, .tlbinvCtx (sample 0 .vector)),
     (0xFA15A3810248541AEAABCDEF, .tlbinvOwn (sample 1 .vector)),
     (0xFB05A3810248541AEAABCDEF, .tprobeCtx (sample 0 .vector)),
     (0xFB15A3810248541AEAABCDEF, .tprobeOwn (sample 1 .vector))] = true := by decide +kernel

/-- The ends of the unassigned ranges of R75. -/
theorem test_unassigned : ([0x00, 0x0E, 0x0F, 0x1D, 0x1F, 0x2F, 0x3C, 0x3F, 0x5E, 0x5F, 0x6D, 0x6F, 0x7B, 0x7F, 0x88, 0x8F, 0x98, 0x9F, 0xA7, 0xAF, 0xBE, 0xBF, 0xCB, 0xCF, 0xD8, 0xDF, 0xED, 0xEF, 0xFC, 0xFF] : List (BitVec 8)).all
    (fun op => decodeWord (op ++ (0xABC : BitVec 88)) == .illegalOpcode (op ++ (0xABC : BitVec 88))) = true := by decide +kernel

/-- A word of the opcode table's bits, byte 0 first. -/
theorem test_tableWord : decodeTableWord 96 0x1005A3810248541AEAABCDEF = some (.add (sample 0 .vector)) ∧
    decodeTableWord 8 0 = some (.illegalOpcode 0) := by decide +kernel

/-! ### Ill-formed terms are refused -/

/-- The function field of another row, and the two classes of SA that part `vred` (R76, R164). -/
theorem test_wf_rows : (([
    .vbcast (sample 1 .vector), .vbcastEl (sample 0 .vector), .vext (sample 1 .vector), .vextEl (sample 0 .vector), .inval (sample 1 .vector), .invalI (sample 0 .vector), .ldsync (sample 1 .vector), .ldsyncTake (sample 0 .vector), .csetCount (sample 1 .vector), .csetPend (sample 0 .vector), .cwait (sample 1 .vector), .cwaitPh (sample 0 .vector), .cstat (sample 1 .vector), .cstatClr (sample 0 .vector), .cpy (sample 1 .vector), .cpyL2 (sample 0 .vector), .resumeJob (sample 1 .vector), .resumeRun (sample 0 .vector), .ctxsave (sample 1 .vector), .ctxsaveDrop (sample 0 .vector), .ctxload (sample 1 .vector), .ctxloadDrop (sample 0 .vector), .tlbinvCtx (sample 1 .vector), .tlbinvOwn (sample 0 .vector), .tprobeCtx (sample 1 .vector), .tprobeOwn (sample 0 .vector),
    .vred (sample 0 .queue), .vredQueue (sample 0 .vector), .illegalOpcode (0x01#8 ++ (0 : BitVec 88))] : List Instr).all fun i => !i.wf) = true := by decide +kernel

/-- A name out of its range in an event row. -/
theorem test_wf_events : (([
    .longOpComplete (2 ^ 24) .strandX 0, .atomicExecute (2 ^ 24) .strandX 0, .establish 8192 0, 
    .establish 0 64, .cxcDrain 8192 0, .cxcDrain 0 64, .cxcRelease 8192 0, .cxcRelease 0 64, 
    .circuitDrainDone 8192 0, .circuitDrainDone 0 64, .circuitTuningDone 8192 0 true, 
    .circuitTuningDone 0 64 true, .leaseExpiry 8192 0 0, .leaseExpiry 0 65536 0, .leaseExpiry 0 0 8, 
    .tfence 2048 0, .packetForward 0 4, .laneFailure 2048 0, .laneFailure 0 36, .portTrainingComplete 2048 0 0, 
    .portTrainingComplete 0 36 0, .portTrainingComplete 0 0 5, .hostMemWrite 2048 0 [], .hostMemRead 2048 0 0, 
    .hostMemoryWrite 2048 0 [], .registerWrite 2048 0 0, .retrainWindowEnd 8192 0, .retrainWindowEnd 0 192, 
    .retrainWindowStart 8192 0, .retrainWindowStart 0 192, .firmwareActivate 2048 0, 
    .negotiateAlgorithms 2048 0, .getCertificate 2048 0 0 0, .challenge 2048 0 0, .getMeasurements 2048 0 0, 
    .keyExchange 2048 0 0, .keyExchange 0 2305 0, .finish 2048 0 0, .finish 0 2305 0, .keyUpdate 2048 0, 
    .keyUpdate 0 2305, .tdispStop 2048 0 true, .tdispStop 0 64 true, .tdispLock 2048 0, .tdispLock 0 64, 
    .tdispStart 2048 0, .tdispStart 0 64, .correctedError 2048 0, .powerClockStep 2048 0, 
    .thermalThrottle 2048 0 0, .thermalShutdown 2048 0, .pldmFwUpdate 2048 0 [] [], 
    .podMembershipSet 2048 0 5 [] 0, .podMembershipSet 0 2048 5 [] 0, .podMembershipSet 0 0 6 [] 0, 
    .podMembershipSet 0 0 5 [2048] 0] : List Instr).all fun i => !i.wf) = true := by decide +kernel

/-- A register of the issuing strand, or an entry at the head of a queue of its thread, set. -/
def withS (s : State) (n : Nat) (v : Word) : State := s.updMy fun st => st.setS n v
def withQ (s : State) (n : Nat) (l : List QEntry) : State := s.updThread s.curT fun th => th.setQ n l
/-- A request of the issuing strand that has arrived where it is served, and other phases of it. -/
def flight (p : Phase) (r : Option Req) : Flight :=
  { phase := p, refusals := 0, limit := 0, req := r, die := 0, cls := 0, fetch := false, granted := [], since := 0, bounces := 0, gen := 0
    bound := 0, atomic := none }
def withFlight (s : State) (p : Phase) (r : Option Req) : State := s.setFlight s.curT s.curX (flight p r)

/-- A scalar row is accepted, its destination has room and its sources can be read. -/
def scalarReady (row : Enc → Instr) (long : Bool) (e : Enc) (s : State) : Bool :=
  accepted (row e) s fun s1 => okay (s1.needRoom e.da 1 (long || popsQueue e)) fun _ => okay (s1.readPair e) fun _ => true
def pairReady (row : Enc → Instr) (e : Enc) (s : State) : Bool :=
  accepted (row e) s fun s1 => okay (s1.readPair e) fun _ => true
def takes (row : Enc → Instr) : Bool := accepted (row (pick row)) base fun _ => true
/-- The bit field of 64 bits at bit 0. -/
def field (row : Enc → Instr) : Enc := { pick row with imm := 0x1000 }

theorem wit_ScalarIntegerResults :
    (([.add, .sub, .mul, .mulh, .mad, .min, .max, .abs, .sel] : List (Enc → Instr)).all
      fun row => scalarReady row false (pick row) base) = true ∧
    (([.div, .rem] : List (Enc → Instr)).all fun row => scalarReady row true (pick row) base) = true ∧
    (([.ldi, .ldp] : List (Enc → Instr)).all takes) = true := by decide +kernel

theorem wit_BitAndShiftResults :
    (([.and, .or, .xor, .andn, .shl, .shr, .sar, .rotl, .clz, .ctz, .popc] : List (Enc → Instr)).all
      fun row => scalarReady row false (pick row) base) = true ∧
    (([.bfx, .bfi] : List (Enc → Instr)).all fun row => scalarReady row false (field row) base) = true := by decide +kernel

theorem wit_ComparePredicateResults :
    pairReady .cmp (pick .cmp) base = true ∧ pairReady .fcmp (pick .fcmp) base = true ∧ takes .plog = true := by decide +kernel

theorem wit_ScalarFloatResults :
    (([.fadd, .fsub, .fmul, .fmin, .fmax, .ffma, .fcvt, .fsgn, .fclass] : List (Enc → Instr)).all
      fun row => scalarReady row false (pick row) base) = true ∧
    (([.fdiv, .fsqrt] : List (Enc → Instr)).all fun row => scalarReady row true (pick row) base) = true := by decide +kernel

/-- Register forms with A at a boundary of alignment, and each outcome of `dbnz`. -/
theorem wit_ControlTransfers :
    (([.nop, .br, .brl] : List (Enc → Instr)).all takes) = true ∧
    (([.jmp, .jmpl] : List (Enc → Instr)).all fun row =>
      accepted (row (pick row)) (withS base 16 4) fun s1 => (s1.my.getS (pick row).sa.idx.toNat).toNat % 4 == 0) = true ∧
    (([.jmp, .jmpl] : List (Enc → Instr)).all fun row =>
      accepted (row (pick row)) (withS base 16 3) fun s1 => (s1.my.getS (pick row).sa.idx.toNat).toNat % 4 != 0) = true ∧
    (let e := pick .dbnz
     e.da.idx.toNat ≠ 0 ∧ accepted (.dbnz e) base (fun s1 => s1.my.getS e.da.idx.toNat != 1) = true ∧
     accepted (.dbnz e) (withS base 8 1) (fun s1 => s1.my.getS e.da.idx.toNat == 1) = true ∧
     accepted (.dbnz { e with da := ⟨.scalar, 0⟩ }) base (fun _ => true) = true) := by decide +kernel

theorem wit_TrapsAndReturns :
    (([.trap, .brk, .uret, .sret] : List (Enc → Instr)).all takes) = true ∧ (base.thread? base.curT).isSome = true := by
  decide +kernel

theorem wit_SpecialRegisterAccess : (([.kget, .kset, .kswap] : List (Enc → Instr)).all takes) = true := by decide +kernel

/-- A vector row is accepted, its destination has room and its sources can be read. -/
def vectorReady (row : Enc → Instr) (long : Bool) (e : Enc) (s : State) : Bool :=
  accepted (row e) s fun s1 => okay (s1.needRoom e.da 1 (long || popsQueue e)) fun _ =>
    okay (s1.readVecSrc e (tyWidth true e.ty) e.sa) fun p => okay (p.2.2.readVecSrc e (tyWidth true e.ty) e.sb) fun _ => true

theorem wit_VectorIntegerResults :
    (([.vadd, .vsub, .vmul, .vmulh, .vmin, .vmax, .vmad, .vabs, .vand, .vor, .vxor, .vshl, .vshr, .vsar, .vcmp] :
      List (Enc → Instr)).all fun row => vectorReady row false (pick row) base) = true := by decide +kernel

theorem wit_VectorFloatResults :
    (([.vfadd, .vfsub, .vfmul, .vffma, .vfmin, .vfmax, .vfcmp, .vfsgn, .vfclass] : List (Enc → Instr)).all
      fun row => vectorReady row false (pick row) base) = true ∧
    (([.vfdiv, .vfsqrt, .vexp2, .vlog2, .vrcp, .vrsq, .vsin, .vcos, .vtanh] : List (Enc → Instr)).all
      fun row => vectorReady row true (pick row) base) = true := by decide +kernel

/-- Scalar sources of a row read one after the other. -/
def scalarSources (row : Enc → Instr) (l : Enc → List Operand) (e : Enc) (s : State) : Bool :=
  accepted (row e) s fun s1 => okay (s1.needRoom e.da 1 false) fun _ => (l e).all fun o => okay (s1.readScalar e.ty e.imm o) fun _ => true

theorem wit_LaneMoves :
    (([.vsel, .vperm, .vshuf, .vcomp] : List (Enc → Instr)).all fun row => vectorReady row false (pick row) base) = true ∧
    scalarSources .vbcast (fun e => [e.sa]) (pick .vbcast) base = true ∧
    (([.vbcastEl, .vextEl] : List (Enc → Instr)).all fun row => scalarSources row (fun e => [e.sb]) (pick row) base) = true ∧
    scalarSources .vins (fun e => [e.sa, e.sb]) (pick .vins) base = true ∧
    scalarSources .vext (fun _ => []) (pick .vext) base = true := by decide +kernel

/-- A message of one word at the head of q0. -/
def fed : State := withQ base 0 [QEntry.word 5]

theorem wit_VectorConvertReducePredicates :
    (([.vfcvt, .vscan] : List (Enc → Instr)).all fun row => vectorReady row false (pick row) base) = true ∧
    (([.bmaxe, .lbc, .vlq, .pcnt, .pfirst, .pset] : List (Enc → Instr)).all takes) = true ∧
    vectorReady .malign false (pick .malign) base = true ∧
    scalarSources .vred (fun _ => []) (pick .vred) base = true ∧
    (let e := { pick .vredQueue with imm := 1 }
     accepted (.vredQueue e) (base.updMy fun st => { st with prog := 1 }) (fun s1 => decide (e.imm.toNat ≤ s1.my.prog.toNat)) = true ∧
     accepted (.vredQueue e) fed (fun s1 => decide (s1.my.prog.toNat < e.imm.toNat) &&
       (match s1.me.getQ e.sa.idx.toNat with
        | en :: _ => !en.eos && decide ((s1.combineEntry e e.sa.idx.toNat en).my.prog.toNat ≥ e.imm.toNat)
        | [] => false)) = true) := by decide +kernel

theorem wit_WelfordResults :
    (([.welf, .wmerge, .wred] : List (Enc → Instr)).all takes) = true ∧
    scalarSources .wfin (fun e => [e.sb]) (pick .wfin) base = true := by decide +kernel

/-! ### Memory -/

/-- Addresses of CORE, OWN (one page of each kind) and GLOBAL. -/
def coreVa : Word := 0x100000
def ownVa (kind : Nat) : Word := 0x10000000000 + wordOf (kind * 2 ^ 29)
def globalVa : Word := 0x20000000000

/-- Tables that map, for partition 1 and cluster 0, one readable and writable page of each kind in OWN and one readable
page of kind RC in GLOBAL. -/
def mapped (s : State) : State :=
  let cell (m : List Host.Cell) (pa : Nat) (w : Word) : List Host.Cell := memWrite m (physKey 0 pa) (leBytes 8 w.toNat)
  let m := cell (cell s.mem 0x10000 (wordOf (2 * 2 ^ 18 + 1))) 0x30000 (wordOf (4 * 2 ^ 18 + 1))
  let m := cell m (0x20000 + 8 * 4096) (leafWord 1 0 0x20000000 0 false false true)
  let m := cell (cell m (0x40000 + 8 * 2052) (wordOf (5 * 2 ^ 18 + 1))) 0x50000 (leafWord 1 0xFF 0xA0000000 4 false true true)
  let m := (List.range 4).foldl (fun m k =>
    cell m (0x40000 + 8 * (2048 + k)) (leafWord 1 (if k < 3 then 0 else 0xFF) (0x20000000 * (k + 1)) k false true true)) m
  { (s.updCluster 0 fun cl => { cl with ptroot := 0x10000, ownroot := 0x30000 }) with mem := m }


/-- A row's base address in its SA register. -/
def at_ (s : State) (va : Word) : State := withS s 16 va

abbrev Elements := Enc → State → List (Nat × Word × Option Nat)

def loadReady (row : Enc → Instr) (e : Enc) (w : Nat) (range : Enc → State → Except Stop Unit) (l : Elements) (s : State) : Bool :=
  accepted (row e) s fun s1 => okay (s1.needRoom e.da 1 true) fun _ => okay (range e s1) fun _ =>
    okay (s1.checkElems s1.curT (w / 8) e.sw.toNat false (l e s1)) fun p => okay (p.2.touchAll p.2.curT p.1) fun s3 =>
    okay (s3.admitAll 0 p.1) fun _ => true
def storeReady (row : Enc → Instr) (e : Enc) (w : Nat) (range : Enc → State → Except Stop Unit) (l : Elements) (s : State) : Bool :=
  accepted (row e) s fun s1 => okay (s1.needEntry e.da) fun _ => okay (range e s1) fun _ =>
    okay (s1.checkElems s1.curT (w / 8) e.sw.toNat true (l e s1)) fun p =>
    if (row e) matches .st _ then okay (p.2.readScalar e.ty e.imm e.da) fun _ => true else okay (p.2.readVec e.da) fun _ => true

theorem wit_ScalarLoadStore : ([coreVa, ownVa 0].all fun va =>
    loadReady .ld (pick .ld) (tyWidth false (pick .ld).ty) (fun _ _ => .ok ()) (fun e s => [(0, effAddr s e, none)])
      (at_ (mapped base) va) &&
    storeReady .st (pick .st) (tyWidth false (pick .st).ty) (fun _ _ => .ok ()) (fun e s => [(0, effAddr s e, none)])
      (at_ (mapped base) va)) = true := by decide +kernel

theorem wit_VectorLoadStore :
    (let s := at_ base coreVa
     let w := tyWidth true (pick .vld).ty
     let line : Elements := fun e s => contiguous (effAddr s e) w (enabledElems s.my e w)
     let rows : Elements := fun e s => strided (effAddr s e) (s.my.getS e.sb.idx.toNat) w (enabledElems s.my e w)
     let list : Elements := fun e s => indexed (effAddr s e) (s.me.getV e.sb.idx.toNat) w (enabledElems s.my e w)
     let range (st : Bool) (e : Enc) (s : State) := rangeCheck (effAddr s e) w (enabledElems s.my e w) st
     loadReady .vld (pick .vld) w (range false) line s && loadReady .vlds (pick .vlds) w (fun _ _ => .ok ()) rows s &&
     loadReady .vldx (pick .vldx) w (fun _ _ => .ok ()) list s && storeReady .vst (pick .vst) w (range true) line s &&
     storeReady .vsts (pick .vsts) w (fun _ _ => .ok ()) rows s &&
     storeReady .vstx (pick .vstx) w (fun _ _ => .ok ()) list s) = true := by decide +kernel

/-- Device 0 of its own pod. -/
def podBase : State := base.updDevice 0 fun d => { d with members := [0] }
/-- A request of the issuing strand, arrived. -/
def arrives (s : State) (r : Req) : State := withFlight s .arrived (some r)
def oneLine : TLine := ⟨0, [globalKey], 0, 4, false, [], 0, none⟩
  where globalKey := physKey 0 0xA0000000

theorem wit_TicketRows :
    (let s := at_ (mapped base) globalVa
     accepted (.tld (pick .tld)) s (fun s1 => okay (s1.needRoom (pick .tld).da 1 false) fun _ =>
       okay (s1.allChunks s1.curT ((pick .tld).fn.toNat + 1) (pick .tld).sw.toNat [effAddr s1 (pick .tld)])
         fun p => p.1.length == 1)) = true ∧
    ([1, 8].all fun n =>
      let s := withS (at_ (mapped base) globalVa) 24 (wordOf n)
      let e := pick .vtld
      accepted (.vtld e) s fun s1 => okay (s1.needRoom e.da n false) fun _ =>
        okay (s1.allChunks s1.curT (e.fn.toNat + 1) e.sw.toNat
          ((List.range n).map fun i => effAddr s1 e + wordOf (64 * (e.fn.toNat + 1) * i))) fun p => p.1.length == n) = true ∧
    accepted (.vtld (pick .vtld)) base (fun s1 => (s1.my.getS 24 == 0) && okay (s1.needRoom (pick .vtld).da 0 false) fun _ => true)
      = true ∧
    (let r := Req.ticket [(0, [oneLine])] 0 ⟨.scalar, 8⟩ []
     ((arrives base r).freeRun 0 1).isSome) = true := by decide +kernel

/-- A slice that holds no free entry, and the steps of an entry. -/
theorem wit_TicketRows_entries :
    (let s : State := { arrives base (.ticket [(32, [oneLine])] 0 ⟨.scalar, 8⟩ []) with
       tickets := (List.range 256).map fun k => (32 * 1024 + k, { Ticket.zero with state := .ready, ends := 1 }) }
     (s.freeRun 32 1).isNone) = true ∧
    (let s := base.setTicket 0 { Ticket.zero with state := .filling, lines := [oneLine] }
     ((s.ticket s.actor).lines.find? (fun l => l.j == s.item) == some oneLine && oneLine.todo.isEmpty)) = true ∧
    (let s := base.setTicket 0 { Ticket.zero with state := .ready, ends := 0 }
     ((s.ticket s.actor).state == .ready && decide ((s.ticket s.actor).ends ≤ s.cycleOf 0))) = true := by decide +kernel

theorem wit_TicketRows_redeem :
    accepted (.rdm (pick .rdm)) podBase (fun s1 => okay (s1.needRoom (pick .rdm).da 1 false) fun _ =>
      s1.ticketForm (deviceOf s1.curT) (s1.my.getS 16)) = true ∧
    accepted (.rdmm (pick .rdmm)) (at_ podBase coreVa) (fun s1 => okay (windowCheck (effAddr s1 (pick .rdmm)).toNat 64 8 .store true)
      fun _ => okay (s1.checkElems s1.curT 8 (pick .rdmm).sw.toNat true ((List.range 8).map fun i =>
        (i, effAddr s1 (pick .rdmm) + wordOf (8 * i), none))) fun p => p.2.ticketForm (deviceOf p.2.curT) (s1.my.getS 8)) = true ∧
    accepted (.tstat (pick .tstat)) podBase (fun s1 => s1.ticketForm (deviceOf s1.curT) (s1.my.getS 16)) = true ∧
    (let s := arrives base (.present 0 0 (.stat 8))
     (s.drops.find? (fun p => p.1 == s.curT && p.2.1 == s.curX)).isNone) = true ∧
    accepted (.tdrop (pick .tdrop)) podBase (fun s1 => s1.ticketForm (deviceOf s1.curT) (s1.my.getS 16) &&
      okay (s1.admitReq (sliceDie (ticketSlice (s1.my.getS 16))) 0) fun _ => true) = true ∧
    accepted (.tdrop (pick .tdrop)) (withS podBase 16 (2 ^ 37)) (fun s1 => !s1.ticketForm (deviceOf s1.curT) (s1.my.getS 16)) = true ∧
    ((({ base with drops := [(7, .strandX, 0, 1)] } : State).drops.find? (fun p => p.1 == 7 && p.2.1 == .strandX)).isSome) = true := by
  decide +kernel

theorem low_append (c : BitVec 16) (b : BitVec 48) (i n : Nat) (h : i + n ≤ 48) :
    (c ++ b).extractLsb' i n = b.extractLsb' i n := by
  apply BitVec.eq_of_getLsbD_eq
  intro k hk
  have : i + k < 48 := by omega
  rw [BitVec.getLsbD_extractLsb', BitVec.getLsbD_extractLsb']
  refine congrArg _ ((BitVec.getLsbD_append (x := c) (y := b)).trans ?_)
  simp [this]

theorem high_append (c : BitVec 16) (b : BitVec 48) : (c ++ b).extractLsb' 48 16 = c := by
  apply BitVec.eq_of_getLsbD_eq
  intro k hk
  rw [BitVec.getLsbD_extractLsb']
  refine (congrArg _ (BitVec.getLsbD_append (x := c) (y := b))).trans ?_
  simp [hk]

/-- A ticket value of entry 0 with the right check code, whatever that is. -/
def genuine (s : State) : Word := Config.ticketCheck 1 (s.keyGen 1) 0 ++ (0 : BitVec 48)

theorem genuine_answer (s : State) (h : s.ticketForm 0 0 = true) (ho : (s.ticket 0).part = some 1)
    (hg : (s.ticket 0).gen = 0) (a : TicketAnswer)
    (ha : (match (s.ticket 0).state, (s.ticket 0).last with
      | .filling, _ => if (s.ticket 0).span = 0 then TicketAnswer.expired else .pending
      | .ready, _ => if (s.ticket 0).ends ≤ s.cycleOf 0 then .expired else .ok
      | .free, .redeemed => .spent
      | .free, _ => .expired) = a) : s.ticketAnswer 0 1 (genuine s) = a := by
  have e : ∀ i n, i + n ≤ 48 → (genuine s).extractLsb' i n = (0 : Word).extractLsb' i n := by
    intro i n hi
    refine (low_append _ _ i n hi).trans ?_
    apply BitVec.eq_of_getLsbD_eq
    intro k hk
    simp
  have hs : ticketSlice (genuine s) = ticketSlice 0 := by simp only [ticketSlice, e 35 13 (by decide), e 32 3 (by decide), e 27 5 (by decide)]
  have hn : ticketEnt (genuine s) = ticketEnt 0 := by simp only [ticketEnt, e 17 10 (by decide)]
  have hk : ticketKey (genuine s) = 0 := by simp only [ticketKey, hs, hn]; decide
  have hw : s.ticketForm 0 (genuine s) = true := by
    rw [← h]; simp only [ticketSpan, State.ticketForm, hs, hn, e 0 5 (by decide), e 15 2 (by decide)]; rfl
  have hc : s.ticketCheckOk 1 (genuine s) = true := by
    simp only [State.ticketCheckOk, hk, ho, Option.getD]
    rw [e 5 43 (by decide)]
    have : (genuine s).extractLsb' 48 16 = Config.ticketCheck 1 (s.keyGen 1) 0 := high_append _ _
    have z : BitVec.extractLsb' 5 43 (0 : Word) = 0 := by decide
    rw [this, z]; simp
  have hgg : ticketGen (genuine s) = 0 := by simp only [ticketGen, e 5 10 (by decide)]; decide
  simp [State.ticketAnswer, hw, hs, hk, hc, hgg, hg]
  exact ha

theorem wit_TicketAnswers :
    ((podBase.setTicket 0 { Ticket.zero with part := some 2 }).ticketAnswer 0 1 0 = .fails) ∧
    (let s := podBase.setTicket 0 { Ticket.zero with part := some 1, state := .ready, span := 1, ends := 1 }
     s.ticketAnswer 0 1 (genuine s) = .ok) ∧
    (let s := podBase.setTicket 0 { Ticket.zero with part := some 1, state := .filling, span := 1 }
     s.ticketAnswer 0 1 (genuine s) = .pending) := by
  refine ⟨by decide +kernel, genuine_answer _ ?_ ?_ ?_ _ ?_, genuine_answer _ ?_ ?_ ?_ _ ?_⟩ <;> decide +kernel

/-- A record of words in CORE, which SA addresses. -/
def recorded (s : State) (ws : List Word) : State :=
  at_ { s with mem := memWrite s.mem (localKey 7 .core 0 coreVa.toNat) (ws.flatMap fun w => leBytes 8 w.toNat) } coreVa

/-- Source, destination and control word of a copy in DA, SA and SB. -/
def copying (src dst ctl : Word) : State := withS (withS (at_ (mapped base) dst) 8 src) 24 ctl
/-- A control word that names lease number 0. -/
def leased (len : Nat) : Word := wordOf (len + 2 ^ 51)

def jobWord (lease reduce : Bool) (dst src ctl : Word) : Bool :=
  !ctlReserved ctl lease && decide (ctlLen ctl % 8 = 0) && (!reduce || !ctlEmp ctl) &&
  okay (copyRange dst (ctlLen ctl) true 8) (fun _ => true) && okay (copyRange src (ctlLen ctl) false 8) fun _ => true

/-- A job of the issuing strand that copies eight bytes from OWN to CORE. -/
def someJob (s : State) (kind : JobKind) (dst src : Word) : Job :=
  s.newJob 7 .strandX kind dst 0 src 8 8 none 0 false

/-- Room for one more: 63 jobs in the copy unit, 15 in the ms unit. -/
def crowded (s : State) (copies mss : Nat) : State :=
  s.updCluster 0 fun cl => { cl with copyQ := List.replicate copies (someJob s .pull 0 0), msQ := List.replicate mss (someJob s .pull 0 0) }

theorem wit_JobRows :
    (([(Instr.pull, false, false), (.pullr, false, true), (.cpy, true, false)] : List ((Enc → Instr) × Bool × Bool)).all fun r =>
      [0, 8].all fun len =>
      let s := crowded (copying (ownVa 0) coreVa (if r.2.1 then leased len else wordOf len)) 63 0
      accepted (r.1 (pick r.1)) s fun s1 =>
        jobWord r.2.1 r.2.2 (effAddr s1 (pick r.1)) (s1.my.getS 8) (s1.my.getS 24) &&
        (s1.cluster 0).jobRoom false 7 none) = true ∧
    (let s := copying (ownVa 0) 0 (leased 64)
     accepted (.cpyL2 (pick .cpyL2)) s fun s1 =>
       let ctl := s1.my.getS 24
       !ctlReserved ctl true && !ctlEmp ctl && ctlLease ctl == some 0 && decide (ctlLen ctl % 64 = 0) &&
       okay (copyRange (s1.my.getS 8) (ctlLen ctl) false 8) fun w => w == .own || w == .global) = true ∧
    ([(0, 0), (8, 2)].all fun r =>
     let s := withS (withS (copying (ownVa 0) coreVa (wordOf (r.1 + r.2 * 65536))) 25 16) 26 8
     accepted (.cpys (pick .cpys)) s fun s1 =>
       let dst := effAddr s1 (pick .cpys)
       let src := s1.my.getS 8
       !ctlReserved (s1.my.getS 24) false && okay (copyRange (rowSpan dst 8 r.1 r.2).1 (rowSpan dst 8 r.1 r.2).2 true 8) fun _ =>
       okay (copyRange (rowSpan src 16 r.1 r.2).1 (rowSpan src 16 r.1 r.2).2 false 8) fun _ =>
       decide (dst.toNat % 8 = 0 ∧ src.toNat % 8 = 0)) = true ∧
    (([(0, Instr.msadd), (1, .msmul), (2, .msfma), (3, .msscale), (4, .mscopy), (5, .msfill), (6, .msrow), (7, .mszero)] :
      List (Nat × (Enc → Instr))).all fun r =>
      let align := if r.1 = 6 ∨ r.1 = 7 then 1024 else 64
      let s := crowded (withS (recorded base (ownVa 0 :: [1, 2, 3].map fun i => if (msUses r.1).contains i then ownVa i else 0)) 24
        (wordOf align)) 0 15
      accepted (r.2 (pick r.2)) s fun s1 => okay (s1.recordLoad (effAddr s1 (pick r.2)) (pick r.2).sw.toNat) fun p =>
        let w (i : Nat) : Word := (p.1[i]?).getD 0
        let ctl := p.2.my.getS 24
        !msRecordBad r.1 (pick r.2).ty p.1 && !ctlReserved ctl false && !ctlEmp ctl &&
        okay (msRanges (ctlLen ctl) align (w 0 :: (msUses r.1).map w)) fun _ => (p.2.cluster 0).jobRoom true 7 none) = true := by
  decide +kernel

theorem wit_JobEvents :
    (let j (s : State) := { someJob s .pull coreVa (ownVa 0) with }
     let at0 (len : Nat) (src : Word) (ms : Bool) : State :=
       let s := mapped base
       s.updCluster 0 fun cl => if ms then { cl with msQ := [{ j s with kind := .ms 5 .u8 .rne false false 0 0 0, dst := ownVa 0, len := len }] }
         else { cl with copyQ := [{ j s with src := src, len := len }] }
     ([false, true].all fun ms =>
       (match (at0 8 (ownVa 0) ms).runnable 0 0 ms with
        | some j => decide (j.ofs < j.len) && (match (at0 8 (ownVa 0) ms).jobTry 0 ms j with | .done _ _ => true | _ => false)
        | none => false) &&
       (match (at0 0 (ownVa 0) ms).runnable 0 0 ms with | some j => decide (j.len ≤ j.ofs) | none => false)) &&
     (match (at0 8 (ownVa 5) false).runnable 0 0 false with
        | some j => (match (at0 8 (ownVa 5) false).jobTry 0 false j with | .fault _ _ => true | _ => false)
        | none => false)) = true := by decide +kernel

/-- A region of one row of 128 bytes in CORE, copied from OWN. -/
def someRegion (st : RegionState) (src : Word) : Region :=
  { Region.zero with gen := 1, state := st, win := localKey 7 .core 0 coreVa.toNat, len := 128, rowb := 128, src := src, t := 7 }

theorem wit_RegionRows :
    (let rec_ (w5 : Word) (s : State) := recorded s [coreVa, wordOf (128 + 8 * 2 ^ 32), ownVa 0, 8, 0, w5, 0, 0]
     let look (s : State) (k : List Word → State → Bool) : Bool :=
       accepted (.rgset (pick .rgset)) s fun s1 => okay (s1.recordLoad (effAddr s1 (pick .rgset)) (pick .rgset).sw.toNat) fun p => k p.1 p.2
     let overlaps (s : State) : Bool := s.regionOverlap 0 (localKey 7 .core 0 coreVa.toNat) 128
     let free (s : State) : Bool := ((List.range 64).find? (fun n => (s.region 0 n).state == .free)).isSome
     let away (st : RegionState) : Region := { someRegion st 0 with win := 0 }
     look (rec_ 0 base) (fun l s => (regionRecord l).isSome && !overlaps s && free s) &&
     look (rec_ 1 base) (fun l _ => (regionRecord l).isNone) &&
     look (rec_ 0 (base.setRegion 0 0 (someRegion .present 0))) (fun l s => (regionRecord l).isSome && overlaps s) &&
     look (rec_ 0 ((List.range 64).foldl (fun s n => s.setRegion 0 n (away .present)) base))
       (fun l s => (regionRecord l).isSome && !overlaps s && !free s) &&
     accepted (.rgclr (pick .rgclr)) (at_ (base.setRegion 0 0 (someRegion .present 0)) 64)
       (fun s1 => match s1.regionHandle 0 (s1.my.getS 16) with | some (_, r) => r.state != .filling | none => false) &&
     accepted (.rgclr (pick .rgclr)) (at_ base 64) (fun s1 => (s1.regionHandle 0 (s1.my.getS 16)).isNone) &&
     takes .rgstat &&
     (let s := (mapped base).setRegion 0 0 (someRegion .filling (ownVa 0))
      match s.regionStep 0 0 (s.region 0 0) with | .done _ => (s.region 0 0).state == .filling | _ => false) &&
     (let s := (mapped base).setRegion 0 0 (someRegion .filling (ownVa 5))
      match s.regionStep 0 0 (s.region 0 0) with | .fault _ _ => (s.region 0 0).state == .filling | _ => false)) = true := by decide +kernel

/-- A long operation of the issuing strand that is still outstanding. -/
def someOp (k : OpKind) : LongOp := ⟨0, 0, 16, k, false, [], none, none⟩

def someAtomic : AtomicReq := ⟨.add, .u64, physKey 0 0x20000000, ownVa 0, 0, 0, 1, 0, 8, false, [], 1, 0, 0⟩

theorem wit_FenceRows :
    (let e := { pick .fence with fn := 1, gs := 6 }
     let busy := base.updMy fun st => { st with pend := [someOp (.atomic someAtomic)] }
     takes .fence && accepted (.fence e) base (fun s1 => !s1.fenceWaits 7 .strandX 1 6 0) &&
     accepted (.fence e) busy (fun s1 => s1.fenceWaits 7 .strandX 1 6 0) &&
     (let s := base.updMy fun st => { st with status := .waiting (.fence 1 6 0) }
      match s.thread? s.curT with
      | some th => (th.strand s.curX).status == .waiting (.fence 1 6 0) && !s.fenceWaits 7 .strandX 1 6 0
      | none => false)) = true := by decide +kernel

theorem wit_MaintenanceRows :
    (([.clean, .inval, .invalI, .discard] : List (Enc → Instr)).all fun row => [(coreVa, 0), (ownVa 0, 64), (globalVa, 64)].all fun r =>
      accepted (row (pick row)) (withS (at_ (mapped base) r.1) 24 (wordOf r.2)) fun s1 =>
        okay (s1.maintRange s1.curT (effAddr s1 (pick row)) r.2) fun _ => true) = true ∧
    (([.pref, .unlease] : List (Enc → Instr)).all takes) = true ∧
    ([(1, 0), (4096, 0), (4097, 3)].all fun r => accepted (.lease (pick .lease)) (withS base 24 (wordOf r.1)) fun s1 =>
      s1.leaseStatus 0 (s1.threadCtx 7) 0 (wordOf r.1) == wordOf r.2) = true ∧
    (∃ l : Lease, l ∈ ({ base with leases := [⟨0, 0, 0, 1, 0⟩] } : State).leases ∧ l.die = 0 ∧ l.ctx = 0 ∧ l.lid = 0 ∧ l.ends ≤ 0) := by
  refine ⟨by decide +kernel, by decide +kernel, by decide +kernel, ⟨0, 0, 0, 1, 0⟩, ?_⟩
  exact ⟨List.mem_singleton.mpr rfl, rfl, rfl, rfl, Nat.le_refl 0⟩

theorem wit_SharedCacheEvents :
    (let f : Fill := ⟨0, 0, 5, 0, 1, 0, 0, false, none, false⟩
     let s : State := { base with fills := [f] }
     s.fills.find? (fun f => f.id == s.actor) == some f && (s.findRind 0 5).isNone && !s.poisoned (5 * 64) 64 &&
     decide (base.cycleOf 0 % 1024 = 0) && decide (base.cycleOf 0 % 65536 = 0)) = true := by decide +kernel

def coreKey : Nat := localKey 7 .core 0 coreVa.toNat

theorem wit_FullEmptyRows :
    ((([(false, .ldsync), (true, .ldsyncTake)] : List (Bool × (Enc → Instr))).all fun r =>
      let e := pick r.2
      accepted (r.2 e) (at_ base coreVa) fun s1 => okay (s1.fePlace e r.1 false) fun p =>
        decide (p.1.home = clusterOf 7) && okay ((p.2.drainStores 7 .strandX).touchStart 7 p.1.key) fun s3 =>
        s3.feFull p.1.key && !s3.poisoned p.1.key (tyWidth false e.ty / 8)) &&
     accepted (.stsync (pick .stsync)) (at_ (base.setEmpty coreKey) coreVa) (fun s1 =>
       okay (s1.fePlace (pick .stsync) false true) fun p => !(p.2.drainStores 7 .strandX).feFull p.1.key) &&
     ([0, 8].all fun n => accepted (.feset (pick .feset)) (withS (at_ base coreVa) 24 (wordOf n)) fun s1 =>
       okay (s1.feRange (effAddr s1 (pick .feset)) n (pick .feset).sw.toNat) fun _ => true) &&
     accepted (.festat (pick .festat)) (at_ base coreVa) (fun s1 => okay (s1.resolve s1.curT (effAddr s1 (pick .festat)) 1 1
       (pick .festat).sw.toNat .read false) fun p => feTarget p.1 && okay (p.2.admitReq (targetDie p.2.curT p.1) 0) fun _ => true) &&
     (base.nextStoreAt base.actor).isNone && !base.fencedCluster (sramCluster coreKey) && base.feFull coreKey &&
     !(base.setEmpty coreKey).feFull coreKey && decide ((base.setEmpty coreKey).portWaiters coreKey < 256)) = true := by decide +kernel

theorem wit_CounterRows :
    ([0, 1].all fun c =>
      let s := withS (base.updCluster 1 fun cl => { cl with service := .inService, run := .running, part := 1 }) 16 (wordOf (4096 + c * 8192))
      accepted (.cinc (pick .cinc)) s fun s1 => okay (s1.readScalar (pick .cinc).ty (pick .cinc).imm (pick .cinc).sb) fun p =>
        counterRef 7 (p.2.2.my.getS 16) == some (c, 0) &&
        (c = 0 || ((p.2.2.clusterCheck 7 c).isNone && okay (p.2.2.admitReq 0 0) fun s3 => !s3.portRefuses c (s3.ctxOf 0) true 1))) = true ∧
    (([.csetCount, .csetPend, .cphase] : List (Enc → Instr)).all takes) = true ∧
    (let set (v : Nat) (p : Nat) (o : Bool) : State :=
       base.setCounter 0 0 { Counter.zero with val := BitVec.ofNat 32 v, ph := BitVec.ofNat 16 p, ovr := o }
     accepted (.cwait (pick .cwait)) (withS (set 5 0 false) 16 5) (fun s1 =>
       let v := s1.counter 0 (counterNum (pick .cwait))
       !v.ovr && v.flt.isNone && decide (v.val.toNat ≥ 5)) &&
     ([1, 2, 32767].all fun n => accepted (.cwaitPh (pick .cwaitPh)) (set 0 n false) fun s1 =>
       let age := ((s1.counter 0 (counterNum (pick .cwaitPh))).ph - (s1.my.getS 16).setWidth 16).toNat
       decide (1 ≤ age ∧ age < 2 ^ 15)) &&
     (([.cwait, .cwaitPh] : List (Enc → Instr)).all fun row => accepted (row (pick row)) (set 0 0 true) fun s1 =>
       (s1.counter 0 0).ovr) && decide (counterNum (pick .cwait) = 0 ∧ counterNum (pick .cwaitPh) = 0)) = true ∧
    (let a : Arrival := ⟨0, 1, none, [], none, base.ctxOf 0, none⟩
     let s := base.updCluster 0 fun cl => { cl with arrivals := [a] }
     (s.cluster s.actor).arrivals.find? (fun a => a.ctr == s.item) == some a && s.steerArrival 0 a == .live) = true := by decide +kernel

theorem wit_BarrierArrival :
    (let e := { pick .bar with gs := 1 }
     let key := barrierKey 1 7 1 0
     accepted (.bar { e with gs := 0 }) (withS base 16 2) (fun _ => true) && accepted (.bar e) base (fun s1 => s1.my.getS 16 == 0) &&
     accepted (.bar e) (withS base 16 2) (fun s1 => (tget s1.barriers key).isNone) &&
     accepted (.bar e) { withS base 16 2 with barriers := [(key, { Barrier.zero with count := 2, arrived := 1 })] } (fun s1 =>
       match tget s1.barriers key with | some b => b.arrived + 1 == b.count | none => false)) = true := by
  decide +kernel

theorem wit_WatchRows :
    (accepted (.advseq (pick .advseq)) (at_ (mapped base) (ownVa 0)) (fun s1 =>
       let n := tyWidth false (pick .advseq).ty / 8
       okay (s1.resolve 7 (effAddr s1 (pick .advseq)) n n (pick .advseq).sw.toNat .store true) fun p => !kindBad p.1 true) &&
     ([0, 64, 64 + 63].all fun c => accepted (.watch (pick .watch)) (withS (at_ (mapped base) (ownVa 0)) 25 (wordOf c)) fun s1 =>
       let n := tyWidth false (pick .watch).ty / 8
       okay (s1.resolve 7 (effAddr s1 (pick .watch)) n n (pick .watch).sw.toNat .read false) fun p =>
         let ctl := p.2.my.getS ((pick .watch).sb.idx.toNat + 1)
         !watchBad p.1 && ctl.extractLsb' 7 25 == 0 && (ctl.getLsbD 6 || ctl.extractLsb' 0 6 == 0)) &&
     (let key := physKey 0 0x20000000
      !base.fencedCluster (watchHome key) && decide (base.watchValue 0 key 64 < 1 % 2 ^ 64) && (base.freeWatch 0).isSome &&
      decide (0 ≤ base.watchValue 0 key 64)) &&
     accepted (.unwatch (pick .unwatch)) (withS base 16 1) (fun s1 => (handleEntry (s1.my.getS 16)).isNone) &&
     accepted (.unwatch (pick .unwatch)) base (fun s1 => (handleEntry (s1.my.getS 16)).isSome && s1.devices.any (fun p => p.1 == 0)) &&
     (let w : Watch := { Watch.zero with held := true, part := 1 }
      let s : State := { base with watches := [(0, w)] }
      match handleEntry 0 with
      | some (k, g) => (s.watchEntry k).held && (s.watchEntry k).gen == g && (s.watchEntry k).part == (s.cluster 0).part.toNat
      | none => false)) = true := by decide +kernel

/-- An arm record that adds one to counter 1 once counter 0 reaches one. -/
def armWords (bad : Word) : List Word := [2 * 64, 1, 1, 1, 0, 0, 0, bad]

theorem wit_ArmRows :
    (let look (s : State) (k : List Word → State → Bool) : Bool :=
       accepted (.arm (pick .arm)) s fun s1 => okay (s1.recordLoad (effAddr s1 (pick .arm)) (pick .arm).sw.toNat) fun p => k p.1 p.2
     let full := base.updCluster 0 fun cl =>
       { cl with arms := (List.range 128).map fun n => (n, { ArmEntry.zero with state := .armed }) }
     look (recorded base (armWords 0)) (fun l s => (armRecord l).isSome && (s.freeArm 0).isSome) &&
     look (recorded base (armWords 1)) (fun l _ => (armRecord l).isNone) &&
     look (recorded full (armWords 0)) (fun l s => (armRecord l).isSome && (s.freeArm 0).isNone) &&
     ([ArmState.free, .fired, .armed, .failed].all fun st =>
       accepted (.disarm (pick .disarm)) (base.setArm 0 0 { ArmEntry.zero with state := st }) fun s1 =>
         (s1.my.getS 16).extractLsb' 7 9 == (s1.armEntry 0 0).gen && (s1.armEntry 0 0).state == st) &&
     accepted (.disarm (pick .disarm)) (withS base 16 128) (fun s1 => (s1.my.getS 16).extractLsb' 7 9 != (s1.armEntry 0 0).gen) &&
     (let a : Action := ⟨0, { ArmRec.zero with act := 2, w2 := 1, w3 := 1 }, 7, base.ctxOf 0, 0, 0, 0, .idle, [], none⟩
      let s := base.updCluster 0 fun cl => { cl with actions := [a] }
      nextAction (s.cycleOf 0) [] (s.cluster s.actor).actions == some a && (match s.runAction s.actor a with | .done _ => true | _ => false)))
     = true := by decide +kernel

theorem wit_AtomicRows :
    ((([(.add, .aadd), (.and, .aand), (.or, .aor), (.xor, .axor), (.min, .amin), (.max, .amax), (.swp, .aswp), (.cas, .acas)] :
      List (AtomicOp × (Enc → Instr))).all fun r => [coreVa, ownVa 0].all fun va =>
      let e := pick r.2
      accepted (r.2 e) (at_ (mapped base) va) fun s1 =>
        okay (s1.resolve 7 (effAddr s1 e) (tyWidth false e.ty / 8) (tyWidth false e.ty / 8) e.sw.toNat .atomic false) fun p =>
        (atomicPlaceBad r.1 e.ty p.1).isNone && okay (p.2.touchRange 7 p.1) fun s3 => okay (s3.admitReq (targetDie 7 p.1) 0) fun _ => true) &&
     (let r (home : Nat) : AtomicReq := { someAtomic with home := home }
      let s (home : Nat) := base.updMy fun st => { st with pend := [someOp (.atomic (r home))] }
      firstAtomic ((s 0).strand 7 .strandX).pend == some (0, r 0) && !(s 0).stackFenced (r 0) &&
      (let f := (s 1).updCluster 1 fun cl => { cl with service := .fenced }
       firstAtomic (f.strand 7 .strandX).pend == some (0, r 1) && f.stackFenced (r 1)))) = true := by decide +kernel

theorem wit_SlotRows :
    (let s := at_ (mapped base) (ownVa 4)
     accepted (.rsst (pick .rsst)) s (fun s1 => okay (s1.slotPlace 7 (effAddr s1 (pick .rsst)) (pick .rsst).sw.toNat .slotWrite)
       fun p => okay (p.2.admitReq (targetDie 7 p.1) 0) fun _ => true) &&
     accepted (.rsld (pick .rsld)) s (fun s1 => okay (s1.slotPlace 7 (effAddr s1 (pick .rsld)) (pick .rsld).sw.toNat .slotRead)
       fun p => okay (p.2.admitReq (targetDie 7 p.1) 0) fun _ => true) &&
     accepted (.rsclr (pick .rsclr)) (withS s 24 8) (fun s1 =>
       let va := effAddr s1 (pick .rsclr)
       (s1.my.getS 24 == 8) && okay (windowCheck va.toNat 8 8 .slotWrite false) fun _ =>
       okay (s1.slotPages 7 (pick .rsclr).sw.toNat ((va.toNat + 8 - 1) / 65536 - va.toNat / 65536 + 1) va.toNat) fun s2 =>
       okay (s2.slotPlace 7 va (pick .rsclr).sw.toNat .slotWrite) fun p => okay (p.2.admitReq (targetDie 7 p.1) 0) fun _ => true) &&
     accepted (.rsclr (pick .rsclr)) s (fun s1 => (s1.my.getS 24 == 0) &&
       okay (windowCheck (effAddr s1 (pick .rsclr)).toNat 0 8 .slotWrite false) fun _ => true)) = true := by decide +kernel

theorem wit_MatrixRows :
    ((([.mma, .mring] : List (Enc → Instr)).all fun row =>
      accepted (row (pick row)) (withS (at_ base coreVa) 24 (coreVa + 0x4000)) fun s1 =>
        let m := multiplyOf (pick row) s1
        okay (operandRange m.a (64 * m.rowBytes)) fun _ => okay (operandRange m.b (64 * m.rowBytes)) fun _ => !s1.matFull) &&
     takes .scacc && takes .czero && !base.matFull &&
     (([(.cld, false), (.cst, true)] : List ((Enc → Instr) × Bool)).all fun r =>
      accepted (r.1 (pick r.1)) (withS (at_ base coreVa) 24 256) fun s1 =>
        okay (tileRows (effAddr s1 (pick r.1)) (s1.my.getS 24) r.2 (List.range 64)) fun _ => !s1.matFull) &&
     takes .cstat && takes .cstatClr && takes .mprio) = true := by decide +kernel

def someMultiply : Multiply := ⟨0, .bf16, .rne, false, 0, coreVa, coreVa + 0x4000, 0, 0, 0, 0, none⟩

/-- An operation of the issuing thread at the head of its core's queue, everything that it needs next fetched or not. -/
def queued (op : MatOp) (st : MatState) (fetched : Bool) (s : State) : State × QueuedMat :=
  let q : QueuedMat := ⟨0, 7, 0, op, st, 0, 0, 0, [], 0, false⟩
  let q := { q with fetched := if fetched then (s.nextLines q).map fun l => (l, 0) else [] }
  (s.updCore 0 fun c => { c with queue := [q] }, q)

/-- Core 0 runs an operation. -/
def runs (s : State) (op : MatOp) : Bool :=
  match (s.core 0).queue.find? (fun q => q.state == .running) with
  | some q => q.op == op
  | none => false

/-- The four cores of quad 0 each with an `mring` at the head of its queue, and a group that they wait to form. -/
def quad (formed : Bool) (ms : List Multiply) : State :=
  let s := ((ringCores 0 0).zip ms).foldl (fun s p =>
    s.updCore p.1 fun c => { c with queue := [⟨p.1, p.1 * 8, 0, .mring 0 p.2, .waiting, 0, 0, 0, [], 0, false⟩] }) base
  let parts := (ringCores 0 0).map fun k => (⟨ringPos k 0, k, k * 8, k, true, 0⟩ : RingPart)
  s.updCluster 0 fun cl => { cl with rings := [⟨0, if formed then parts else [], formed, 0, 0, some 0, [⟨0, 1, false, []⟩]⟩] }

theorem found {α : Type} (l : List Nat) (v : α) (n : Nat) (h : n ∈ l) : (tget (l.map fun k => (k, v)) n).isSome = true := by
  induction l with
  | nil => cases h
  | cons k r ih =>
    simp only [List.map_cons, tget]
    split
    · rfl
    · next hk => exact ih ((List.mem_cons.mp h).resolve_left (Ne.symm hk))

theorem queued_missing (op : MatOp) (st : MatState) (s : State) :
    (queued op st true s).1.missing (queued op st true s).2 = [] := by
  refine List.filter_eq_nil_iff.mpr fun l hl => ?_
  have h := found _ (0 : BitVec 1024) l hl
  rw [QueuedMat.has]
  change ¬(!(tget ((s.nextLines ⟨0, 7, 0, op, st, 0, 0, 0, [], 0, false⟩).map fun k => (k, (0 : BitVec 1024))) l).isSome) = true
  rw [show (tget ((s.nextLines ⟨0, 7, 0, op, st, 0, 0, 0, [], 0, false⟩).map fun k => (k, (0 : BitVec 1024))) l).isSome = true from h]
  decide

/-- With `queued_missing`: what an operation with everything fetched is missing. -/
theorem wit_MatrixEvents :
    (let waits := queued (.mma someMultiply) .waiting false base
     !((waits.1.core waits.1.actor).queue.any (fun q => q.state == .running)) && bestOp (waits.1.startable 0) == some waits.2 &&
     ([MatState.running, .stalled].all fun st =>
       let p := queued (.cld 0 coreVa 256 0) st false base
       p.1.queued 0 0 == some p.2 && !(p.1.missing p.2).isEmpty) &&
     ([MatOp.mma someMultiply, .scacc .rne false false 0 0 0 0, .cld 0 coreVa 256 0, .cst 0 coreVa 256 0, .czero 0].all fun op =>
       let p := queued op .running true base
       runs p.1 op &&
       decide (p.1.matProg p.2 ≤ someMultiply.ks)) &&
     (let p := queued (.mring 0 someMultiply) .running true base
      let s := p.1.updCluster 0 fun cl => { cl with rings := [⟨0, [⟨0, 0, 7, 0, true, 0⟩], true, 0, 0, none, []⟩] }
      runs s (.mring 0 someMultiply) && s.latchReady 0 p.2 &&
      decide ((someMultiply.at (s.matProg p.2)).1 < ringSize 0)) &&
     ([true, false].all fun same =>
       let s := quad false ({ someMultiply with ks := if same then 0 else 1 } :: List.replicate 3 someMultiply)
       (((s.cluster s.actor).rings.find? (fun r => !r.formed && r.key == s.item)).isSome &&
        !((s.cluster 0).rings.any (fun r => r.formed && r.key == 0)) &&
        (match (ringCores 0 0).filterMap (fun k => (s.ringCandidate k 0).map fun q => (k, q)) with
         | p :: rest => (p :: rest).length == (ringCores 0 0).length && rest.all (fun r => sameShape p.2.2 r.2.2) == same &&
           (let part (p : Nat × QueuedMat × Multiply) : RingPart :=
              ⟨ringPos p.1 0, p.1, p.2.1.t, p.2.1.id, true, min (ringSize 0) (p.2.2.at (s.matProg p.2.1)).1⟩
            let t := s.updRings 0 fun l => l.filter (fun r => !(r.key == 0 && !r.formed)) ++
              l.map fun ring => { ring with formed := true, parts := (p :: rest).map part }
            !same || !(ringCores 0 0).any fun k => (t.ringCandidate k 0).isSome)
         | [] => false))) &&
     (match ((quad true []).cluster 0).rings with
      | [ring] => ring.formed && ((ring.parts.find? fun p => p.core == 0 && ring.latches.any fun l => l.pos == p.pos && !l.arrived).map
          (·.pos)).isSome
      | _ => false) &&
     (match ((quad false []).cluster 0).rings.find? (fun r => r.key == 0 && r.since.isSome && decide (r.elapsed 0 ≥ r.limit)) with
      | some r => !r.formed
      | none => false)) = true := by decide +kernel

/-- The user thread 15 of the same cluster, a child of thread 7. -/
def child : Thread := { Thread.zero with parent := 7 }
def family (th : Thread) : State := { podBase with threads := [(7, person), (15, th)] }

theorem wit_MessageRows :
    (([(.send, 0), (.sendeos, 0)] : List ((Enc → Instr) × Nat)).all fun r =>
      accepted (r.1 (pick r.1)) (at_ (family child) 15) fun s1 => (s1.sendCheck 7 (s1.my.getS 16)).isNone) = true ∧
    (let s := arrives (family { child with acc := 0 }) (.send ⟨15, 0, QEntry.word 1⟩)
     ((s.strand s.curT s.curX).flight).isSome && !s.fencedCluster (clusterOf 15) &&
     (match s.admitMsg 7 ⟨7, 0, QEntry.word 1⟩ with | .admitted _ => true | _ => false) &&
     (match s.admitMsg 7 ⟨23, 0, QEntry.word 1⟩ with | .refused => true | _ => false)) = true ∧
    ([(0, 1), (1, 1)].all fun r =>
      let f : Flight := { flight .refused none with refusals := r.1, limit := r.2 }
      ((base.setFlight 7 .strandX f).strand 7 .strandX).flight == some f) = true ∧
    ((([none, some (Req.send ⟨15, 0, QEntry.word 1⟩)] : List (Option Req)).all fun r =>
      ((withFlight base (.backoff 0) r).strand 7 .strandX).flight == some (flight (.backoff 0) r)) &&
     takes .qstat && accepted (.park (pick .park)) base (fun s1 => !parkWrong s1.me s1.curX 0)) = true := by decide +kernel

/-- A spawn record for cluster 0. -/
def someSpawn : SpawnRec := ⟨0, 0, 0, 0, 0, 0, 0, 0, 0, 0, 0, 0, 0, []⟩

theorem wit_ThreadRows :
    (let may (s : State) := s.updCluster 0 fun cl => { cl with ctxReg := 2 ^ 17 }
     accepted (.spawn (pick .spawn)) (may (recorded base [0, 0, 0, 0, 0, 0, 0, 0])) (fun s1 => (s1.cluster 0).ctxReg.getLsbD 17 &&
       okay (s1.recordLoad (effAddr s1 (pick .spawn)) (pick .spawn).sw.toNat) fun p => !(spawnRecord p.1).2 &&
       !p.2.fencedCluster 0 && (p.2.cluster 0).service == .inService) &&
     accepted (.spawn (pick .spawn)) base (fun s1 => !(s1.cluster 0).ctxReg.getLsbD 17) &&
     (let s := arrives base (.spawn someSpawn 8 9 0)
      ((s.strand 7 .strandX).flight).isSome && !s.otherCtx 0 (s.threadCtx 7) && decide ((s.cluster 0).spawnQ.length < 64)) &&
     ([none, some 0].all fun old =>
      let q : QueuedSpawn := ⟨0, someSpawn, 7, none, 0, 1, 0, 0, none⟩
      let s := base.updCluster 0 fun cl => { cl with spawnQ := [q], sramCtx := old }
      match s.nextPlacement 0 with | some (q', _) => q'.id == s.item && q' == q | none => false) &&
     (let s := base.updCluster 0 fun cl => { cl with sramCtx := some 5 }
      (s.cluster 0).sramCtx == some 5 && (s.userThreads 0).isEmpty)) = true ∧
    (let reaps (a : Word) (th : Thread) (k : State → Bool) := accepted (.reap (pick .reap)) (at_ (family th) a) k
     let ended : Thread := { child with a := { Strand.zero with status := .parked 0 }, x := { Strand.zero with status := .parked 0 } }
     reaps (2 ^ 24) child (fun s1 => (s1.my.getS 16).extractLsb' 24 40 != 0) && reaps 23 child (fun s1 => (s1.thread? 23).isNone) &&
     reaps 7 child (fun s1 => s1.me.isSup) && reaps 15 { child with parent := 6 } (fun s1 => (s1.thread 15).parent != 7) &&
     reaps 15 ended (fun s1 => match s1.thread? 15 with | some th => !th.isSup && th.parent == 7 && th.drained | none => false)) = true := by
  decide +kernel

theorem wit_PreemptResume :
    (accepted (.preempt (pick .preempt)) base (fun s1 => !pclBad (s1.my.getS 16)) &&
     (let s := base.updCluster 0 fun cl => { cl with copyQ := [{ someJob base .pull 0 0 with held := true, tok := some 0 }] }
      [s, base].all fun s => accepted (.resumeJob (pick .resumeJob)) (at_ s 7) fun s1 =>
        (s1.my.getS 24).extractLsb' 3 61 == 0 && (s1.thread? 7).isSome && s1.threadCtx 7 == s1.threadCtx s1.curT)) = true := by
  decide +kernel

theorem wit_ResumeRun : ([0, 127].all fun c => [RunState.halted, .running].all fun r =>
    accepted (.resumeRun (pick .resumeRun)) (at_ (base.updCluster c fun cl => { cl with run := r }) (wordOf c)) fun s1 =>
      !pclBad (s1.my.getS 16) && (s1.cluster c).run == r) = true := by decide +kernel

/-- Bytes of the header of a save area of cluster 1, and the context that it holds. -/
def area : Nat := clusterSpan
def savedState : State :=
  let s := base.updCluster 1 fun cl => { cl with service := .inService, run := .halted, part := 1 }
  let put (m : List Host.Cell) (o n v : Nat) := memWrite m (physKey 0 (area + o)) (leBytes n v)
  { s with mem := put (put (put (put s.mem 0 4 0x45564153) 4 2 1) 8 2 1) 10 1 1
           saved := [⟨1, area, 0, 3, 0, [], [], [], [], [], [], [], [], [], [], []⟩] }
def control (a : Nat) : Word := wordOf (a / 65536 * 65536)

theorem wit_ContextRows :
    (let at1 (s : State) : State := withS (at_ s 1) 24 (control area)
     let empty := savedState.updCluster 1 fun cl => { cl with run := .empty }
     let fine (s1 : State) : Bool := !pclBad (s1.my.getS 16) && !ctlAreaBad (s1.my.getS 24) && !s1.areaBusy 1
     accepted (.ctxsave (pick .ctxsave)) (at1 savedState) (fun s1 => fine s1 && (s1.cluster 1).run == .halted &&
       s1.areaInside 1 (ctlArea (s1.my.getS 24)) (areaBytes + 2 ^ 16) && decide ((s1.saved.filter fun sv => sv.cluster == 1).length < 4) &&
       !s1.unsettled 1 (s1.ctxOf 1)) &&
     accepted (.ctxsaveDrop (pick .ctxsaveDrop)) (at1 savedState) (fun s1 => fine s1 && (s1.cluster 1).run == .halted) &&
     accepted (.ctxload (pick .ctxload)) (at1 empty) (fun s1 =>
       let s2 := s1.memUpdate (physKey 0 (ctlArea (s1.my.getS 24))) (areaBytes + 2 ^ 23) id
       fine s1 && (s1.cluster 1).run == .empty && (s1.cluster 1).service == .inService && s2.headerOk 1 (ctlArea (s1.my.getS 24)) && (s2.savedAt 1 area).isSome) &&
     accepted (.ctxloadDrop (pick .ctxloadDrop)) (at1 savedState) (fun s1 =>
       let s2 := s1.memUpdate (physKey 0 (ctlArea (s1.my.getS 24))) areaBytes id
       fine s1 && s2.headerOk 1 (ctlArea (s1.my.getS 24)) && (s2.savedAt 1 area).isSome) &&
     accepted (.ctxsave (pick .ctxsave)) (at1 empty) (fun s1 => fine s1 && (s1.cluster 1).run != .halted) &&
     (let other : Thread := { Thread.zero with a := { Strand.zero with status := .waiting (.saving 1) } }
      accepted (.ctxsave (pick .ctxsave)) { at1 savedState with threads := (8, other) :: (at1 savedState).threads } fun s1 =>
        !pclBad (s1.my.getS 16) && s1.areaBusy 1)) = true := by decide +kernel

theorem wit_TranslationRows : (([.tlbinvCtx, .tlbinvOwn, .tprobeCtx, .tprobeOwn] : List (Enc → Instr)).all takes) = true := by
  decide +kernel

theorem wit_LongCompletion :
    (let o : LongOp := { someOp .plain with ready := true }
     let s := base.updMy fun st => { st with pend := [o] }
     (s.strand 7 .strandX).pend.find? (fun o => o.id == 0) == some o && o.ready && o.fault.isNone) = true := by decide +kernel

theorem wit_UserTrapEntry :
    (let s := base.updMy fun st => { st with sup := false, trap := some ⟨0, 0x100, TrapInfo.plain .permission⟩ }
     (s.strand 7 .strandX).trap.isSome && s.trapReady 7 .strandX && s.trapToUser 7 .strandX (TrapInfo.plain .permission) &&
     takes .uret) = true := by decide +kernel

/-- With and without a supervisor vector. -/
theorem wit_SupervisorTrapEntry :
    ([0, 0x20000000000].all fun v =>
      let s := (base.updMy fun st => { st with trap := some ⟨0, 0x100, TrapInfo.plain .illegal⟩ }).updCluster 0 fun cl => { cl with svec := v }
      (s.strand 7 .strandX).trap.isSome && s.trapReady 7 .strandX && !s.trapToUser 7 .strandX (TrapInfo.plain .illegal) &&
      (s.cluster 0).svec == v && takes .sret) = true := by decide +kernel

def dev (f : Device → Device) : State := podBase.updDevice 0 f

/-- A live circuit from each die of package 0 to the next. -/
def lit : State := dev fun d => { d with circuits := (List.range 4).map fun i =>
  (64 * i, { Circuit.zero with state := .live, tcls := 63, src := BitVec.ofNat 2 i, dst := BitVec.ofNat 2 (i + 1), cxw := 1 }) }

theorem wit_CircuitRows :
    (let good : Circuit := { Circuit.zero with tcls := 1, src := 0, dst := 1, cxw := 2 ^ 40 }
     let with_ (c : Circuit) : State := (dev fun d => { d with circuits := [] }).setCircuit 0 5 c
     ([good, { good with src := 1 }, { good with dst := 0 }, { good with cxw := 0 }, { good with tcls := 0 }].all fun c =>
       ((with_ c).circuit 0 5).state == .free && ((with_ c).circuit 0 5) == c && !(with_ c).waveUsed 0 (2 ^ 40)) &&
     ((with_ good).setCircuit 0 6 { good with state := .live }).waveUsed 0 (2 ^ 40) &&
     ([CircuitState.tuning, .live, .fault, .draining].all fun st =>
       let s := with_ { good with state := st }
       (s.circuit 0 5).state == st && !s.onCircuit 0 5)) = true := by decide +kernel

theorem wit_TableFenceRows :
    (let busy (r : Option (Nat × Nat)) := dev fun d => { d with fenceBusy := true, retiring := r, tableNext := 1 }
     (podBase.device 0).fenceBusy == false && (1 == (podBase.device 0).tableGen + 1) && (2 != (podBase.device 0).tableGen + 1) &&
     ([none, some (0, 1)].all fun r => ((busy r).device (busy r).actor).fenceBusy && ((busy r).device 0).retiring == r &&
       !(busy r).olderOut 0 ((busy r).device 0).tableNext) &&
     (let s := (busy none).setFlight 7 .strandX { flight (.travelling 0) none with die := 1 }
      s.olderOut 0 (s.device 0).tableNext) &&
     ((withFlight base .bounced none).strand 7 .strandX).flight == some (flight .bounced none)) = true := by decide +kernel

/-- A packet of thread 7's X-strand from die 0, on a link direction or at its source, and a state whose one packet it is. -/
def somePacket (dst : Nat) (link : Option Nat) : Packet :=
  ⟨0, 0, dst, 0, 1, 0, 1, 0, 0, true, 0, some 0, link, 0, .request 7 .strandX, false, .moving, false, 0⟩
def carried (s : State) (p : Packet) : State := { s with packets := [p] }
/-- Every permit of die 0's outbound direction is held. -/
def heldUp (s : State) : State := { s with pools := [(0, ⟨[(0, 768)]⟩)] }

theorem wit_PacketRows_admission :
    (let ask (s : State) (die : Nat) (k : Bool → Bool → Bool → Bool → Bool) : Bool :=
       let f : Flight := { flight (.atLink 0) none with die := die }
       let s := s.setFlight 7 .strandX f
       let cargo := f.cargo 7 .strandX
       let port := if die / 4 = 0 then none else s.portTo 0 (s.intermediate 0 (die / 4) 0)
       let r := s.form 0 die 0 (s.partOf 7) 0 cargo
       (s.strand 7 .strandX).flight == some f &&
       k (decide (die / 4 ≠ 0) && (s.minPort 0 (die / 4)).isNone)
         (decide (grantLimit < s.elapsedOf 0) || !s.reaches 0 die 0 || port.any fun p => !s.keyed (portLink 0 p) (s.partOf 7))
         (s.canGrant 0 0 (cargo.flits 0)) (r.2.legFrom 0 r.1).isSome
     ask lit 1 (fun un turned grant leg => !un && !turned && grant && leg) &&
     ask (heldUp lit) 1 (fun un turned grant _ => !un && !turned && !grant) &&
     ask (lit.updDevice 0 fun d => { d with elapsed := grantLimit + 1 }) 1 (fun un turned _ _ => !un && turned) &&
     ask (dev fun d => { d with circuits := [] }) 1 (fun un turned _ _ => !un && turned) &&
     ask lit 4 (fun un _ _ _ => un)) = true := by decide +kernel

theorem wit_PacketRows_forward :
    (let moving (s : State) (p : Packet) (k : State → Bool) : Bool :=
       let s := carried s p
       s.packet 0 == some p && p.copy == .moving && !p.atEnd && k s
     let p := somePacket 1 (some 0)
     moving lit (somePacket 1 none) (fun s => (s.nextLeg (somePacket 1 none)).isSome) &&
     moving (lit.setPort 0 3 { Port.zero with mode := 4 }) (somePacket 4 (some (portLink 0 3))) (fun s => !s.crosses (portLink 0 3)) &&
     moving lit { p with bad := true } (fun s => s.crosses 0) &&
     moving lit p (fun s => s.crosses 0 && s.keyTaken 0 1 0 &&
       (match s.nextLeg p with | some (m, _) => s.takes m 0 1 1 | none => false)) &&
     (match (heldUp lit).nextLeg (somePacket 1 none) with | some (l, _) => !(heldUp lit).takes l 0 1 1 | none => false) &&
     ((dev fun d => { d with circuits := [] }).nextLeg (somePacket 1 none)).isNone) = true := by decide +kernel

theorem wit_PacketRows_delivery :
    (let p := somePacket 1 (some (inLink 1))
     ([(false, false), (true, false), (false, true)].all fun r =>
       let q := { p with bad := r.1, taken := r.2 }
       let s := carried lit q
       s.packet 0 == some q && q.copy == .moving && q.atEnd && !s.earlier q) &&
     (let s : State := { lit with packets := [p, { p with id := 1 }] }
      s.packet 1 == some { p with id := 1 } && s.earlier { p with id := 1 } && inOrder p.cls) &&
     !inOrder 1 && !crossesLink 7 0 && crossesLink 7 1 &&
     ([PacketCopy.accepted, .noticed, .lost].all fun c => (carried lit { p with copy := c }).packet 0 == some { p with copy := c }) &&
     (lit.packet 0).isNone) = true := by decide +kernel

/-- A request, a long operation, and neither, none of whose answers has come in time. -/
theorem wit_PacketRows_timeouts :
    (let f : Flight := { flight (.travelling 0) none with die := 4 }
     let s : State := (lit.setFlight 7 .strandX f).updDevice 0 fun d => { d with cycle := 10 ^ 9 }
     let o : LongOp := { someOp .plain with far := some ⟨0, 1, 0, 0, 0, 0, 0⟩ }
     let late := lit.updMy fun st => { st with pend := [o] }
     (s.strand 7 .strandX).flight == some f && ((s.strand 7 .strandX).pend.filter (s.lateOp 7)).isEmpty &&
     (s.strand 7 .strandX).awaits f && crossesLink 7 f.die && decide (f.since + 8 * max f.bound (s.boundNow 7 f) ≤ s.now 7) &&
     (late.strand 7 .strandX).flight.isNone && (late.strand 7 .strandX).pend.filter (late.lateOp 7) == [o] &&
     (lit.strand 7 .strandX).flight.isNone && ((lit.strand 7 .strandX).pend.filter (lit.lateOp 7)).isEmpty) = true := by decide +kernel

theorem wit_PortRows :
    (let holds (l n : Nat) : State := { podBase with actor := l, item := n, links := [(l, ⟨4, [⟨3, 0, 0, 0, 0⟩]⟩)] }
     let asked (s : State) : Bool := (s.linkBuf s.actor).flits.any fun f => f.num == BitVec.ofNat 12 s.item
     !asked (holds 0 2) && asked (holds 0 3) && asked (holds (portLink 0 35) 3) &&
     ([true, false].all fun b =>
       let s := (if b then holds (portLink 0 3) 3 else podBase).setPort 0 3 { Port.zero with mode := 1 }
       ((s.linkBuf (portLink 0 3)).flits.isEmpty == !b)) &&
     (let s := podBase.setPort 0 3 { Port.zero with training := true }
      (s.port 0 3).training && !(podBase.port 0 3).training)) = true := by decide +kernel

theorem wit_HostAccesses :
    ((base.updCluster 0 fun cl => { cl with service := .lent }).lentRange 0 0 8 = true) ∧
    (hostRange 0x800000000000 8 = true ∧ hostRange (0xC00000000000 - 1) 1 = true) ∧
    (base.lentRange 0 0 8 = false ∧ hostRange 0 8 = false) := by decide +kernel

/-- The registers' offsets at their bounds, and writers that do not reach one. -/
theorem wit_HostAccesses_registers :
    (let may (s : State) (ofs : Nat) : Bool := ofs % 8 == 0 && (s.item == 1 || decide (ofs < 0x20000 ∧ 5 < (s.device 0).stage))
     let inside (s : State) : State := { s with item := 1 }
     let rung (b : Bool) (w : Word) : State := dev fun d => { d with doorbell := b, request := List.replicate 8 w }
     let none_ (o : Nat) : Bool := decide (o ≠ 0x10 ∧ (o < 0x10000 ∨ 0x10040 ≤ o) ∧ o ≠ 0x10080 ∧ o ≠ 0x20000 ∧
       (o < 0x24000 ∨ 0x28000 ≤ o) ∧ (o < 0x100000 ∨ 0x140000 ≤ o ∨ o % 0x10000 < 0x1000 ∨ 0x1400 ≤ o % 0x10000))
     decide (0x11 % 8 ≠ 0) && base.item != 1 && !may base 0x20000 && !may (dev fun d => { d with stage := 5 }) 0x10 &&
     may base 0x10 && ([299, 300, 1700, 1701].all fun v => ((wordOf v).extractLsb' 0 12).toNat == v) &&
     ([false, true].all fun b => (((rung b 0).device 0).doorbell == b) && may (rung b 0) 0x10000 && may (rung b 0) 0x10038) &&
     may (rung false 0x30) 0x10080 &&
     ([0x30, 0x31].all fun k => commandCodes.contains ((((rung false (wordOf k)).device 0).req 0).extractLsb' 0 8).toNat == (k == 0x30)) &&
     ([false, true].all fun b => let s := inside (dev fun d => { d with fenceBusy := b })
       may s 0x20000 && (s.device 0).fenceBusy == b && (1 : Word) == ((s.device 0).tableGen + 1).setWidth 64) &&
     ([0x24000, 0x27FF8, 0x101000, 0x131000 + 16 * 63, 0x101008, 0x131008 + 16 * 63].all (may (inside podBase))) &&
     ([CircuitState.free, .live].all fun st => ((podBase.setCircuit 3 63 { Circuit.zero with state := st }).circuit 3 63).state == st) &&
     ([0x18, 0x10040, 0x10078, 0x20008, 0x23FF8, 0x28000, 0xFFFF8, 0x100FF8, 0x101400, 0x140000].all none_)) = true := by decide +kernel

/-- A command with its doorbell set; partition 0 has die 0. -/
def command (ws : List Word) : State :=
  { (dev fun d => { d with doorbell := true, request := ws }) with
    partitions := [(0, ⟨0, 1, 0, [], 0, .unlocked, 0⟩)] }

theorem wit_ManagementCommands :
    ([0x01, 0x02, 0x03, 0x20, 0x23, 0x24].all fun k => (command [wordOf k]).commanded 0 k && !base.commanded 0 k) = true ∧
    (let s := (command [0x21, 2]).updCluster 2 fun cl => { cl with service := .offline }
     s.commanded 0 0x21 && s.reqCluster 0 == some 2 && (s.cluster 2).service == .offline) = true ∧
    ([Service.fenced, .inService].all fun v => [(0, Tdisp.unlocked), (4, .unlocked), (4, .run)].all fun r =>
      let s : State := { (command [0x22, 2]).updCluster 2 fun cl => { cl with service := v } with
        partitions := [(0, ⟨0, 1, 0, [], r.1, r.2, 0⟩)] }
      s.commanded 0 0x22 && s.reqCluster 0 == some 2 && (s.userThreads 2).isEmpty && (s.cluster 2).service == v &&
      ((s.reqPartition 0).any fun p => p.lent.getLsbD 2) == (r.1 != 0) && (s.reqPartition 0).any Partition.locked == (r.2 == .run)) = true ∧
    ([0, 1, 0x10, 0x33, 0x40, 0x43, 0x100, 0x3FF].all fun b => (command [0x30, wordOf b]).commanded 0 0x30 && blockOk b) = true ∧
    (let s := podBase.setFwBlock 0 0 { podBase.fwBlock 0 0 with staged := some (1, 0) }
     let s := s.updDevice 0 fun d => { d with cxlIdle := true }
     (s.fwBlock 0 0).staged.isSome && s.quiescent 0 0) = true ∧
    ([(true, 0), (false, 100000 * timeScale), (true, 100000 * timeScale)].all fun r =>
      let s : State := dev fun d => { d with retrain := [(5, ⟨r.1, 0⟩)], elapsed := r.2 }
      match tget (s.device 0).retrain 5 with
      | some w => w.open_ == r.1 && (r.2 == 0 || (!w.isOpen (s.device 0) && w.ready (s.device 0)))
      | none => false) = true ∧
    ((dev fun d => { d with loading := some ⟨0, 0, [], 0, [], none, 0⟩ }).device 0).loading.isSome = true ∧
    ([1, 128].all fun n =>
      let s := command [0x10, 0, 64, 0, wordOf n, 0]
      let dv := s.device 0
      dv.loading.isNone && dv.doorbell && (dv.req 0).extractLsb' 0 8 == 0x10 &&
      (match tget s.partitions dv.reqPart with
       | some p => p.device == 0 && p.covers 0 64 && p.covers 0 n && p.covers 0 8 && p.covers 0 (8 * (⟨s.physRead 0 0 64⟩ : Image).count 6)
       | none => false)) = true := by decide +kernel

def spdmState (f : Spdm) : State := dev fun d => { d with spdm := f }

theorem wit_AttestationRows :
    (((spdmState { Spdm.zero with version := true }).spdm 0).version ∧ ((spdmState { Spdm.zero with caps := true }).spdm 0).caps ∧
     ((spdmState { Spdm.zero with alg := 1 }).spdm 0).alg ≠ 0 ∧ ((spdmState { Spdm.zero with session := some 3 }).spdm 0).session = some 3 ∧
     ((spdmState { Spdm.zero with finished := true }).spdm 0).finished) ∧ (podBase.spdm 0).alg = 0 := by decide +kernel

theorem wit_TdispRows : ([Tdisp.unlocked, .locked, .run].all fun st =>
    let p : Partition := ⟨0, 1, 0, [], 0, st, 0⟩
    tget ({ podBase with partitions := [(0, p)] } : State).partitions 0 == some p && p.device == 0 && p.tdisp == st) = true := by
  decide +kernel

theorem wit_ServiceEvents :
    (isSram coreKey && !isSram (physKey 0 0) && base.item == 0 && ({ base with item := 1 } : State).item != 0 &&
     ([0, 5].all fun l => let s := dev fun d => { d with pwrlim := BitVec.ofNat 12 l }
       decide (l < 6 ∧ 6 > (s.device 0).pwrlim.toNat ∧ l ≤ (s.device 0).pwrlim.toNat ∧ (s.device 0).hot = 0)) &&
     ([1, 7].all fun st =>
       let s : State := dev fun d => { d with stage := st, elapsed := 2000000000 * timeScale }
       let dv := s.device 0
       !dv.stopped && dv.stage == st && decide (dv.since + stageLimit dv.stage * timeScale ≤ dv.elapsed)) &&
     ([0, 1].all fun d => let t := base.wipe d (base.device d).fresh
       decide (d = 0) || (tget t.devices 0).isSome)) = true := by decide +kernel

/-- Membership: bad arguments, stage 6 with the device's own number and others, later stages, and earlier ones. -/
theorem wit_ServiceEvents_membership :
    (let good (s : State) (num q : Nat) (members : List Nat) : Bool :=
       podPrimes.contains q && members.contains num && (members.all fun e => decide (e < 2 * q * q)) && !(s.device 0).stopped
     let at_ (st q : Nat) : State := { (dev fun d => { d with stage := st, podQ := q }) with threads := [] }
     !good (at_ 6 0) 0 6 [0] && !good (at_ 6 0) 1 5 [0] && !good (at_ 6 0) 50 5 [50] && good (at_ 6 0) 49 5 [49] && good (at_ 6 0) 0 23 [0] &&
     (tget (at_ 6 0).devices 49).isNone && !((at_ 6 0).threads.any fun p => deviceOf p.1 == 0) &&
     (tget { at_ 6 0 with devices := (49, Device.zero) :: (at_ 6 0).devices }.devices 49).isSome &&
     ([6, 7, 8].all fun st => ((at_ st 5).device 0).stage == st && ((at_ st 5).device 0).podQ == 5) &&
     ((at_ 5 0).device 0).stage == 5) = true := by decide +kernel

theorem wit_ThreadName : base.curT < 2 ^ 24 ∧ ({ base with curT := 2 ^ 24 - 1 } : State).curT < 2 ^ 24 := by decide +kernel

theorem wit_HardWiredRegisters :
    (takes .ldi && accepted (.ldi { pick .ldi with da := ⟨.scalar, 0⟩ }) base (fun _ => true) &&
     accepted (.plog { pick .plog with da := ⟨.predicate, 0⟩ }) base (fun _ => true)) = true := by decide +kernel

/-- The waiting conditions of step 6 and 7: a faulted token, a busy one, and neither under a clear guard. -/
theorem wit_CheckOrder :
    (let e := pick .add
     let d := intDesc e (tyS8toU64 e.ty) true
     let user (st : Strand) := { st with sup := false }
     (describe base.me.acc (.add e)).isSome && d.legal && !d.gs.illegal e.gs.toNat && !d.reserved e && !d.operandClass e 0xFF &&
     !d.wrongStrand e person .strandX && (d.check e base.me .strandX).isNone &&
     { d with legal := false }.check e base.me .strandX == some .illegal &&
     d.reserved { e with sw := 1 } && d.operandClass { e with sa := ⟨.vector, 0⟩ } 0xFF &&
     (let k := { pick .spawn with gs := 0 }
      let dk := spawnDesc k
      let th := person.setStrand .strandX (user person.x)
      !(dk.needsSupervisor k) || (!(th.strand .strandX).sup && dk.check k th .strandX == some .privileged)) &&
     (let f : FaultRec := ⟨.align, 0, false, none, none, none⟩
      let s := base.updThread 7 fun th => th.setTok 0 { th.getTok 0 with fault := some f }
      s.me.faultedToken 1 == some (0, f)) &&
     (let s := base.updTok 7 0 Token.add
      (s.me.faultedToken 1).isNone && s.me.tokensBusy 1) &&
     okay (base.waitMask e.wm) (fun s1 => !d.vec && !s1.my.guardOn { e with gsel := 1 })) = true := by decide +kernel

theorem wit_EveryRowAnswers : (base.thread? base.curT).isSome = true := by decide +kernel

/-- From `State.reset`, an instruction placed where the machine fetches. -/
theorem wit_StepRunsDecoded :
    (let w := 0x01000000E0380E0000000000
     let s := State.reset.withFetchWord 96 w
     let s0 : State := { s with agenda := [] }
     let s2 : State := { (base.withFetchWord 96 w).updThread 7 (fun th => { th with a := { th.a with status := .dead } }) with agenda := [] }
     s.agenda == [.issue 7 .strandX] && s0.mayIssue 7 .strandX && s2.choose == .issue 7 .strandX && s2.mayIssue 7 .strandX &&
     okay ((s2.charge 7 .strandX).fetch 7 .strandX) (fun p => match decodeWord p.1 with | .nop _ => true | _ => false) &&
     okay ((s0.charge 7 .strandX).fetch 7 .strandX) (fun p => match decodeWord p.1 with | .nop _ => true | _ => false) &&
     (match decode (bytesOfWord (BitVec.ofNat 96 w) ++ []) with | .ok (.nop _, []) => true | _ => false) &&
     (let s1 := { s0 with mem := [] }
      match (s1.charge 7 .strandX).fetch 7 .strandX with | .error (.trap _) => s1.mayIssue 7 .strandX | _ => false)) = true := by decide +kernel

theorem wit_EncodeDecodeAgree :
    (Instr.add (pick .add)).wf = true ∧ (encode (.add (pick .add))).isSome = true ∧ (Instr.add (pick .add)).op.isSome = true ∧
    (List.replicate 11 (0 : Byte)).length < 12 := by decide +kernel

theorem wit_StepKeepsMemoryForm : State.reset.memOk = true ∧ (match step base with | .next _ => true | _ => false) = true := by
  exact ⟨by decide +kernel, by decide +kernel⟩

theorem wit_RegisterRowFrame :
    (([.add, .sub, .mul, .mulh, .mad, .min, .max, .abs, .and, .or, .xor, .andn, .shl, .shr, .sar, .rotl, .clz, .ctz, .popc,
       .sel, .fsgn, .fclass, .fadd, .fsub, .fmul, .fmin, .fmax, .ffma, .fcvt] : List (Enc → Instr)).all fun row =>
       scalarReady row false (pick row) base) = true ∧
    (([.bfx, .bfi] : List (Enc → Instr)).all fun row => scalarReady row false (field row) base) = true ∧
    (([.div, .rem, .fdiv, .fsqrt] : List (Enc → Instr)).all fun row => scalarReady row true (pick row) base) = true ∧
    (([.cmp, .fcmp] : List (Enc → Instr)).all fun row => pairReady row (pick row) base) = true ∧
    (([.ldi, .ldp, .kget, .plog] : List (Enc → Instr)).all takes) = true := by decide +kernel

/-- A row is issued, and completes. -/
def completes (i : Instr) (s : State) : Bool :=
  match exec i s with
  | .next t => (t.strand s.curT s.curX).order == s.my.order + 1
  | _ => false

theorem wit_RegisterRowFrame_vectors :
    (([.vadd, .vsub, .vmul, .vmulh, .vmin, .vmax, .vmad, .vabs, .vand, .vor, .vxor, .vshl, .vshr, .vsar, .vcmp, .vsel, .vfsgn,
       .vfclass, .bmaxe, .malign, .vbcast, .vbcastEl, .vperm, .vshuf, .vext, .vextEl, .vins, .vcomp, .lbc, .vlq, .pcnt, .pfirst,
       .pset] : List (Enc → Instr)).all fun row => completes (row (pick row)) base) = true ∧
    (([.vfadd, .vfsub, .vfmul, .vffma, .vfdiv, .vfsqrt, .vfmin, .vfmax, .vfcmp, .vfcvt, .vred, .vscan, .vexp2, .vlog2, .vrcp,
       .vrsq, .vtanh, .wfin, .welf, .wmerge, .wred] : List (Enc → Instr)).all fun row => completes (row (pick row)) base) = true := by
  decide +kernel

/-- The queue-fed reduction at its end and before it; for `vsin` and `vcos` see `wit_VectorFloatResults`. -/
theorem wit_RegisterRowFrame_others :
    (completes (.vredQueue (pick .vredQueue)) base &&
     (match exec (.vredQueue { pick .vredQueue with imm := 2 }) fed with
      | .next t => t.my.status == .waiting .more
      | _ => false) && takes .kset && takes .kswap) = true := by decide +kernel

/-- Loads complete where there is room in the L1 and no release is recorded with their bytes; with `wit_ScalarLoadStore` and
`wit_VectorLoadStore`, the states there meet the invariant. -/
theorem wit_LoadStoreFrame : (at_ base coreVa).memOk = true ∧ (at_ (mapped base) (ownVa 0)).memOk = true ∧
    (([.ld, .vld, .vlds, .vldx] : List (Enc → Instr)).all fun row => completes (row (pick row)) (at_ base coreVa)) = true ∧
    completes (.ld (pick .ld)) (at_ (mapped base) (ownVa 0)) = true ∧ base.l1.length + 256 ≤ l1Lines ∧ base.rel = [] := by
  exact ⟨by decide +kernel, by decide +kernel, by decide +kernel, by decide +kernel, by decide +kernel, rfl⟩

/-! ### The clauses that the witnesses above leave -/

theorem wit_TicketAnswers_more :
    (let s := podBase.setTicket 0 { Ticket.zero with part := some 1, state := .ready, span := 1, ends := 1, fault := some (TrapInfo.plain .poison) }
     s.ticketAnswer 0 1 (genuine s) = .ok ∧ (s.ticket 0).fault = some (TrapInfo.plain .poison)) ∧
    (let s := podBase.setTicket 0 { Ticket.zero with part := some 1, state := .ready, span := 1, ends := 1 }
     okay ((s.freeTicket 0 .redeemed).redeemStore 7 .strandX coreVa 0 (s.ticket 0).bytes (List.range 8)) (fun _ => true) = true) ∧
    (let s := podBase.setTicket 0 { Ticket.zero with part := some 1, state := .filling, span := 1 }
     s.ticketAnswer 0 1 (genuine s) = .pending ∧ (s.ticket 0).redeems.contains (7, Side.strandX) = false) ∧
    ticketKey (0 : Word) = 0 := by
  refine ⟨⟨genuine_answer _ ?_ ?_ ?_ _ ?_, ?_⟩, ?_, ⟨genuine_answer _ ?_ ?_ ?_ _ ?_, ?_⟩, ?_⟩ <;> decide +kernel

/-- A copy whose source no live circuit reaches, faults of both units, and no job to run. -/
theorem wit_JobEvents_more :
    (let m := mapped podBase
     let far : State := m.updCluster 0 fun cl => { cl with copyQ := [{ someJob m .pull coreVa (ownVa 5) with }] }
     let j (s : State) := someJob s (.ms 5 .u8 .rne false false 0 0 0) (ownVa 5) 0
     let ms : State := m.updCluster 0 fun cl => { cl with msQ := [{ j m with len := 64 }] }
     (m.runnable 0 0 false).isNone && (m.runnable 0 0 true).isNone && (ms.runnable 0 0 false).isNone &&
     (match ms.runnable 0 0 true with
      | some j => decide (j.ofs < j.len) && (match ms.jobTry 0 true j with | .fault _ _ => true | _ => false)
      | none => false) && (far.runnable 0 0 false).isSome) = true := by decide +kernel

theorem wit_RegionRows_more :
    accepted (.rgclr (pick .rgclr)) (at_ (base.setRegion 0 0 (someRegion .filling 0)) 64)
       (fun s1 => match s1.regionHandle 0 (s1.my.getS 16) with | some (_, r) => r.state == .filling | none => false) = true := by
  decide +kernel

/-- Two lines: one still to come, and the last. -/
theorem wit_MaintenanceRows_more :
    (([.clean, .inval, .invalI, .discard] : List (Enc → Instr)).all fun row => [(0, false), (64, true)].all fun r =>
      let s := (withS (at_ (mapped base) (ownVa 0)) 24 128).updMy fun st => { st with prog := wordOf r.1 }
      accepted (row (pick row)) s fun s1 => okay (s1.maintRange s1.curT (effAddr s1 (pick row)) 128) fun p =>
        let at_ := (effAddr s1 (pick row)).toNat + p.2.my.prog.toNat
        let next := at_ / 64 * 64 + 64 - (effAddr s1 (pick row)).toNat
        p.1 == .own && decide (128 ≤ next) == r.2) = true := by decide +kernel

theorem wit_SharedCacheEvents_more :
    (let f : Fill := ⟨0, 0, 5, 0, 1, 0, 0, false, none, false⟩
     let bad := (List.range 8).foldl (fun s i => s.setPoison (5 * 64 + 8 * i)) ({ base with fills := [f] } : State)
     bad.fills.find? (fun f => f.id == bad.actor) == some f && bad.linePoisoned (homeSlice f.home (f.line * 64)) (f.line * 64) 64 &&
     (base.fills.find? (fun f => f.id == base.actor)).isNone &&
     (let s := base.updDevice 0 fun d => { d with cycle := 1 }
      decide (s.cycleOf (s.actor / 4) % 1024 ≠ 0) && decide (s.cycleOf (s.actor / 4) % 65536 ≠ 0))) = true := by decide +kernel

/-- GLOBAL's first page lies in the memory of another die, which no live circuit reaches. -/
def faraway (s : State) : State :=
  let m := mapped s
  { m with mem := memWrite m.mem (physKey 0 (0x20000 + 8 * 4096)) (leBytes 8 (leafWord 1 32 (32 * clusterSpan) 0 false false true).toNat) }

theorem wit_JobEvents_hold :
    (let m := faraway podBase
     let s : State := { m.updCluster 0 (fun cl => { cl with copyQ := [someJob m .pull coreVa globalVa] }) with pools := [(0, ⟨[(0, 768)]⟩)] }
     match s.runnable 0 0 false with
     | some j => decide (j.ofs < j.len) && (match s.jobTry 0 false j with | .hold _ => true | _ => false)
     | none => false) = true := by decide +kernel

theorem wit_RegionRows_hold :
    (let s : State := { (faraway podBase).setRegion 0 0 (someRegion .filling globalVa) with pools := [(0, ⟨[(0, 768)]⟩)] }
     match s.regionStep 0 0 (s.region 0 0) with | .hold _ => (s.region 0 0).state == .filling | _ => false) = true := by decide +kernel

/-- Words that are not as the row asks, a range of two words, and a port without room. -/
theorem wit_FullEmptyRows_more :
    ((([(false, .ldsync), (true, .ldsyncTake)] : List (Bool × (Enc → Instr))).all fun r =>
      accepted (r.2 (pick r.2)) (at_ (base.setEmpty coreKey) coreVa) fun s1 => okay (s1.fePlace (pick r.2) r.1 false) fun p =>
        decide (p.1.home = clusterOf 7) && okay ((p.2.drainStores 7 .strandX).touchStart 7 p.1.key) fun s3 => !s3.feFull p.1.key) &&
     accepted (.stsync (pick .stsync)) (at_ base coreVa) (fun s1 =>
       okay (s1.fePlace (pick .stsync) false true) fun p => (p.2.drainStores 7 .strandX).feFull p.1.key) &&
     accepted (.feset (pick .feset)) (withS (at_ base coreVa) 24 16) (fun s1 =>
       okay (s1.feRange (effAddr s1 (pick .feset)) 16 (pick .feset).sw.toNat) fun p =>
         decide ((p.2.drainStores 7 .strandX).my.prog.toNat + 8 < 16)) &&
     (let s : State := { base.setEmpty coreKey with waiters := List.replicate 256 ⟨7, .strandX, coreKey, 0, .load .u64 8 false 0, true⟩ }
      !s.feFull coreKey && decide (256 ≤ s.portWaiters coreKey))) = true := by decide +kernel

theorem wit_CounterRows_more :
    (let s := withS (base.updCluster 1 fun cl => { cl with service := .inService, run := .empty, part := 1 }) 16 (wordOf (4096 + 8192))
     accepted (.cinc (pick .cinc)) s fun s1 => okay (s1.readScalar (pick .cinc).ty (pick .cinc).imm (pick .cinc).sb) fun p =>
       counterRef 7 (p.2.2.my.getS 16) == some (1, 0) && (p.2.2.clusterCheck 7 1).isNone &&
       okay (p.2.2.admitReq 0 0) fun s3 => s3.portRefuses 1 (s3.ctxOf 0) true 1) = true ∧
    ((([.cwait, .cwaitPh] : List (Enc → Instr)).all fun row =>
      accepted (row (pick row)) (base.setCounter 0 0 { Counter.zero with flt := some ⟨.align, 0, false, none, none, none⟩ }) (fun s1 =>
        !(s1.counter 0 (counterNum (pick row))).ovr && (s1.counter 0 (counterNum (pick row))).flt.isSome) &&
      accepted (row (pick row)) (withS base 16 (if (row (pick row)) matches .cwait _ then 1 else 0)) fun s1 =>
        let v := s1.counter 0 (counterNum (pick row))
        !v.ovr && v.flt.isNone && ((s1.my.getS 16 == 1 && decide (v.val.toNat < 1)) || (s1.my.getS 16 == 0 && v.ph == 0)))) = true ∧
    (let a : Arrival := ⟨0, 1, none, [], none, 9, none⟩
     let s := base.updCluster 0 fun cl => { cl with arrivals := [a] }
     let l : State := { s with saved := [⟨0, 2 ^ 20, 0, 9, 0, [], [], [], [], [], [], [], [], [], [], []⟩] }
     (s.cluster s.actor).arrivals.find? (fun a => a.ctr == s.item) == some a && s.steerArrival 0 a == .discard &&
     l.steerArrival 0 a == .log 0 && l.logHolds 0 0 a) = true := by decide +kernel

theorem wit_ArmRows_failed :
    (let a : Action := ⟨0, { ArmRec.zero with act := 2, w2 := wordOf (2 ^ 63), w3 := 1 }, 7, base.ctxOf 0, 0, 0, 0, .idle, [], none⟩
     let s := base.updCluster 0 fun cl => { cl with actions := [a] }
     nextAction (s.cycleOf 0) [] (s.cluster s.actor).actions == some a && (match s.runAction s.actor a with | .failed _ => true | _ => false))
     = true := by decide +kernel

/-- A sum that the bank keeps, a poisoned slot, and two locations to clear. -/
theorem wit_SlotRows_more :
    (let s := at_ (mapped base) (ownVa 4)
     let e := pick .rsld
     let look (s : State) (k : Target → State → Bool) : Bool :=
       accepted (.rsld e) s fun s1 => okay (s1.slotPlace 7 (effAddr s1 e) e.sw.toNat .slotRead) fun p =>
         okay (p.2.admitReq (targetDie 7 p.1) 0) fun s3 => k p.1 s3
     look { s with sums := [(physKey 0 0xA0000000, ⟨e.ty, e.rm, e.ftz, e.sat, 5, 0⟩)] } (fun g s3 =>
       (tget s3.sums g.key).isSome && !s3.poisoned g.key 8192) &&
     look (s.setPoison (physKey 0 0xA0000000)) (fun g s3 => (tget s3.sums g.key).isNone && s3.poisoned g.key 8192) &&
     accepted (.rsclr (pick .rsclr)) (withS s 24 16) (fun s1 =>
       let va := effAddr s1 (pick .rsclr)
       (s1.my.getS 24 == 16) && okay (windowCheck va.toNat 16 8 .slotWrite false) fun _ =>
       okay (s1.slotPages 7 (pick .rsclr).sw.toNat ((va.toNat + 16 - 1) / 65536 - va.toNat / 65536 + 1) va.toNat) fun s2 =>
       decide (s2.my.prog.toNat + 8 < 16) &&
       okay (s2.slotPlace 7 va (pick .rsclr).sw.toNat .slotWrite) fun p => okay (p.2.admitReq (targetDie 7 p.1) 0) fun _ => true))
     = true := by decide +kernel

theorem wit_MatrixRows_full :
    (let q : QueuedMat := ⟨0, 7, 0, .czero 0, .waiting, 0, 0, 0, [], 0, false⟩
     let s := base.updCore 0 fun c => { c with queue := List.replicate 16 q }
     s.matFull && (([.scacc, .czero] : List (Enc → Instr)).all fun row => accepted (row (pick row)) s fun s1 => s1.matFull)) = true := by
  decide +kernel

/-- An operation with nothing missing, for MATRIX_OPERAND_FETCH, and one with everything missing, for MATRIX_KSTEP. -/
theorem wit_MatrixEvents_more :
    (let p := queued (.czero 0) .running true base
     p.1.queued 0 0 == some p.2 && (p.1.missing p.2).isEmpty &&
     (let p := queued (.cld 0 coreVa 256 0) .running false base
      runs p.1 (.cld 0 coreVa 256 0) && !(p.1.missing p.2).isEmpty)) = true := by decide +kernel

theorem wit_MessageRows_more :
    (accepted (.send (pick .send)) (at_ (family child) (2 ^ 40)) (fun s1 => s1.sendCheck 7 (s1.my.getS 16) == some .unmapped) &&
     (let s := arrives (family { child with acc := 0 }) (.send ⟨15, 0, QEntry.word 1⟩)
      let other := s.updCluster 0 fun cl => { cl with part := 2 }
      let f := s.updCluster 0 fun cl => { cl with service := .fenced }
      f.fencedCluster (clusterOf 15) &&
      (match (other.updCluster 1 fun cl => { cl with part := 1, service := .inService }).admitMsg 7 ⟨71, 0, QEntry.word 1⟩ with
       | .permission => true | _ => false))) = true := by decide +kernel

/-- Bad records, targets out of service, queues that do not take a record, a scrub for another context's record, and
the ways in which `reap` does not answer at once. -/
theorem wit_ThreadRows_more :
    (let may (s : State) := s.updCluster 0 fun cl => { cl with ctxReg := 2 ^ 17 }
     let look (s : State) (k : Bool → Bool → Bool) : Bool :=
       accepted (.spawn (pick .spawn)) (may s) fun s1 => okay (s1.recordLoad (effAddr s1 (pick .spawn)) (pick .spawn).sw.toNat) fun p =>
         !p.2.fencedCluster 0 && k (spawnRecord p.1).2 (p.2.targetOut 0 (spawnRecord p.1).1)
     let words : List Word := [0, 0, 0, 0, 0, 0, 0, 0]
     look (recorded base (1 :: words.tail)) (fun bad out => bad && !out) &&
     look ((recorded base words).updCluster 0 fun cl => { cl with coresOut := 1 }) (fun bad out => !bad && out) &&
     (let s := arrives base (.spawn someSpawn 8 9 0)
      let claimed := s.updCluster 0 fun cl => { cl with claim := some 99 }
      let q : QueuedSpawn := ⟨0, someSpawn, 7, none, 0, 1, 0, 0, none⟩
      let full := s.updCluster 0 fun cl => { cl with spawnQ := List.replicate 64 q }
      claimed.otherCtx 0 (s.threadCtx 7) && !full.otherCtx 0 (s.threadCtx 7) && decide (64 ≤ (full.cluster 0).spawnQ.length) &&
      (let w := base.updCluster 0 fun cl => { cl with spawnQ := [q], sramCtx := some 5 }
       match w.nextPlacement 0 with
       | some (q', _) => q'.ctx == w.item && (w.cluster 0).sramCtx == some 5 && (w.userThreads 0).isEmpty
       | none => false)) &&
     accepted (.reap (pick .reap)) (at_ (family child) 15) (fun s1 => okay (s1.admitReq (dieOf 15) 0) fun _ =>
       match s1.thread? 15 with | some th => s1.childOf 7 th && !th.drained | none => false) &&
     accepted (.reap (pick .reap)) (at_ (family child) (2 ^ 11)) (fun s1 => crossesLink 7 (dieOf (2 ^ 11)) && s1.my.flight.isNone)) = true := by
  decide +kernel

theorem wit_PreemptResume_more :
    (accepted (.resumeJob (pick .resumeJob)) (at_ base 9) (fun s1 => (s1.my.getS 24).extractLsb' 3 61 == 0 && (s1.thread? 9).isNone) &&
     accepted (.resumeJob (pick .resumeJob)) (withS base 24 8) (fun s1 => (s1.my.getS 24).extractLsb' 3 61 != 0) &&
     (([.preempt, .resumeRun] : List (Enc → Instr)).all fun row => accepted (row (pick row)) (at_ base (2 ^ 20)) fun s1 =>
       pclBad (s1.my.getS 16))) = true := by decide +kernel

theorem wit_ContextRows_reserved :
    (([.ctxsave, .ctxsaveDrop, .ctxload, .ctxloadDrop] : List (Enc → Instr)).all fun row =>
      accepted (row (pick row)) (at_ base (2 ^ 20)) (fun s1 => pclBad (s1.my.getS 16))) = true ∧
    (([.ctxsave, .ctxload, .ctxloadDrop] : List (Enc → Instr)).all fun row =>
      accepted (row (pick row)) (withS base 24 (2 ^ 63)) (fun s1 => !pclBad (s1.my.getS 16) && ctlAreaBad (s1.my.getS 24))) = true := by
  decide +kernel

/-- A ticket request still to be answered, for a range that is not empty. -/
theorem wit_TranslationRows_waits :
    (([(.tlbinvCtx, false), (.tlbinvOwn, true)] : List ((Enc → Instr) × Bool)).all fun r =>
      [Req.ticket [] 0 ⟨.scalar, 8⟩ [], .watch 0 64 1 0 none 0 8 0].all fun q =>
      let e := pick r.1
      let s := { withS base 24 64 with threads := (15, { child with a := { Strand.zero with
        flight := some (flight .arrived (some q)) } }) :: (withS base 24 64).threads }
      accepted (r.1 e) s (fun s1 => s1.my.getS 24 == 64 && s1.translating 7 r.2 e.gs.toNat (s1.my.getS 16) (s1.my.getS 24)) &&
      accepted (r.1 e) (withS base 24 64) fun s1 => !s1.translating 7 r.2 e.gs.toNat (s1.my.getS 16) (s1.my.getS 24)) = true := by
  decide +kernel

theorem wit_TrapEntries_recordHeld :
    (let f : FaultRec := ⟨.align, 0, false, none, none, none⟩
     let s := base.updThread 7 fun th => th.setTok 0 { th.getTok 0 with fault := some f }
     s.me.recordHeld (f.tokenTrap 0) && base.me.recordHeld (TrapInfo.plain .permission) && base.me.recordHeld (TrapInfo.plain .illegal) &&
     ((s.thread 7).getTok 0).fault == some f) = true := by decide +kernel

theorem wit_PortRows_more :
    (!(podBase.port 0 3).training && ({ podBase with actor := portLink 0 3 } : State).actor == portLink 0 3 &&
     decide (base.actor < 2 ^ 20) && (!base.lentRange 0 0 8)) = true := by decide +kernel

theorem wit_StepRunsDecoded_turn :
    (base.turn 7 .strandA && !base.turn 7 .strandX) = true := by decide +kernel

/-! ### Clauses of several chunks, dies and outcomes -/

/-- An entry that the queue-fed reduction does not end with, an end of stream, and an empty queue. -/
theorem wit_VectorConvertReducePredicates_queue :
    (let e := { pick .vredQueue with imm := 2 }
     let q := e.sa.idx.toNat
     let look (s : State) (k : State → List QEntry → Bool) : Bool :=
       accepted (.vredQueue e) s fun s1 => decide (s1.my.prog.toNat < e.imm.toNat) && k s1 (s1.me.getQ q)
     look (withQ base q [QEntry.word 5]) (fun s1 l => match l with
       | en :: _ => !en.eos && decide ((s1.combineEntry e q en).my.prog.toNat < 2) | [] => false) &&
     look (withQ base q [QEntry.token]) (fun _ l => match l with | en :: _ => en.eos | [] => false) &&
     look base (fun _ l => l.isEmpty)) = true := by decide +kernel

/-- Two chunks, and a ticket whose holding slice is on another die. -/
theorem wit_TicketRows_more :
    ((arrives base (.ticket [(0, [oneLine]), (32, [oneLine])] 0 ⟨.scalar, 8⟩ [])).freeRun 0 1).isSome = true ∧
    accepted (.tdrop (pick .tdrop)) (withS podBase 16 (2 ^ 35)) (fun s1 =>
      s1.ticketForm 0 (s1.my.getS 16) && crossesLink 7 (sliceDie (ticketSlice (s1.my.getS 16)))) = true := by decide +kernel

/-- The status answers, and a fenced home. -/
theorem wit_TicketAnswers_status :
    (let t (f : Ticket → Ticket) : State := podBase.setTicket 0 (f { Ticket.zero with part := some 1, span := 1, ends := 1 })
     (t fun e => { e with state := .free, last := .redeemed }).ticketAsked 7 (genuine podBase) = .spent ∧
     (t fun e => { e with state := .free, last := .dropped }).ticketAsked 7 (genuine podBase) = .expired ∧
     (t fun e => { e with state := .filling }).ticketAsked 7 (genuine podBase) = .pending ∧
     (t fun e => { e with state := .ready }).ticketAsked 7 (genuine podBase) = .ok) := by
  refine ⟨genuine_answer _ ?_ ?_ ?_ _ ?_, genuine_answer _ ?_ ?_ ?_ _ ?_, genuine_answer _ ?_ ?_ ?_ _ ?_,
    genuine_answer _ ?_ ?_ ?_ _ ?_⟩ <;> decide +kernel

theorem wit_TicketAnswers_fenced :
    (podBase.updCluster 0 fun cl => { cl with service := .fenced }).ticketAsked 7 (2 ^ 32) = .fenced ∧
    podBase.ticketAsked 7 1 = .fails ∧
    (let r : Req := .redeemed coreVa 0 8 1 0
     let s := arrives podBase r
     (s.strand 7 .strandX).flight = some (flight .arrived (some r)) ∧
     (s.drops.find? (fun p => p.1 == s.curT && p.2.1 == s.curX)).isNone ∧
     okay (s.redeemStore 7 .strandX coreVa 0 0 (List.range 8)) (fun _ => true) = true) := by decide +kernel

/-- Fills of the slice's own die, of a page of another die that is replicated and of one that is not, and one on its way. -/
theorem wit_SharedCacheEvents_fills :
    (let f : Fill := ⟨0, 0, 5, 32, 1, 0, 0, false, none, false⟩
     base.fillKept { f with home := 0 } && !base.fillKept f &&
     ({ base with pages := [⟨1, 0, 0, 0, true, []⟩] } : State).fillKept f &&
     ((({ base with fills := [{ f with onWay := true }] } : State).fills.find? fun f => f.id == base.actor && !f.onWay).isNone)) = true := by
  decide +kernel

theorem wit_MatrixRows_multiplyFull :
    (let q : QueuedMat := ⟨0, 7, 0, .czero 0, .waiting, 0, 0, 0, [], 0, false⟩
     let s := base.updCore 0 fun c => { c with queue := List.replicate 16 q }
     (([.mma, .mring] : List (Enc → Instr)).all fun row =>
       accepted (row (pick row)) (withS (at_ s coreVa) 24 (coreVa + 0x4000)) fun s1 =>
         let m := multiplyOf (pick row) s1
         okay (operandRange m.a (64 * m.rowBytes)) fun _ => okay (operandRange m.b (64 * m.rowBytes)) fun _ => s1.matFull) &&
     (([(.cld, false), (.cst, true)] : List ((Enc → Instr) × Bool)).all fun r =>
       accepted (r.1 (pick r.1)) (withS (at_ s coreVa) 24 256) fun s1 =>
         okay (tileRows (effAddr s1 (pick r.1)) (s1.my.getS 24) r.2 (List.range 64)) fun _ => s1.matFull)) = true := by decide +kernel

/-- Arrivals that no log and no live context takes, from a strand and not, and an open log without room. -/
theorem wit_CounterRows_refused :
    ([none, some (15, Side.strandA)].all fun from_ =>
      let a : Arrival := ⟨0, 1, none, [], none, 9, from_⟩
      let s := base.updCluster 0 fun cl => { cl with run := .empty, arrivals := [a] }
      let l : State := { s with saved := [⟨0, 2 ^ 20, 0, 9, 2 ^ 16, [], [], [], [], [], [], [], [], [], [], []⟩] }
      (s.cluster s.actor).arrivals.find? (fun a => a.ctr == s.item) == some a &&
      s.steerArrival 0 a == (if from_.isSome then .refuse else .discard) &&
      l.steerArrival 0 a == .log 0 && !l.logHolds 0 0 a) = true := by decide +kernel

/-- Atomics at another die, before and after their admission, and one that is no release and one that is. -/
theorem wit_AtomicRows_far :
    (let cell := memWrite (faraway podBase).mem (physKey 0 (0x20000 + 8 * 4096))
       (leBytes 8 (leafWord 1 0xFF (32 * clusterSpan) 3 false false true).toNat)
     let m : State := { faraway podBase with mem := cell }
     let look (s : State) (k : State → Nat → Bool) : Bool :=
       let e := pick .aadd
       accepted (.aadd e) (at_ s globalVa) fun s1 =>
         okay (s1.resolve 7 (effAddr s1 e) (tyWidth false e.ty / 8) (tyWidth false e.ty / 8) e.sw.toNat .atomic false) fun p =>
         (atomicPlaceBad .add e.ty p.1).isNone && okay (p.2.touchRange 7 p.1) fun s3 => k s3 (targetDie 7 p.1)
     look m (fun s die => crossesLink s.curT die && !s.my.flight.any fun f => f.has die false) &&
     look (m.updMy fun st => { st with flight := some { flight .arrived none with granted := [(false, 1)] } })
       (fun s die => okay (s.admitReq die 0) fun _ => true) &&
     ((base.strand 7 .strandX).flight.filter (·.atomic.isSome)).isNone &&
     (((base.release 7 .strandX 6).2.strand 7 .strandX).flight.filter (·.atomic.isSome)).isNone) = true := by decide +kernel

/-- Actions that wait for the copy unit, go on their way, and are refused. -/
theorem wit_ArmRows_outcomes :
    (let a (form : ArmRec) (limit : Nat) : Action := ⟨0, form, 7, base.ctxOf 0, limit, 0, 0, .idle, [], none⟩
     let pull : ArmRec := { ArmRec.zero with act := 0, w2 := ownVa 0, w3 := coreVa, w4 := 8 }
     let far : ArmRec := { ArmRec.zero with act := 2, w2 := wordOf (4096 + 32 * 8192), w3 := 1 }
     let send : ArmRec := { ArmRec.zero with act := 4, w2 := 15, w3 := 1 }
     let run (s : State) (a : Action) (k : ActionEnd → Bool) : Bool :=
       let s := s.updCluster 0 fun cl => { cl with actions := [a] }
       nextAction (s.cycleOf 0) [] (s.cluster s.actor).actions == some a && k (s.runAction s.actor a)
     run (crowded base 64 0) (a pull 0) (fun r => match r with | .waits _ => true | _ => false) &&
     run (lit.updCluster 32 fun cl => { cl with service := .inService, run := .running, part := 1 }) (a far 0)
       (fun r => match r with | .net _ _ => true | _ => false) &&
     let full : State := { podBase with threads := [(7, person), (15, child.setQ 0 (List.replicate 4096 (QEntry.word 0)))] }
     ([0, 1].all fun limit => run full (a send limit)
       (fun r => match r with | .refused _ _ => decide ((a send limit).refusals = 0 ∧ (a send limit).limit = limit) | _ => false))) = true := by
  decide +kernel

/-- A remote `ldsync` that has come to its cluster. -/
theorem wit_FullEmptyRows_remote :
    (let r : Req := .ldsync coreKey coreVa .u64 8 0
     let s := (arrives base r).updMy fun st => { st with status := .waiting .answer }
     (s.strand 7 .strandX).flight == some (flight .arrived (some r)) && (s.strand 7 .strandX).status == .waiting .answer &&
     (s.updCluster 0 fun cl => { cl with service := .fenced }).fencedCluster (sramCluster coreKey) &&
     (s.nextStoreAt s.actor).isNone) = true := by decide +kernel

/-! ### Results of single steps, expected values calculated by hand from the rules -/

/-- The state after one instruction with A in s16, B in s24 and D in s8. -/
def after (i : Instr) (d a b : Word) (s : State := base) : State :=
  match exec i (withS (withS (withS s 8 d) 16 a) 24 b) with
  | .next t => t
  | _ => State.reset
/-- The cause word of a trap that was taken, to its strand and level (R324). -/
def trapped (s : State) : BitVec 16 := s.my.scause.extractLsb' 0 16
def D (s : State) : Word := s.my.getS 8

/-- R132, R138: results wrap or clamp to the element, and are then extended by its type. -/
theorem test_add : D (after (.add { pick .add with ty := .u8 }) 0 0xFF 1) = 0 ∧
    D (after (.add { pick .add with ty := .s8, sat := true }) 0 127 1) = 127 := by decide +kernel
theorem test_sub : D (after (.sub { pick .sub with ty := .s8 }) 0 (-128) 1) = 127 ∧
    D (after (.sub { pick .sub with ty := .u16, sat := true }) 0 1 2) = 0 := by decide +kernel
theorem test_mulh : D (after (.mulh { pick .mulh with ty := .u32 }) 0 0xFFFFFFFF 0xFFFFFFFF) = 0xFFFFFFFE ∧
    D (after (.mulh { pick .mulh with ty := .s32 }) 0 0xFFFFFFFF 2) = -1 := by decide +kernel
theorem test_mad : D (after (.mad { pick .mad with ty := .u8 }) 10 20 13) = 14 := by decide +kernel
theorem test_minmax : D (after (.min { pick .min with ty := .s8 }) 0 0x80 0x7F) = -128 ∧
    D (after (.max { pick .max with ty := .u8 }) 0 0x80 0x7F) = 0x80 := by decide +kernel
theorem test_abs : D (after (.abs { pick .abs with ty := .s16 }) 0 0x8000 0) = -32768 ∧
    D (after (.abs { pick .abs with ty := .s16, sat := true }) 0 0x8000 0) = 32767 := by decide +kernel
/-- R139: the selector's negation; R140: a piece of a constant. -/
theorem test_sel_ldp : D (after (.sel { pick .sel with imm := 0x10 }) 0 5 6) = 6 ∧
    D (after (.ldp { pick .ldp with fn := 2, imm := 0xABCD }) 0x1111222233334444 0 0) = 0xABCD222233334444 := by decide +kernel
/-- R142 to R144. -/
theorem test_shifts : D (after (.sar { pick .sar with ty := .s32 }) 0 0x80000000 33) = 0xFFFFFFFFC0000000 ∧
    D (after (.rotl { pick .rotl with ty := .u32 }) 0 0x80000001 4) = 0x18 := by decide +kernel
theorem test_counts : D (after (.clz { pick .clz with ty := .u32 }) 0 0 0) = 32 ∧
    D (after (.ctz { pick .ctz with ty := .u64 }) 0 0x100 0) = 8 := by decide +kernel
theorem test_fields : D (after (.bfx { pick .bfx with ty := .s64, imm := 4 * 64 + 4 }) 0 0xF0 0) = -1 ∧
    D (after (.bfi { pick .bfi with imm := 8 * 64 + 4 }) 0xFFFFFFFFFFFFFFFF 0x12 0) = 0xFFFFFFFFFFFFF12F := by decide +kernel
/-- R113, R137: `%fps` keeps five bits. -/
theorem test_kset : (after (.kset { pick .kset with da := ⟨.special, 9⟩, sa := ⟨.scalar, 16⟩ }) 0 0xFF 0).my.fps = 0x1F := by
  decide +kernel
/-- R133: targets count instructions of twelve bytes from the instruction; a register target must be a multiple of 4. -/
theorem test_branches : (after (.br { pick .br with imm := 0xFFFFFF }) 0 0 0).my.pc = 0x20000000000 - 12 ∧
    trapped (after (.jmp (pick .jmp)) 0 6 0) = 0x310 := by decide +kernel
theorem test_traps : trapped (after (.trap { pick .trap with imm := 5 }) 0 0 0) = 0x350 ∧
    trapped (after (.nop { pick .nop with imm := 1 }) 0 0 0) = 0x302 := by decide +kernel
/-- 1 + 1 = 2 and the largest number doubled in fp32: infinity with overflow and inexact (R113, R146). -/
theorem test_floats : D (after (.fadd { pick .fadd with ty := .fp32 }) 0 0x3F800000 0x3F800000) = 0x40000000 ∧
    D (after (.fadd { pick .fadd with ty := .fp32 }) 0 0x7F7FFFFF 0x7F7FFFFF) = 0x7F800000 := by decide +kernel
/-- R12, R189: bytes lie lowest first, and a signed element is extended. -/
theorem test_loads : (let s := { base with mem := memWrite [] coreKey [0x34, 0xF2] }
    ((after (.ld { pick .ld with ty := .s16 }) 0 coreVa 0 s).my.pend.map (·.writes)) = [[.s 8 0xFFFFFFFFFFFFF234]] ∧
    trapped (after (.ld { pick .ld with ty := .u16 }) 0 (coreVa + 1) 0 s) = 0x310) := by decide +kernel
/-- Elements of a vector do not carry into each other (R160). -/
theorem test_vadd : (let s := base.updThread 7 fun th => (th.setV 8 0xFFFF).setV 12 0x0101
    ((after (.vadd { pick .vadd with ty := .u8 }) 0 0 0 s).me.getV 4) = 0) := by decide +kernel

end Sys2Proof.Tests
end

section
/-! PROOFS. The life of a request and of its packet (R4, R354 to R356, R359, R366, R369, R370): what admission to the first link
direction answers, what each step does where the strand or packet stands as it needs it, and O43 from them. -/

namespace Sys2Proof.Machine

/-- The next state of a step depends on a condition of the model only through what the condition says. -/
theorem next_ite_congr {p q : Prop} [Decidable p] [Decidable q] (h : p ↔ q) (a b : State) :
    (Host.Outcome.next (if p then a else b) : Host.Outcome State Fault Refusal) = .next (if q then a else b) :=
  congrArg Host.Outcome.next (ite_congr (propext h) (fun _ => rfl) fun _ => rfl)

/-! ### Admission to the first link direction (R356, R366, R383) -/

section Admission

variable {s : State} {src dst cls part since : Nat} {gen : BitVec 8} {cargo : Cargo}

/-- A request that has a routing entry, where it needs one, is refused all the same: 50 ns are over (R356), no path leads to the
die (R359), or its partition has no key on the port that its packet takes first (R383). -/
def State.turnedAway (s : State) (src dst cls part since : Nat) : Prop :=
  since + grantLimit < s.elapsedOf (src / 4) ∨ s.reaches src dst cls = false ∨
  ((if src / 4 = dst / 4 then none else s.portTo (src / 4) (s.intermediate (src / 4) (dst / 4) cls)).any
    fun p => !s.keyed (portLink (src / 4) p) part) = true

theorem admitAt_of_unmapped (hd : src / 4 ≠ dst / 4) (hp : s.minPort (src / 4) (dst / 4) = none) :
    s.admitAt src dst cls part since gen cargo = .unmapped := by
  unfold State.admitAt
  exact if_pos ⟨hd, by simp [hp]⟩

/-- Admission of a request within its device, or to a device that has a routing entry. -/
theorem admitAt_of_mapped (hm : src / 4 = dst / 4 ∨ s.minPort (src / 4) (dst / 4) ≠ none) :
    (s.turnedAway src dst cls part since → s.admitAt src dst cls part since gen cargo = .refused) ∧
    (¬s.turnedAway src dst cls part since →
      (s.canGrant (outLink src) cls (cargo.flits cls) = false → s.admitAt src dst cls part since gen cargo = .waits) ∧
      ∀ l c, s.canGrant (outLink src) cls (cargo.flits cls) = true →
        (s.form src dst cls part gen cargo).2.legFrom src (s.form src dst cls part gen cargo).1 = some (l, c) →
        s.admitAt src dst cls part since gen cargo = .granted (s.form src dst cls part gen cargo).1.id
          ((s.form src dst cls part gen cargo).2.enterLink (s.form src dst cls part gen cargo).1 l c)) := by
  have hu : ¬(src / 4 ≠ dst / 4 ∧ (s.minPort (src / 4) (dst / 4)).isNone = true) := by
    rintro ⟨hd, hn⟩
    exact hm.elim hd fun h => h (Option.isNone_iff_eq_none.mp hn)
  unfold State.admitAt
  refine ⟨fun ht => ?_, fun ht => ⟨fun hg => ?_, fun l c hg hl => ?_⟩⟩
  · rw [if_neg hu, if_pos (by simpa [State.turnedAway, or_assoc] using ht)]
  · rw [if_neg hu, if_neg (by simpa [State.turnedAway, or_assoc] using ht), if_neg (by simp [hg])]
  · rw [if_neg hu, if_neg (by simpa [State.turnedAway, or_assoc] using ht), if_pos hg]
    dsimp only
    rw [hl]

end Admission

/-- The state after a strand's request has met an answer at its first link direction. -/
def State.afterAdmit (s : State) (t : Nat) (x : Side) (f : Flight) : Admit → State
  | .granted n s' => s'.admitted t x f n
  | .waits => s
  | .refused => s.setPhase t x .refused
  | .unmapped => s.unreachable t x f

section Strand

variable {s : State} {f : Flight} {n : Nat}

theorem exec_linkAdmission_atLink (hf : (s.strand s.curT s.curX).flight = some f) (hp : f.phase = .atLink n) :
    exec .linkAdmission s = .next (s.afterAdmit s.curT s.curX f
      (s.admitAt (dieOf s.curT) f.die f.cls (s.partOf s.curT) n f.gen (f.cargo s.curT s.curX))) := by
  show execLinkAdmission s = _
  simp only [execLinkAdmission, hf, hp]
  rfl

theorem exec_permitGrantTimeout_atLink (hf : (s.strand s.curT s.curX).flight = some f) (hp : f.phase = .atLink n) :
    exec .permitGrantTimeout s = .next
      (if n + grantLimit ≤ s.elapsedOf (deviceOf s.curT) then s.setPhase s.curT s.curX .refused else s) := by
  show execPermitGrantTimeout s = _
  simp only [execPermitGrantTimeout, hf, hp]

theorem exec_admission_of_no_flight (hf : (s.strand s.curT s.curX).flight = none) :
    ∀ i ∈ [Instr.linkAdmission, .permitGrantTimeout], exec i s = .next s := by
  simp only [List.forall_mem_cons, List.not_mem_nil, false_implies, implies_true, and_true]
  constructor
  · show execLinkAdmission s = _
    simp only [execLinkAdmission, hf]
  · show execPermitGrantTimeout s = _
    simp only [execPermitGrantTimeout, hf]

end Strand

/-! ### On the way: forwarding and delivery (R355, R359, R366, R369) -/

section Forward

variable {s : State} {p : Packet} {n chk l : Nat}

theorem exec_packetForward_at_source (h : s.packet n = some p) (hc : p.copy = .moving) (he : p.atEnd = false)
    (hl : p.link = none) : exec (.packetForward n chk) s = .next (s.hop { p with sent := s.cycleOf (p.src / 4) }) := by
  show execPacketForward n chk s = _
  simp only [execPacketForward, h, if_pos (And.intro hc he)]
  rw [hl]

theorem exec_packetForward_on_link (h : s.packet n = some p) (hc : p.copy = .moving) (he : p.atEnd = false)
    (hl : p.link = some l) : exec (.packetForward n chk) s = .next (s.forwardPacket p l chk) := by
  show execPacketForward n chk s = _
  simp only [execPacketForward, h, if_pos (And.intro hc he)]
  rw [hl]

theorem forwardPacket_down (hx : s.crosses l = false) : s.forwardPacket p l chk = s := by
  simp [State.forwardPacket, hx]

theorem forwardPacket_unfit (hx : s.crosses l = true) (hb : p.bad = true ∨ s.keyTaken l p.part p.key = false) :
    s.forwardPacket p l chk = s.loseCopy p l .noticed := by
  unfold State.forwardPacket
  rw [if_neg (by simp [hx]), if_pos (by simpa using hb)]

/-- A packet without end marker 2 and under a key that is taken: its fate is its check's. -/
theorem forwardPacket_fit (hx : s.crosses l = true) (hb : p.bad = false) (hk : s.keyTaken l p.part p.key = true) :
    s.forwardPacket p l 0 = s.hop p ∧ s.forwardPacket p l 1 = s.loseCopy p l .noticed ∧
    s.forwardPacket p l 2 = s.loseCopy p l .lost ∧
    ∀ m c, 3 ≤ chk → s.nextLeg p = some (m, c) → s.takes m p.cls p.flits p.part = true →
      s.forwardPacket p l chk = (s.countDrop l).enterLink { p with via := s.passes p, bad := true } m c := by
  have hc : ¬(!s.crosses l) = true := by simp [hx]
  have hu : ¬(p.bad || !s.keyTaken l p.part p.key) = true := by simp [hb, hk]
  unfold State.forwardPacket
  simp only [if_neg hc, if_neg hu, true_and]
  intro m c h3 hn ht
  obtain ⟨k, rfl⟩ := Nat.exists_eq_add_of_le' h3
  simp only [hn, if_pos ht]

theorem hop_of_nextLeg {m : Nat} {c : Option Nat} (hn : s.nextLeg p = some (m, c)) :
    (s.takes m p.cls p.flits p.part = true → s.hop p = s.enterLink { p with via := s.passes p } m c) ∧
    (s.takes m p.cls p.flits p.part = false → s.hop p = s) := by
  unfold State.hop
  rw [hn]
  exact ⟨fun h => if_pos h, fun h => if_neg (by simp [h])⟩

theorem hop_of_no_leg (hn : s.nextLeg p = none) : s.hop p = s := by
  unfold State.hop
  rw [hn]

end Forward

section Delivery

variable {s : State} {p : Packet} {n : Nat}

/-- The packet's copy has been accepted at its destination. -/
def State.acceptCopy (s : State) (p : Packet) : State :=
  (s.leaveLink p).setPacket { p with copy := .accepted, taken := true, link := none }

/-- What the end of its last link does with a packet, in the order of the checks. -/
theorem exec_packetDelivery_atEnd (ok : Bool) (h : s.packet n = some p) (hc : p.copy = .moving) (he : p.atEnd = true) :
    exec (.packetDelivery n ok) s = .next (
      if !ok || p.bad then s.loseCopy p (inLink p.dst) .noticed
      else if !p.taken && inOrder p.cls && s.earlier p then s
      else if p.taken then s.acceptCopy p else (s.acceptCopy p).consume p) := by
  show execPacketDelivery n ok s = _
  simp only [execPacketDelivery, h, if_pos (And.intro hc he)]
  rfl

end Delivery

/-! ### Answers and acknowledgements (R354, R370) -/

theorem reply_within_die {t die : Nat} (s : State) (x : Side) (r : Reply) (h : crossesLink t die = false) :
    s.reply t x die r = s.applyReply t x r := by
  simp [State.reply, h]

theorem reply_across_dies {t die : Nat} (s : State) (x : Side) (r : Reply) (h : crossesLink t die = true) :
    s.reply t x die r = (s.post die (dieOf t) 1 (s.partOf t) (.reply t x r)).2.updStrand t x fun st => { st with
      status := .waiting .answer
      flight := st.flight.map fun f => { f with
        phase := .answering (s.post die (dieOf t) 1 (s.partOf t) (.reply t x r)).1
        since := if st.status = .waiting .answer then f.since else s.now t } } := by
  unfold State.reply
  rw [if_neg (by simp [h])]

section Source

variable {s : State} {p : Packet}

theorem exec_packetAck_of_packet (h : s.packet s.actor = some p) :
    exec .packetAck s = .next (if p.copy = .accepted then s.dropPacket s.actor else s) := by
  show execPacketAck s = _
  simp only [execPacketAck, h]

theorem exec_dropNotice_of_packet (h : s.packet s.actor = some p) :
    exec .dropNotice s = .next (if p.copy = .noticed then s.resend p else s) := by
  show execDropNotice s = _
  simp only [execDropNotice, h]

theorem exec_packetRetransmitTimeout_of_packet (h : s.packet s.actor = some p) :
    exec .packetRetransmitTimeout s = .next (
      if p.sent + 8000 ≤ s.cycleOf (p.src / 4) ∧ ¬(p.copy = .moving ∧ p.link = none) then s.resend p else s) := by
  show execPacketRetransmitTimeout s = _
  simp only [execPacketRetransmitTimeout, h]
  exact next_ite_congr (by
    simp only [Bool.not_eq_true', ← Bool.not_eq_true, Bool.and_eq_true, beq_iff_eq, Option.isNone_iff_eq_none]) _ _

theorem exec_source_of_no_packet (h : s.packet s.actor = none) :
    ∀ i ∈ [Instr.packetAck, .dropNotice, .packetRetransmitTimeout], exec i s = .next s := by
  simp only [List.forall_mem_cons, List.not_mem_nil, false_implies, implies_true, and_true]
  refine ⟨?_, ?_, ?_⟩
  · show execPacketAck s = _
    simp only [execPacketAck, h]
  · show execDropNotice s = _
    simp only [execDropNotice, h]
  · show execPacketRetransmitTimeout s = _
    simp only [execPacketRetransmitTimeout, h]

end Source

/-! ### No answer in time (R370) -/

section AnswerTimeout

variable {s : State} {f : Flight}

theorem exec_requestAnswerTimeout_of_flight (hf : (s.strand s.curT s.curX).flight = some f)
    (hl : (s.strand s.curT s.curX).pend.filter (s.lateOp s.curT) = []) :
    exec .requestAnswerTimeout s = .next (
      if (s.strand s.curT s.curX).awaits f = true ∧ crossesLink s.curT f.die = true ∧
        f.since + 8 * max f.bound (s.boundNow s.curT f) ≤ s.now s.curT then
        (((s.forgetReply s.curT s.curX).dropAllocated f.req).report (deviceOf s.curT)).raise s.curT s.curX
          (TrapInfo.plain .homeFenced) else s) := by
  show execRequestAnswerTimeout s = _
  simp only [execRequestAnswerTimeout, hf, hl, List.foldl_nil]
  exact next_ite_congr (by simp [State.overdue, and_assoc]) _ _

/-- Without a request of its own only the strand's long operations can be overdue. -/
theorem exec_requestAnswerTimeout_of_no_flight (hf : (s.strand s.curT s.curX).flight = none) :
    exec .requestAnswerTimeout s = .next (((s.strand s.curT s.curX).pend.filter (s.lateOp s.curT)).foldl
      (fun r o => (r.fenceOp s.curT s.curX o).report (deviceOf s.curT)) s) := by
  show execRequestAnswerTimeout s = _
  simp only [execRequestAnswerTimeout, hf]

end AnswerTimeout

/-- Settles O43: admission by the four answers of the first link direction, forwarding and delivery by the checks in their order,
and the rest by the state of the packet or of the strand's request. -/
theorem packetRows : Obligations.PacketRows := by
  unfold Obligations.PacketRows
  refine ⟨?admission, fun s f n => exec_permitGrantTimeout_atLink, ?forward, ?hop, ?delivery,
    fun s t x die r => ⟨reply_within_die s x r, reply_across_dies s x r⟩, fun s p => exec_packetAck_of_packet,
    fun s p => exec_dropNotice_of_packet, fun s p => exec_packetRetransmitTimeout_of_packet,
    fun s f => exec_requestAnswerTimeout_of_flight, ?lateOne, ?lateNone,
    fun i hi s hf => exec_admission_of_no_flight hf i hi, fun i hi s h => exec_source_of_no_packet h i hi⟩
  case admission =>
    intro s f n hf hp
    dsimp only
    rw [exec_linkAdmission_atLink hf hp]
    refine ⟨fun hd hn => ?_, fun hm ht => ?_, fun hm ht hg => ?_, fun l c hm ht hg hl => ?_⟩
    · rw [admitAt_of_unmapped hd hn]
      rfl
    · rw [(admitAt_of_mapped hm).1 ht]
      rfl
    · rw [((admitAt_of_mapped hm).2 ht).1 hg]
      rfl
    · rw [((admitAt_of_mapped hm).2 ht).2 l c hg hl]
      rfl
  case forward =>
    intro n chk s p h hc he
    refine ⟨exec_packetForward_at_source h hc he, fun l hl => ?_⟩
    rw [exec_packetForward_on_link h hc he hl]
    refine ⟨fun hx => by rw [forwardPacket_down hx], fun hx hb => by rw [forwardPacket_unfit hx hb], fun hx hb hk => ?_⟩
    obtain ⟨whole, noticed, lost, stomped⟩ := forwardPacket_fit (chk := chk) hx hb hk
    refine ⟨?_, ?_, ?_, fun m c h3 hn ht => by rw [stomped m c h3 hn ht]⟩ <;> rintro rfl
    · rw [whole]
    · rw [noticed]
    · rw [lost]
  case hop =>
    exact fun s p => ⟨fun l c hn => (hop_of_nextLeg hn).1, fun l c hn => (hop_of_nextLeg hn).2, hop_of_no_leg⟩
  case delivery =>
    intro n ok s p h hc he
    dsimp only
    rw [exec_packetDelivery_atEnd ok h hc he]
    refine ⟨fun hb => ?_, fun hok hb ht => ?_, fun hok hb ht ho hq => ?_, fun hok hb ht ho => ?_⟩
    · rw [if_pos (by simpa using hb)]
    · rw [if_neg (by simp [hok, hb]), if_neg (by simp [ht]), if_pos ht]
      rfl
    · rw [if_neg (by simp [hok, hb]), if_pos (by simp [ht, ho, hq])]
    · rw [if_neg (by simp [hok, hb]), if_neg (by rcases ho with h | h <;> simp [h]), if_neg (by simp [ht])]
      rfl
  case lateOne =>
    intro s o hf ho
    rw [exec_requestAnswerTimeout_of_no_flight hf, ho]
    rfl
  case lateNone =>
    intro s hf ho
    rw [exec_requestAnswerTimeout_of_no_flight hf, ho]
    rfl

end Sys2Proof.Machine
end

section
/-! PROOFS. Errors, fencing, clock, temperature, reset and bring-up (R7, R17, R361 to R363, R384, R385, R393 to R395): what each
service event does, and O49 from them. -/

namespace Sys2Proof.Machine

/-! ### Errors and fencing (R17, R384, R385) -/

section Errors

variable {s : State}

theorem exec_uncorrectableError_memory (h : s.item = 0) :
    exec .uncorrectableError s = .next (if isSram s.actor then s.setPoison s.actor
      else (List.range 8).foldl (fun r i => r.setPoison (s.actor / 64 * 64 + 8 * i)) s) := by
  show execUncorrectableError s = _
  simp only [execUncorrectableError, h]

theorem exec_uncorrectableError_contribution (h : s.item = 1) :
    exec .uncorrectableError s = .next (
      if isSram s.actor && sramUnit s.actor == 8 then s.takeOut (sramCluster s.actor) else s) := by
  show execUncorrectableError s = _
  simp only [execUncorrectableError, h]

theorem exec_uncorrectableError_l1 {k : Nat} (h : s.item = k + 2) :
    exec .uncorrectableError s = .next
      { s with l1 := s.l1.map fun l => if l.core = k ∧ l.line = s.actor / 64 then { l with psn := true } else l } := by
  show execUncorrectableError s = _
  simp only [execUncorrectableError, h]

theorem exec_clusterFence_cluster (h : s.item ≠ 1) : exec .clusterFence s = .next (s.fenceCluster s.actor) := by
  show execClusterFence s = _
  simp only [execClusterFence, if_neg h]

theorem exec_clusterFence_die (h : s.item = 1) :
    exec .clusterFence s =
      .next (((List.range 32).map (s.actor / 32 * 32 + ·)).foldl (fun s c => s.fenceCluster c) s) := by
  show execClusterFence s = _
  simp only [execClusterFence, if_pos h]

end Errors

/-! ### Reset (R7, R363, R393) -/

section Reset

@[simp] theorem State.setPacket_devices (s : State) (p : Packet) : (s.setPacket p).devices = s.devices := rfl

@[simp] theorem State.quitLink_devices (s : State) (p : Packet) : (s.quitLink p).devices = s.devices := by
  unfold State.quitLink
  split <;> rfl

/-- The packets of a device go without a change of any device's own state. -/
@[simp] theorem State.wipePackets_devices (s : State) (d : Nat) : (s.wipePackets d).devices = s.devices :=
  List.foldlRecOn (motive := fun t : State => t.devices = s.devices) _ _ rfl fun t ht p _ => by simpa using ht

theorem State.wipe_devices (s : State) (d : Nat) (dv : Device) : (s.wipe d dv).devices = tset s.devices d dv := by
  simp [State.wipe]

theorem State.wipe_device_self (s : State) (d : Nat) (dv : Device) : (s.wipe d dv).device d = dv := by
  simp [State.device, State.wipe_devices]

theorem State.wipe_device_ne (s : State) {d e : Nat} (dv : Device) (h : e ≠ d) :
    (s.wipe d dv).device e = s.device e := by
  simp [State.device, State.wipe_devices, tget_tset_ne _ _ h]

/-- A device that is number 0, or stands beside a device of that number, keeps its number outside a pod. -/
theorem State.outsidePod_in_place {s : State} {d : Nat} (h : d = 0 ∨ (tget s.devices 0).isSome = true) :
    s.outsidePod d = s.updDevice d fun dv => { dv with members := [d] } := by
  unfold State.outsidePod
  refine if_neg ?_
  rintro ⟨hd, hn⟩
  rcases h with h | h
  · exact hd h
  · rw [Option.isNone_iff_eq_none.mp hn] at h
    cases h

end Reset

/-! ### Bring-up and membership of a pod (R361 to R363, R393) -/

theorem exec_bringupStageTimeout (s : State) :
    exec .bringupStageTimeout s = .next (
      if (s.device s.actor).stopped = false ∧ 1 ≤ (s.device s.actor).stage ∧ (s.device s.actor).stage < 8 ∧
        (s.device s.actor).since + stageLimit (s.device s.actor).stage * timeScale ≤ (s.device s.actor).elapsed then
        s.failStage s.actor else s) := by
  show execBringupStageTimeout s = _
  dsimp only [execBringupStageTimeout]
  exact next_ite_congr (by simp [and_assoc]) _ _

section Membership

variable {s : State} {d num q time : Nat} {members : List Nat}

/-- A device takes a membership whose prime and numbers are a pod's (R363), while its bring-up has not stopped. -/
def Device.takesMembership (dv : Device) (num q : Nat) (members : List Nat) : Prop :=
  q ∈ podPrimes ∧ num ∈ members ∧ (∀ e ∈ members, e < 2 * q * q) ∧ dv.stopped = false

/-- The device with what the pod manager sets at stage 6. -/
def State.joined (s : State) (d num q : Nat) (members : List Nat) (time : Nat) : Device :=
  { s.device d with members := members, podQ := q, timeUnits := s.podTime d num q members time }

theorem refusesMembership_eq_false_iff (dv : Device) :
    (!podPrimes.contains q || !members.contains num || members.any (fun e => decide (e ≥ 2 * q * q)) || dv.stopped) = false ↔
      dv.takesMembership num q members := by
  simp only [Device.takesMembership, Bool.or_eq_false_iff, Bool.not_eq_false', List.contains_iff_mem, List.any_eq_false,
    decide_eq_true_eq, ge_iff_le, Nat.not_le, and_assoc]

theorem exec_podMembershipSet_bad (h : ¬(s.device d).takesMembership num q members) :
    exec (.podMembershipSet d num q members time) s = .next s := by
  show execPodMembershipSet d num q members time s = _
  simp only [execPodMembershipSet, if_pos (Bool.of_not_eq_false (mt (refusesMembership_eq_false_iff _).mp h))]

theorem exec_podMembershipSet_good (h : (s.device d).takesMembership num q members) :
    exec (.podMembershipSet d num q members time) s = .next (
      if (s.device d).stage = 6 then
        if num = d then s.setDevice d (s.joined d num q members time)
        else if (tget s.devices num).isSome || s.threads.any (fun p => deviceOf p.1 == d) then s
        else (s.setDevice d (s.joined d num q members time)).renumber d num
      else if (s.device d).stage > 6 ∧ num = d ∧ q = (s.device d).podQ then
        s.setDevice d { s.device d with nextMembers := some members }
      else s) := by
  show execPodMembershipSet d num q members time s = _
  simp only [execPodMembershipSet, if_neg (ne_true_of_eq_false ((refusesMembership_eq_false_iff _).mpr h))]
  rfl

/-- Before stage 6, and later with another number or prime, a membership changes nothing. -/
theorem exec_podMembershipSet_untimely
    (h : (s.device d).stage < 6 ∨ (6 < (s.device d).stage ∧ (num ≠ d ∨ q ≠ (s.device d).podQ))) :
    exec (.podMembershipSet d num q members time) s = .next s := by
  by_cases hg : (s.device d).takesMembership num q members
  · rw [exec_podMembershipSet_good hg, if_neg (by omega), if_neg (by omega)]
  · exact exec_podMembershipSet_bad hg

end Membership

/-- Settles O49: the events of errors, clock and temperature by their definitions, the reset by what wiping a device leaves of
the table of devices, and the membership by its stage. -/
theorem serviceEvents : Obligations.ServiceEvents := by
  unfold Obligations.ServiceEvents
  refine ⟨fun d blk s => rfl, fun s h0 hs => ?sramWord, fun s h0 hs => ?hbmLine, fun s => exec_uncorrectableError_contribution,
    fun s k => exec_uncorrectableError_l1, fun s c => rfl, fun s => exec_clusterFence_cluster, fun s => exec_clusterFence_die,
    fun d watts s => rfl, fun d dieC hbmC s => rfl, fun d dieC s h => ?shutdown, fun d dieC s h => ?cool, fun s => ?reset,
    exec_bringupStageTimeout, fun d num q members time s => ?membership⟩
  case sramWord => rw [exec_uncorrectableError_memory h0, if_pos hs]
  case hbmLine => rw [exec_uncorrectableError_memory h0, if_neg (by simp [hs])]
  case shutdown => exact congrArg Host.Outcome.next (if_pos h)
  case cool => exact congrArg Host.Outcome.next (if_neg (Nat.not_le.mpr h))
  case reset =>
    refine ⟨rfl, ?_, ?_, fun e he => State.wipe_device_ne s _ he, State.outsidePod_in_place⟩
    · rw [State.wipe_device_self]
      rfl
    · rw [State.wipe_device_self]
      rfl
  case membership =>
    refine ⟨exec_podMembershipSet_bad, fun hg h6 hn => ?_, fun hg h6 hn hf ht => ?_, fun hg h6 hn hx => ?_,
      fun hg h6 hn hq => ?_, exec_podMembershipSet_untimely⟩
    · rw [exec_podMembershipSet_good hg, if_pos h6, if_pos hn]
      rfl
    · rw [exec_podMembershipSet_good hg, if_pos h6, if_neg hn, if_neg (by simp [hf, ht])]
      rfl
    · rw [exec_podMembershipSet_good hg, if_pos h6, if_neg hn,
        if_pos (by simpa [Option.isSome_iff_ne_none] using hx)]
    · rw [exec_podMembershipSet_good hg, if_neg (by omega), if_pos ⟨h6, hn, hq⟩]

end Sys2Proof.Machine
end

section
/-! PROOFS. The mailbox's commands, retraining, firmware and loading (R101, R380, R386 to R392): what each row of the management
unit does where its condition holds, and O46 from them. -/

namespace Sys2Proof.Machine

/-! ### A command and its doorbell (R391) -/

section Command

variable {s : State}

theorem State.command_of_commanded {d code : Nat} (f : State → State) (h : s.commanded d code = true) :
    s.command d code f = .next (f s) :=
  congrArg Host.Outcome.next (if_pos h)

theorem State.command_of_uncommanded {d code : Nat} (f : State → State) (h : s.commanded d code = false) :
    s.command d code f = .next s :=
  congrArg Host.Outcome.next (if_neg (ne_true_of_eq_false h))

/-- The rows that do nothing but what the mailbox's command asks, each with its code and its effect on the device. -/
def commandRows : List (Instr × Nat × (State → Nat → State)) :=
  [(.partcreate, 0x01, fun s d => s.partcreate d), (.partdestroy, 0x02, fun s d => s.partdestroy d),
   (.rekey, 0x03, fun s d => s.rekey d), (.drain, 0x20, fun s d => s.drainCluster d),
   (.chretire, 0x23, fun s d => s.chretire d), (.retrain, 0x24, fun s d => s.retrain d)]

theorem exec_commandRow (s : State) :
    ∀ r ∈ commandRows, exec r.1 s = s.command s.actor r.2.1 fun s' => r.2.2 s' s.actor := by
  simp only [commandRows, List.forall_mem_cons, List.not_mem_nil, false_implies, implies_true, and_true]
  exact ⟨rfl, rfl, rfl, rfl, rfl, rfl⟩

/-- The other rows of the mailbox, too, wait for their command. -/
theorem exec_of_uncommanded :
    ∀ r ∈ [(Instr.online, 0x21), (.resetCluster, 0x22), (.fwupdate, 0x30)],
      s.commanded s.actor r.2 = false → exec r.1 s = .next s := by
  simp only [List.forall_mem_cons, List.not_mem_nil, false_implies, implies_true, and_true]
  refine ⟨fun h => ?_, fun h => ?_, fun h => ?_⟩
  · show execOnline s = _
    rw [execOnline, State.command_of_uncommanded _ h]
  · show execResetCluster s = _
    rw [execResetCluster, State.command_of_uncommanded _ h]
  · show execFwupdate s = _
    rw [execFwupdate, State.command_of_uncommanded _ h]

end Command

/-! ### Clusters and firmware images that a command names (R385, R386, R389) -/

section Clusters

variable {s : State} {c : Nat}

theorem exec_online_of_offline (h : s.commanded s.actor 0x21 = true) (hc : s.reqCluster s.actor = some c)
    (ho : (s.cluster c).service = .offline) :
    exec .online s =
      .next ((s.updCluster c fun cl => { cl with service := .inService, run := .empty }).answer s.actor 0 []) := by
  show execOnline s = _
  simp only [execOnline, State.command_of_commanded _ h, hc, if_pos ho]

/-- A partition's record once cluster `c` is no longer lent. -/
def Partition.unlend (p : Partition) (c : Nat) : Partition := { p with lent := p.lent &&& ~~~(1#128 <<< (c % 128)) }

/-- The cluster that a RESET names is lent to the host. -/
def State.reqLent (s : State) (c : Nat) : Bool := (s.reqPartition s.actor).any fun p => p.lent.getLsbD (c % 128)

theorem exec_resetCluster_of_resettable (h : s.commanded s.actor 0x22 = true) (hc : s.reqCluster s.actor = some c)
    (hr : s.fencedCluster c = true ∨ (s.userThreads c).isEmpty = true) :
    exec .resetCluster s = .next (
      if s.reqLent c && (s.reqPartition s.actor).any Partition.locked then s.answer s.actor 2 []
      else ({ s.resetCluster c with
        partitions := (s.resetCluster c).partitions.map fun p =>
          if p.1 = (s.device s.actor).reqPart ∧ s.reqLent c then (p.1, p.2.unlend c) else p } : State).answer s.actor 0 []) := by
  have hr' : (s.fencedCluster c || (s.userThreads c).isEmpty) = true := by simpa using hr
  show execResetCluster s = _
  simp only [execResetCluster, State.command_of_commanded _ h, hc, if_pos hr']
  rfl

theorem exec_fwupdate_of_block (h : s.commanded s.actor 0x30 = true)
    (hb : blockOk ((s.device s.actor).req 1).toNat = true) :
    let dv := s.device s.actor
    let len := (dv.req 3).toNat
    let bytes := s.physRead s.actor (dv.req 2).toNat len
    let r := s.stage s.actor (dv.req 1).toNat (bytes.take (len - 64)) (bytes.drop (len - 64))
    exec .fwupdate s = .next (r.2.answer s.actor r.1 []) := by
  show execFwupdate s = _
  simp only [execFwupdate, State.command_of_commanded _ h, hb, Bool.not_true, Bool.false_eq_true, if_false]

end Clusters

/-! ### Activation and retraining windows (R388, R389) -/

section Windows

variable {s : State} {d blk die ch v : Nat} {g : BitVec 256} {r : Retrain}

theorem exec_firmwareActivate_of_staged (h : (s.fwBlock d blk).staged = some (v, g)) :
    exec (.firmwareActivate d blk) s = .next (
      if s.quiescent d blk then s.setFwBlock d blk { s.fwBlock d blk with version := v, digest := g, staged := none }
      else s) := by
  show execFirmwareActivate d blk s = _
  simp only [execFirmwareActivate, h]

theorem exec_retrainWindowEnd_of_window (h : tget (s.device (die / 4)).retrain (die % 4 * 192 + ch) = some r) :
    exec (.retrainWindowEnd die ch) s = .next (if r.open_ then s.setWindow die ch ⟨false, r.since⟩ else s) := by
  show execRetrainWindowEnd die ch s = _
  simp only [execRetrainWindowEnd, h]

theorem exec_retrainWindowStart_of_window (h : tget (s.device (die / 4)).retrain (die % 4 * 192 + ch) = some r) :
    exec (.retrainWindowStart die ch) s = .next (
      if !r.isOpen (s.device (die / 4)) && r.ready (s.device (die / 4)) then
        s.setWindow die ch ⟨true, (s.device (die / 4)).elapsed⟩ else s) := by
  show execRetrainWindowStart die ch s = _
  simp only [execRetrainWindowStart, h]

end Windows

/-! ### LOAD (R101, R392) -/

section Load

variable {s : State}

theorem exec_loadImage_of_loading {l : Loading} (h : (s.device s.actor).loading = some l) :
    exec .loadImage s = .next (s.continueLoad s.actor l) := by
  show execLoadImage s = _
  simp only [execLoadImage, h]

theorem exec_loadImage_of_idle (h : (s.device s.actor).loading = none) (hb : (s.device s.actor).doorbell = false) :
    exec .loadImage s = .next s := by
  show execLoadImage s = _
  simp only [execLoadImage, h, hb, Bool.false_eq_true, false_and, if_false]

/-- The image that LOAD's request names. -/
def State.reqImage (s : State) : Image :=
  ⟨s.physRead s.actor ((s.device s.actor).req 1).toNat ((s.device s.actor).req 2).toNat⟩

/-- The clusters of the load set that LOAD's request names. -/
def State.reqLoadSet (s : State) : List Nat :=
  (s.physRead s.actor ((s.device s.actor).req 3).toNat ((s.device s.actor).req 4).toNat).map fun b => s.actor * 128 + b.toNat

/-- LOAD's arguments pass the checks before the image's own: a load set of 1 to 128 clusters, and image, load set and result
buffer in the partition's HBM. -/
structure Partition.acceptsLoad (p : Partition) (dv : Device) (d : Nat) (f : Image) : Prop where
  device : p.device = d
  nonempty : (dv.req 4).toNat ≠ 0
  atMost : (dv.req 4).toNat ≤ 128
  image : p.covers (dv.req 1).toNat (dv.req 2).toNat = true
  set : p.covers (dv.req 3).toNat (dv.req 4).toNat = true
  result : p.covers (dv.req 5).toNat 8 = true
  results : p.covers (dv.req 5).toNat (8 * f.count 6) = true

theorem exec_loadImage_of_accepted {p : Partition} (hl : (s.device s.actor).loading = none)
    (hb : (s.device s.actor).doorbell = true) (hc : ((s.device s.actor).req 0).extractLsb' 0 8 = 0x10)
    (hp : tget s.partitions (s.device s.actor).reqPart = some p)
    (ha : p.acceptsLoad (s.device s.actor) s.actor s.reqImage) :
    exec .loadImage s =
      .next (s.startLoad s.actor p s.reqImage s.reqLoadSet ((s.device s.actor).req 5).toNat) := by
  obtain ⟨hdev, hne, hmost, himage, hset, hresult, hresults⟩ := ha
  show execLoadImage s = _
  simp only [execLoadImage, hl, if_pos (And.intro hb hc), hp]
  rw [if_neg (by simp [hdev, hne, Nat.not_lt.mpr hmost, himage, hset, hresult]),
    if_neg (by simpa [State.reqImage] using hresults)]
  rfl

end Load

/-- Settles O46: each command by its doorbell, RESET by what becomes of the lending, and LOAD by the checks of its arguments. -/
theorem managementCommands : Obligations.ManagementCommands := by
  unfold Obligations.ManagementCommands
  refine ⟨fun i code f hi s => ?command, fun i code hi s => exec_of_uncommanded (i, code) hi, fun s => exec_loadImage_of_idle,
    fun s c => exec_online_of_offline, fun s c h hc hr => ?reset, fun s => exec_fwupdate_of_block, fun d blk image sig s => rfl,
    fun d blk s v g h hq => ?activate, fun die ch s r h ho => ?windowEnd, fun die ch s r h ho hr => ?windowStart,
    fun s l => exec_loadImage_of_loading, fun s p hl hb => ?load⟩
  case command =>
    rw [exec_commandRow s (i, code, f) hi]
    exact ⟨State.command_of_commanded _, State.command_of_uncommanded _⟩
  case reset =>
    dsimp only
    rw [exec_resetCluster_of_resettable h hc hr]
    refine ⟨fun hlent hlocked => ?_, fun hlent hlocked => ?_, fun hlent => ?_⟩
    · simp [State.reqLent, hlent, hlocked]
    · simp [State.reqLent, hlent, hlocked, Partition.unlend]
    · simp [State.reqLent, hlent]
  case activate => rw [exec_firmwareActivate_of_staged h, if_pos hq]
  case windowEnd => rw [exec_retrainWindowEnd_of_window h, if_pos ho]
  case windowStart => rw [exec_retrainWindowStart_of_window h, if_pos (by simp [ho, hr])]
  case load =>
    intro dv hc hp hdev n pa len f hne hmost himage hset hresult hresults
    exact exec_loadImage_of_accepted hl hb hc hp ⟨hdev, hne, hmost, himage, hset, hresult, hresults⟩

end Sys2Proof.Machine
end

section
/-! PROOFS. The scalar and control rows (R131 to R150): each row is one call of a shared body, whose result is stated once, and
O1 to O7 from them. -/

namespace Sys2Proof.Machine

/-! ### Rows of one shared body -/

section SharedBodies

variable {row : Enc → Instr} {D : Enc → Desc}

/-- A row that is the shared scalar body over `f` has the results of `f`. -/
theorem scalarResult_of_exec {long : Bool} {f : Enc → Strand → Word → Word → Word × List RegWrite}
    (hx : ∀ e s, exec (row e) s = issue (D e) e s fun s1 => scalarOp long e (f e s1.my) s1)
    (hd : ∀ e acc, describe acc (row e) = some (e, D e)) : ScalarResult row long f := by
  intro e s s1 s2 a b ws h hroom hread
  rw [hx]
  exact issue_accept_ok (hd e _) h (scalarOp_ok long e (f e s1.my) s1 s2 a b ws hroom hread)

theorem ScalarResult.congr {long : Bool} {f g : Enc → Strand → Word → Word → Word × List RegWrite}
    (h : ScalarResult row long f) (hfg : ∀ e st a b, f e st a b = g e st a b) : ScalarResult row long g := by
  obtain rfl : f = g := funext fun e => funext fun st => funext fun a => funext fun b => hfg e st a b
  exact h

/-- A row that is the shared comparison body over `f` has the relations of `f`. -/
theorem compareResult_of_exec {f : Enc → Word → Word → Bool × BitVec 5}
    (hx : ∀ e s, exec (row e) s = issue (D e) e s (compareOp e (f e)))
    (hd : ∀ e acc, describe acc (row e) = some (e, D e)) : CompareResult row f := by
  intro e s s1 s2 a b ws h hread
  rw [hx]
  refine issue_accept_ok (hd e _) h ?_
  simp only [compareOp, hread]

/-- A row whose body retires at once has the writes that it retires with. -/
theorem writesResult_of_exec {long : Bool} {f : Enc → State → List RegWrite}
    (hx : ∀ e s, exec (row e) s = issue (D e) e s fun s1 => .ok (s1.retire e.la long (f e s1)))
    (hd : ∀ e acc, describe acc (row e) = some (e, D e)) : WritesResult row long f := by
  intro e s s1 h
  rw [hx]
  exact issue_accept_ok (hd e _) h rfl

end SharedBodies

/-! ### Integer results (R104, R105, R138) -/

/-- Only `div` keeps SAT from its result. -/
theorem intRes_of_ne_div {o : IntOp} (ho : o ≠ .div) (e : Enc) (a b : Word) :
    intRes o e a b = e.fromInt (o.eval (tySigned e.ty) (tyWidth false e.ty) (e.int a) (e.int b)) := by
  have hsat : (e.sat && !(o == .div && e.int b == 0)) = e.sat := by simp [ho]
  exact congrArg (fun sat => extendInt (tySigned e.ty) (tyWidth false e.ty) (narrowInt sat (tySigned e.ty) (tyWidth false e.ty)
    (o.eval (tySigned e.ty) (tyWidth false e.ty) (e.int a) (e.int b)))) hsat

/-- A zero divisor's quotient, reduced to w bits, has every bit set. -/
theorem wrapNat_quotInt_zero (signed : Bool) (w : Nat) (a : Int) : wrapNat w (quotInt signed w a 0) = 2 ^ w - 1 := by
  have hw : (0 : Int) < ((2 ^ w : Nat) : Int) := by exact_mod_cast Nat.two_pow_pos w
  have hmod : quotInt signed w a 0 % ((2 ^ w : Nat) : Int) = ((2 ^ w : Nat) : Int) - 1 := by
    rw [quotInt, if_pos rfl]
    cases signed
    case false => exact Int.emod_eq_of_lt (Int.le_sub_one_of_lt hw) (Int.sub_lt_self _ Int.one_pos)
    case true =>
      calc (-1) % ((2 ^ w : Nat) : Int) = (-1 + ((2 ^ w : Nat) : Int)) % ((2 ^ w : Nat) : Int) := (Int.add_emod_right ..).symm
        _ = ((2 ^ w : Nat) : Int) - 1 := by rw [Int.emod_eq_of_lt] <;> omega
  rw [wrapNat, hmod]
  omega

/-- `div`: the fixed quotient for a zero divisor, and else the exact one narrowed. -/
theorem intRes_div (e : Enc) (a b : Word) :
    intRes .div e a b = if e.int b = 0 then extendInt (tySigned e.ty) (tyWidth false e.ty) (2 ^ tyWidth false e.ty - 1)
      else e.fromInt ((e.int a).tdiv (e.int b)) := by
  have hres : intRes .div e a b = extendInt (tySigned e.ty) (tyWidth false e.ty)
      (narrowInt (e.sat && !(e.int b == 0)) (tySigned e.ty) (tyWidth false e.ty)
        (quotInt (tySigned e.ty) (tyWidth false e.ty) (e.int a) (e.int b))) := rfl
  rw [hres]
  split
  case isTrue hb => simp [hb, narrowInt, wrapNat_quotInt_zero]
  case isFalse hb =>
    have hsat : (e.sat && !(e.int b == 0)) = e.sat := by simp [hb]
    rw [hsat, quotInt, if_neg hb]
    rfl

/-- A row of an integer operation other than `div` has its exact value, narrowed. -/
theorem scalarResult_of_intRes {row : Enc → Instr} {D : Enc → Desc} {long : Bool} {o : IntOp} (ho : o ≠ .div)
    (hx : ∀ e s, exec (row e) s = issue (D e) e s (scalarOp long e fun a b => (intRes o e a b, [])))
    (hd : ∀ e acc, describe acc (row e) = some (e, D e)) :
    ScalarResult row long fun e _ a b =>
      (e.fromInt (o.eval (tySigned e.ty) (tyWidth false e.ty) (e.int a) (e.int b)), []) :=
  (scalarResult_of_exec (f := fun e _ a b => (intRes o e a b, [])) hx hd).congr fun e _ a b => by rw [intRes_of_ne_div ho]

/-- Settles O1: `div` by its zero divisor, the other operations of two sources by their exact value, and the rest by their
bodies. -/
theorem scalarIntegerResults : Obligations.ScalarIntegerResults := by
  unfold Obligations.ScalarIntegerResults
  refine ⟨?add, ?sub, ?mul, ?mulh, ?mad, ?div, ?rem, ?min, ?max, ?abs, ?sel, ?ldi, ?ldp⟩
  case add => exact scalarResult_of_intRes (o := .add) (by decide) (fun _ _ => rfl) fun _ _ => rfl
  case sub => exact scalarResult_of_intRes (o := .sub) (by decide) (fun _ _ => rfl) fun _ _ => rfl
  case mul => exact scalarResult_of_intRes (o := .mul) (by decide) (fun _ _ => rfl) fun _ _ => rfl
  case mulh => exact scalarResult_of_intRes (o := .mulh) (by decide) (fun _ _ => rfl) fun _ _ => rfl
  case rem => exact scalarResult_of_intRes (o := .rem) (by decide) (fun _ _ => rfl) fun _ _ => rfl
  case min => exact scalarResult_of_intRes (o := .min) (by decide) (fun _ _ => rfl) fun _ _ => rfl
  case max => exact scalarResult_of_intRes (o := .max) (by decide) (fun _ _ => rfl) fun _ _ => rfl
  case div =>
    exact (scalarResult_of_exec (f := fun e _ a b => (intRes .div e a b, [])) (fun _ _ => rfl) fun _ _ => rfl).congr
      fun e _ a b => by rw [intRes_div]
  case mad | abs | sel => exact scalarResult_of_exec (fun _ _ => rfl) fun _ _ => rfl
  case ldi | ldp => exact writesResult_of_exec (fun _ _ => rfl) fun _ _ => rfl

/-! ### Bits, comparisons and floating point (R141 to R150) -/

/-- Settles O2: each row's result is its body's, read through the names of the fields' values. -/
theorem bitAndShiftResults : Obligations.BitAndShiftResults := by
  unfold Obligations.BitAndShiftResults
  refine ⟨?and, ?or, ?xor, ?andn, ?shl, ?shr, ?sar, ?rotl, ?clz, ?ctz, ?popc, ?bfx, ?bfi⟩
  all_goals exact scalarResult_of_exec (fun _ _ => rfl) fun _ _ => rfl

/-- Settles O3: the comparisons share one body, and `plog` retires at once. -/
theorem comparePredicateResults : Obligations.ComparePredicateResults :=
  ⟨compareResult_of_exec (fun _ _ => rfl) fun _ _ => rfl, compareResult_of_exec (fun _ _ => rfl) fun _ _ => rfl,
    writesResult_of_exec (fun _ _ => rfl) fun _ _ => rfl⟩

/-- Settles O4: each row is the shared scalar body over its operation of the format. -/
theorem scalarFloatResults : Obligations.ScalarFloatResults := by
  unfold Obligations.ScalarFloatResults
  refine ⟨?fadd, ?fsub, ?fmul, ?fdiv, ?fmin, ?fmax, ?ffma, ?fsqrt, ?fcvt, ?fsgn, ?fclass⟩
  all_goals exact scalarResult_of_exec (fun _ _ => rfl) fun _ _ => rfl

/-! ### Control transfers (R133) -/

section Transfers

variable {e : Enc} {s s1 : State}

/-- The new state of the issuing strand alone decides an update of it. -/
theorem State.updMy_congr {f g : Strand → Strand} (h : f s.my = g s.my) : s.updMy f = s.updMy g :=
  congrArg s.setMy h

theorem jump_of_aligned {a : Word} (t : State) (h : a.toNat % 4 = 0) :
    (if jumpAligned a then .ok t else .error (.cause .align) : Except Stop State) = .ok t :=
  if_pos ((jumpAligned_iff a).mpr h)

theorem jump_of_unaligned {a : Word} (t : State) (h : a.toNat % 4 ≠ 0) :
    (if jumpAligned a then .ok t else .error (.cause .align) : Except Stop State) = .error (.cause .align) :=
  if_neg (mt (jumpAligned_iff a).mp h)

/-- `dbnz` reads its counter back after the decrement, which for s0 is the zero it always was (R60, R133; log 33). -/
theorem exec_dbnz_of_accept (h : accept (.dbnz e) s = some s1) :
    exec (.dbnz e) s = .next (s1.updMy fun st =>
      if (st.setS e.da.idx.toNat (st.getS e.da.idx.toNat - 1)).getS e.da.idx.toNat ≠ 0 then
        (st.setS e.da.idx.toNat (st.getS e.da.idx.toNat - 1)).goTo (st.pc + 12 * e.imm.signExtend 64)
      else (st.setS e.da.idx.toNat (st.getS e.da.idx.toNat - 1)).advance) :=
  issue_accept_ok rfl h rfl

/-- The counter of an accepted `dbnz` but s0 reads as it was written. -/
theorem dbnz_counter (h : accept (.dbnz e) s = some s1) (h0 : e.da.idx.toNat ≠ 0) (st : Strand) (v : Word) :
    (st.setS e.da.idx.toNat v).getS e.da.idx.toNat = v :=
  Strand.getS_setS_self st v h0 (accept_idx h rfl rfl)

theorem exec_dbnz_taken (h : accept (.dbnz e) s = some s1) (h0 : e.da.idx.toNat ≠ 0)
    (h1 : s1.my.getS e.da.idx.toNat ≠ 1) :
    exec (.dbnz e) s = .next (s1.updMy fun st =>
      (st.setS e.da.idx.toNat (st.getS e.da.idx.toNat - 1)).goTo (st.pc + 12 * e.imm.signExtend 64)) := by
  have hne : s1.my.getS e.da.idx.toNat - 1 ≠ 0 := by bv_omega
  rw [exec_dbnz_of_accept h]
  exact congrArg _ (State.updMy_congr (if_pos (by rwa [dbnz_counter h h0])))

theorem exec_dbnz_last (h : accept (.dbnz e) s = some s1) (h0 : e.da.idx.toNat ≠ 0)
    (h1 : s1.my.getS e.da.idx.toNat = 1) :
    exec (.dbnz e) s = .next (s1.updMy fun st => (st.setS e.da.idx.toNat 0).advance) := by
  rw [exec_dbnz_of_accept h]
  refine congrArg _ (State.updMy_congr ?_)
  simp [dbnz_counter h h0, h1]

theorem exec_dbnz_s0 (h : accept (.dbnz e) s = some s1) (h0 : e.da.idx.toNat = 0) :
    exec (.dbnz e) s = .next (s1.updMy Strand.advance) := by
  rw [exec_dbnz_of_accept h]
  refine congrArg _ (State.updMy_congr ?_)
  simp [h0]

end Transfers

/-- Settles O5: the label forms by their bodies, the register forms by their target's alignment, `dbnz` by its counter. -/
theorem controlTransfers : Obligations.ControlTransfers := by
  unfold Obligations.ControlTransfers
  refine ⟨?nop, ?br, ?brl, ?jmp, ?jmpTrap, ?jmpl, ?jmplTrap, fun e s s1 => exec_dbnz_taken, fun e s s1 => exec_dbnz_last,
    fun e s s1 => exec_dbnz_s0⟩
  case nop | br | brl => exact fun e s s1 h => issue_accept_ok rfl h rfl
  case jmp | jmpl => exact fun e s s1 h ha => issue_accept_ok rfl h (jump_of_aligned _ ha)
  case jmpTrap | jmplTrap => exact fun e s s1 h ha => issue_trap rfl h (jump_of_unaligned _ ha)

/-! ### Traps, returns and special registers (R135 to R137) -/

/-- ILLEGAL needs nothing but a strand to raise it. -/
theorem exec_illegalOpcode_of_strand {w : BitVec 96} {s : State} (h : (s.thread? s.curT).isSome) :
    exec (.illegalOpcode w) s = .next (s.raise s.curT s.curX (TrapInfo.plain .illegal)) := by
  obtain ⟨th, hth⟩ := Option.isSome_iff_exists.mp h
  show execIllegalOpcode w s = _
  simp only [execIllegalOpcode, hth]

/-- Settles O6: the traps and returns by their bodies, an unassigned OP without one. -/
theorem trapsAndReturns : Obligations.TrapsAndReturns := by
  unfold Obligations.TrapsAndReturns
  refine ⟨?trap, ?brk, fun w s => exec_illegalOpcode_of_strand, ?uret, ?sret⟩
  case trap | brk => exact fun e s s1 h => issue_trap rfl h rfl
  case uret | sret => exact fun e s s1 h => issue_accept_ok rfl h rfl

/-- Settles O7: `kget` retires with what it reads, and the writes are their bodies. -/
theorem specialRegisterAccess : Obligations.SpecialRegisterAccess :=
  ⟨writesResult_of_exec (fun _ _ => rfl) fun _ _ => rfl, fun _ _ _ h => issue_accept_ok rfl h rfl,
    fun _ _ _ h => issue_accept_ok rfl h rfl⟩

end Sys2Proof.Machine
end

section
/-! PROOFS. Messages and parking (R52, R151, R152, R155, R156, R194): what a send presents, what its arrival answers, what a refusal
leads to, and O32 from them. -/

namespace Sys2Proof.Machine

/-! ### Presenting a message (R151, R152) -/

section Sending

variable {e : Enc} {s : State}

theorem sendBody_of_failed {c : Cause} (entry : QEntry) (h : s.sendCheck s.curT (s.my.getS e.sa.idx.toNat) = some c) :
    sendBody e s entry = .error (.cause c) := by
  simp only [sendBody, h]

/-- The state in which a send that passes its checks waits: its release made, the lines that the message waits for written back,
and the message presented. -/
def State.sent (s : State) (w : Word) (entry : QEntry) : State :=
  let p := s.release s.curT s.curX 6
  let s2 := p.2.writeBackMarked (clusterOf p.2.curT) p.1.pos
  let en := { entry with rel := s2.storeRel s2.curT s2.curX ++ [p.1] }
  s2.updMy fun st => { st with flight := some (newFlight s2 s2.curT s2.curX (dieOf (targetSlot w)) 3
    (some (.send ⟨targetSlot w, targetQueue w, en⟩))) }

theorem sendBody_of_passed (entry : QEntry) (h : s.sendCheck s.curT (s.my.getS e.sa.idx.toNat) = none) :
    sendBody e s entry = .error (.waitIn .answer (s.sent (s.my.getS e.sa.idx.toNat) entry)) := by
  simp only [sendBody, h]
  rfl

end Sending

/-! ### A message at its receiver, and a refusal at its sender (R47, R152, R194) -/

section Flights

variable {s : State} {f : Flight} {m : Msg} {n : Nat}

theorem exec_messageArrival_of_arrived (hf : (s.strand s.curT s.curX).flight = some f) (hp : f.phase = .arrived)
    (hr : f.req = some (.send m)) : exec .messageArrival s = .next (s.answerSend s.curT s.curX m) := by
  have hhere : f.here = some (.send m) := (if_pos hp).trans hr
  show execMessageArrival s = _
  simp only [execMessageArrival, hf, Option.bind_some, hhere]

theorem answerSend_of_fenced {t : Nat} {x : Side} (h : s.fencedCluster (clusterOf m.dst) = true) :
    s.answerSend t x m = s.replyTo t x (.trap (TrapInfo.plain .homeFenced)) :=
  if_pos h

/-- What the receiver's cluster answers where no fence stands before it. -/
theorem answerSend_of_unfenced {t : Nat} {x : Side} (h : s.fencedCluster (clusterOf m.dst) = false) :
    (∀ s', s.admitMsg t m = .admitted s' → s.answerSend t x m = s'.replyTo t x (.done [])) ∧
    (s.admitMsg t m = .refused → s.answerSend t x m = s.refuse t x) ∧
    (s.admitMsg t m = .permission → s.answerSend t x m = s.replyTo t x (.trap (TrapInfo.plain .permission))) := by
  unfold State.answerSend
  rw [if_neg (ne_true_of_eq_false h)]
  exact ⟨fun s' ha => by rw [ha], fun ha => by rw [ha], fun ha => by rw [ha]⟩

theorem exec_refusalReceived_of_refused (hf : (s.strand s.curT s.curX).flight = some f) (hp : f.phase = .refused) :
    exec .refusalReceived s = .next (
      if f.limit ≤ f.refusals then (s.dropAllocated f.req).raise s.curT s.curX (TrapInfo.plain (retryCause f.req))
      else s.updStrand s.curT s.curX fun st =>
        { st with flight := some { f with phase := .backoff (s.now s.curT + 64), refusals := f.refusals + 1 } }) := by
  show execRefusalReceived s = _
  simp only [execRefusalReceived, hf, if_pos hp]
  exact next_ite_congr (by omega) _ _

/-! ### Presenting a refused request again (R152, R194) -/

/-- A request as it is presented again: at its first link or its destination, with its bound and bounces anew. -/
def Flight.again (s : State) (t : Nat) (f : Flight) : Flight :=
  { f with phase := if crossesLink t f.die then .atLink (s.elapsedOf (deviceOf t)) else .arrived
           since := s.now t, bound := 0, bounces := 0, gen := s.steerGen (deviceOf t) }

/-- The request is a message. -/
def Flight.isSend (f : Flight) : Bool := match f.req with | some (.send _) => true | _ => false

theorem Flight.isSend_of_send (hr : f.req = some (.send m)) : f.isSend = true := by
  rw [Flight.isSend, hr]

theorem Flight.isSend_of_ne (hr : ∀ m, f.req ≠ some (.send m)) : f.isSend = false := by
  unfold Flight.isSend
  split
  · exact absurd ‹_› (hr _)
  · rfl

/-- A refused request whose time has come is presented again by the step of its kind. -/
theorem represent_of_due {t : Nat} {x : Side} (hf : (s.strand t x).flight = some f) (hp : f.phase = .backoff n)
    (hn : n ≤ s.now t) : s.represent t x f.isSend = (s.setFlight t x (f.again s t)).joinCinc t x := by
  unfold State.represent
  simp only [hf, hp]
  exact if_pos ⟨hn, rfl⟩

theorem exec_requestRepresent_of_due (hf : (s.strand s.curT s.curX).flight = some f) (hp : f.phase = .backoff n)
    (hn : n ≤ s.now s.curT) (hr : ∀ m, f.req ≠ some (.send m)) :
    exec .requestRepresent s = .next ((s.setFlight s.curT s.curX (f.again s s.curT)).joinCinc s.curT s.curX) := by
  rw [← represent_of_due hf hp hn, Flight.isSend_of_ne hr]
  rfl

/-- A message is no arrival at a counter. -/
theorem joinCinc_of_send {t : Nat} {x : Side} (hf : (s.strand t x).flight = some f) (hr : f.req = some (.send m)) :
    s.joinCinc t x = s := by
  have hhere : f.here = some (.send m) ∨ f.here = none := by
    by_cases hp : f.phase = .arrived
    · exact .inl ((if_pos hp).trans hr)
    · exact .inr (if_neg hp)
  unfold State.joinCinc
  rw [hf, Option.bind_some]
  rcases hhere with h | h <;> rw [h]

theorem exec_sendRepresent_of_due (hf : (s.strand s.curT s.curX).flight = some f) (hp : f.phase = .backoff n)
    (hn : n ≤ s.now s.curT) (hr : f.req = some (.send m)) :
    exec .sendRepresent s = .next (s.setFlight s.curT s.curX (f.again s s.curT)) := by
  have hagain : (f.again s s.curT).req = some (.send m) := hr
  rw [← joinCinc_of_send (setFlight_self s s.curT s.curX (f.again s s.curT)) hagain, ← represent_of_due hf hp hn,
    Flight.isSend_of_send hr]
  rfl

end Flights

/-! ### Parking (R52, R156) -/

theorem exec_park_of_own_queues {e : Enc} {s s1 : State} (h : accept (.park e) s = some s1)
    (hw : parkWrong s1.me s1.curX (e.imm.extractLsb' 0 16) = false) :
    exec (.park e) s = .next (if parkedHead s1.me (e.imm.extractLsb' 0 16) then s1.updMy Strand.advance
      else s1.updMy fun st => { st with status := .parked (e.imm.extractLsb' 0 16) }) := by
  refine issue_accept_ok rfl h ?_
  dsimp only
  rw [if_neg (ne_true_of_eq_false hw)]
  split <;> rfl

/-- Settles O32: a send by its checks, an arrival by the receiver's answer, a refusal by its count, a message presented again as
any other request, and `park` by its mask. -/
theorem messageRows : Obligations.MessageRows := by
  unfold Obligations.MessageRows
  refine ⟨?passed, ?failed, fun s t f m hf hp hr hfence ha => ?admitted, fun s f m hf hp hr hfence ha => ?refused,
    fun s f m hf hp hr hfence ha => ?permission, fun s f m hf hp hr hfence => ?fenced, fun s f hf hp hl => ?backoff,
    fun s f hf hp hl => ?exhausted, fun s f n => exec_requestRepresent_of_due, fun s f n m => exec_sendRepresent_of_due,
    writesResult_of_exec (fun _ _ => rfl) fun _ _ => rfl, fun e s s1 => exec_park_of_own_queues⟩
  case passed =>
    intro row entry hrow e s s1 h w hc
    simp only [List.mem_cons, Prod.mk.injEq, List.not_mem_nil, or_false] at hrow
    rcases hrow with ⟨rfl, rfl⟩ | ⟨rfl, rfl⟩ <;> exact issue_waitIn rfl h (sendBody_of_passed _ hc)
  case failed =>
    simp only [List.forall_mem_cons, List.not_mem_nil, false_implies, implies_true, and_true]
    exact ⟨fun e s s1 c h hc => issue_trap rfl h (sendBody_of_failed _ hc),
      fun e s s1 c h hc => issue_trap rfl h (sendBody_of_failed _ hc)⟩
  case admitted => rw [exec_messageArrival_of_arrived hf hp hr, (answerSend_of_unfenced hfence).1 t ha]
  case refused => rw [exec_messageArrival_of_arrived hf hp hr, (answerSend_of_unfenced hfence).2.1 ha]
  case permission => rw [exec_messageArrival_of_arrived hf hp hr, (answerSend_of_unfenced hfence).2.2 ha]
  case fenced => rw [exec_messageArrival_of_arrived hf hp hr, answerSend_of_fenced hfence]
  case backoff => rw [exec_refusalReceived_of_refused hf hp, if_neg (Nat.not_le.mpr hl)]
  case exhausted => rw [exec_refusalReceived_of_refused hf hp, if_pos hl]

end Sys2Proof.Machine
end

section
/-! PROOFS. The vector rows (R159 to R187): what the shared vector bodies give a row, the moves, reductions and queue-fed reduction
by their bodies, where `wred` is more than the statement says, and O8 to O12 from them. -/

namespace Sys2Proof.Machine

/-! ### Rows of one shared body -/

section SharedVectorBodies

variable {row : Enc → Instr} {D : Enc → Desc}

/-- A row that is the shared vector body over `f` has the results of `f`. -/
theorem vectorResult_of_exec {long : Bool} {f : Enc → Nat → Nat → Nat → FRes}
    (hx : ∀ e s, exec (row e) s = issue (D e) e s (vectorOp long e (f e)))
    (hd : ∀ e acc, describe acc (row e) = some (e, D e)) : VectorResult row long f := by
  intro e s s1 s2 s3 a b wa wb h hroom ha hb
  rw [hx]
  exact issue_accept_ok (hd e _) h (vectorOp_ok long e (f e) s1 s2 s3 a b wa wb hroom ha hb)

/-- A row that is the shared vector comparison over `f` has the relations of `f`. -/
theorem vectorCompareResult_of_exec {f : Enc → Nat → Nat → Bool × BitVec 5}
    (hx : ∀ e s, exec (row e) s = issue (D e) e s (vectorCompare e (f e)))
    (hd : ∀ e acc, describe acc (row e) = some (e, D e)) : VectorCompareResult row f := by
  intro e s s1 s2 s3 a b wa wb h ha hb
  rw [hx]
  exact issue_accept_ok (hd e _) h (vectorCompare_ok e (f e) s1 s2 s3 a b wa wb ha hb)

end SharedVectorBodies

/-! ### Integer and floating-point rows (R163 to R170, R184) -/

/-- Only `div` keeps SAT from an element's result. -/
theorem intResult_of_ne_div {o : IntOp} (ho : o ≠ .div) (e : Enc) (a b : Nat) :
    intResult o e.sat (tySigned e.ty) (tyWidth true e.ty) a b =
      e.elemFrom (o.eval (tySigned e.ty) (tyWidth true e.ty) (e.elemInt a) (e.elemInt b)) := by
  have hsat : (e.sat && !(o == .div && e.elemInt b == 0)) = e.sat := by simp [ho]
  exact congrArg (fun sat => narrowInt sat (tySigned e.ty) (tyWidth true e.ty)
    (o.eval (tySigned e.ty) (tyWidth true e.ty) (e.elemInt a) (e.elemInt b))) hsat

/-- A row of an integer operation other than `div` has its exact value on each element, narrowed. -/
theorem vectorResult_of_intResult {row : Enc → Instr} {D : Enc → Desc} {long : Bool} {o : IntOp} (ho : o ≠ .div)
    (hx : ∀ e s, exec (row e) s = issue (D e) e s (vectorOp long e (vecInt o e)))
    (hd : ∀ e acc, describe acc (row e) = some (e, D e)) :
    VectorResult row long fun e _ a b =>
      (e.elemFrom (o.eval (tySigned e.ty) (tyWidth true e.ty) (e.elemInt a) (e.elemInt b)), 0) := by
  have hf : ∀ e : Enc, vecInt o e = fun _ a b =>
      (e.elemFrom (o.eval (tySigned e.ty) (tyWidth true e.ty) (e.elemInt a) (e.elemInt b)), 0) := fun e =>
    funext fun _ => funext fun a => funext fun b => congrArg (·, 0) (intResult_of_ne_div ho e a b)
  exact vectorResult_of_exec (fun e s => by rw [hx, hf]) hd

/-- Settles O8: the operations of two integers by their exact value, and the rest by the shared bodies over their operations. -/
theorem vectorIntegerResults : Obligations.VectorIntegerResults := by
  unfold Obligations.VectorIntegerResults
  refine ⟨?vadd, ?vsub, ?vmul, ?vmulh, ?vmin, ?vmax, ?vmad, ?vabs, ?vand, ?vor, ?vxor, ?vshl, ?vshr, ?vsar, ?vcmp⟩
  case vadd => exact vectorResult_of_intResult (o := .add) (by decide) (fun _ _ => rfl) fun _ _ => rfl
  case vsub => exact vectorResult_of_intResult (o := .sub) (by decide) (fun _ _ => rfl) fun _ _ => rfl
  case vmul => exact vectorResult_of_intResult (o := .mul) (by decide) (fun _ _ => rfl) fun _ _ => rfl
  case vmulh => exact vectorResult_of_intResult (o := .mulh) (by decide) (fun _ _ => rfl) fun _ _ => rfl
  case vmin => exact vectorResult_of_intResult (o := .min) (by decide) (fun _ _ => rfl) fun _ _ => rfl
  case vmax => exact vectorResult_of_intResult (o := .max) (by decide) (fun _ _ => rfl) fun _ _ => rfl
  case vmad | vabs | vand | vor | vxor | vshl | vshr | vsar => exact vectorResult_of_exec (fun _ _ => rfl) fun _ _ => rfl
  case vcmp => exact vectorCompareResult_of_exec (fun _ _ => rfl) fun _ _ => rfl

/-- Settles O9: every row is a shared body over its operation of the format, the long ones as long operations. -/
theorem vectorFloatResults : Obligations.VectorFloatResults := by
  unfold Obligations.VectorFloatResults
  refine ⟨?vfadd, ?vfsub, ?vfmul, ?vffma, ?vfdiv, ?vfsqrt, ?vfmin, ?vfmax, ?vfcmp, ?vfsgn, ?vfclass, ?vexp2, ?vlog2, ?vrcp,
    ?vrsq, ?vsin, ?vcos, ?vtanh⟩
  case vfcmp => exact vectorCompareResult_of_exec (fun _ _ => rfl) fun _ _ => rfl
  all_goals exact vectorResult_of_exec (fun _ _ => rfl) fun _ _ => rfl

/-! ### Moves (R166, R173 to R177) -/

/-- A source that was read without a wait is the same one after a first source of the same queue (R44, R45). -/
theorem Read.after_of_ok {α : Type} {r : Read α} {v : α × List RegWrite × State} (o : Operand) (h : r = .ok v) :
    r.after o = .ok v := by
  rw [h]; rfl

/-- Settles O10: each move's body, its room and its sources given, retires with the elements that the row names. -/
theorem laneMoves : Obligations.LaneMoves := by
  unfold Obligations.LaneMoves
  refine ⟨fun e s s1 s2 s3 a b wa wb h hroom ha hb => ?vsel, fun e s s1 s2 a wa h hroom ha => ?vbcast,
    fun e s s1 s2 b wb h hroom ha => ?vbcastEl, fun e s s1 s2 a wa h hroom ha => ?vperm,
    fun e s s1 s2 s3 a b wa wb h hroom ha hb => ?vshuf, fun e s s1 h hroom => ?vext, fun e s s1 s2 b wb h ha => ?vextEl,
    fun e s s1 s2 s3 a b wa wb h ha hb => ?vins, fun e s s1 s2 a wa h hroom ha => ?vcomp⟩
  all_goals refine issue_accept_ok rfl h ?_
  case vsel | vshuf => simp only [hroom, ha, Read.after_of_ok _ hb, ok_bind]; rfl
  case vbcast | vbcastEl | vperm | vcomp => simp only [hroom, ha, ok_bind]; rfl
  case vext => simp only [hroom, ok_bind]; rfl
  case vextEl => simp only [ha, ok_bind]; rfl
  case vins => simp only [ha, hb, ok_bind]; rfl

/-! ### Two updates of the issuing strand -/

/-- The later of two writes to one entry of a table stands. -/
theorem tset_tset_self {α : Type} (l : List (Nat × α)) (n : Nat) (v w : α) : tset (tset l n v) n w = tset l n w := by
  induction l with
  | nil => simp [tset]
  | cons p r ih =>
    obtain ⟨k, u⟩ := p
    by_cases h : k = n
    · simp [tset, h]
    · by_cases g : n < k <;> simp [tset, h, g, ih]

theorem State.setThread_setThread (s : State) (t : Nat) (th th' : Thread) :
    (s.setThread t th).setThread t th' = s.setThread t th' :=
  congrArg (fun l => { s with threads := l }) (tset_tset_self s.threads t th th')

theorem Thread.setStrand_setStrand (th : Thread) (x : Side) (st st' : Strand) :
    (th.setStrand x st).setStrand x st' = th.setStrand x st' := by
  cases x <;> rfl

/-- Two updates of the issuing strand are one, by the one after the other. -/
theorem State.updMy_updMy (s : State) (f g : Strand → Strand) : (s.updMy f).updMy g = s.updMy fun st => g (f st) := by
  have hset : ∀ st, (s.updMy f).setMy st = s.setMy st := fun st => by
    show (s.setThread s.curT _).setThread s.curT (((s.setThread s.curT _).thread s.curT).setStrand s.curX st) = _
    rw [State.thread_setThread, Thread.setStrand_setStrand, State.setThread_setThread]
    rfl
  show (s.updMy f).setMy (g (s.updMy f).my) = s.setMy (g (f s.my))
  rw [State.my_updMy, hset]

/-! ### The queue-fed reduction (R180, R181) -/

section Round

variable {e : Enc} {s : State} {q : Nat} {en : QEntry} {r : List QEntry}

theorem vredRound_of_counted (h : e.imm.toNat ≤ s.my.prog.toNat) :
    vredRound e q s = .ok ((s.updMy fun st => { st with prog := 0 }).updMy Strand.advance) :=
  if_neg (Nat.not_lt.mpr h)

theorem vredRound_of_empty (h : s.my.prog.toNat < e.imm.toNat) (hq : s.me.getQ q = []) :
    vredRound e q s = .error (.wait (.entry q 1 true)) := by
  simp only [vredRound, if_pos h, hq]

/-- An end-of-stream token ends the form with its flag set. -/
theorem vredRound_of_token (h : s.my.prog.toNat < e.imm.toNat) (hq : s.me.getQ q = en :: r) (ht : en.eos = true) :
    vredRound e q s = .ok (((s.setThread s.curT { s.me.popTo q r with eos := s.me.eos ||| (1#16 <<< q) }).updMy
      fun st => { st.observePop q en with prog := 0 }).updMy Strand.advance) := by
  simp only [vredRound, if_pos h, hq, if_pos ht]
  exact congrArg (fun t => Except.ok (State.next t)) (State.updMy_updMy ..)

/-- An entry is combined, and the form ends with the one that completes the count. -/
theorem vredRound_of_entry (h : s.my.prog.toNat < e.imm.toNat) (hq : s.me.getQ q = en :: r) (ht : en.eos = false) :
    vredRound e q s =
      if (s.combineEntry e q en).my.prog.toNat < e.imm.toNat then .error (.waitIn .more (s.combineEntry e q en))
      else .ok (((s.combineEntry e q en).updMy fun st => { st with prog := 0 }).updMy Strand.advance) := by
  simp only [vredRound, if_pos h, hq, ht, Bool.false_eq_true, if_false]
  rfl

end Round

/-! ### Aligned mantissas (R172) -/

/-- Elements that raise no flag leave none. -/
theorem orFlags_of_no_flag (l : List Nat) (f : Nat → Nat) : orFlags (l.map fun i => (f i, 0)) = 0 := by
  induction l with
  | nil => rfl
  | cons i l ih => simpa [orFlags] using ih

theorem vectorOf_of_no_flag (e : Enc) (st : Strand) (d a b : VReg) (f : Nat → Nat) :
    vectorOf e st d a b (fun _ a _ => (f a, 0)) =
      (packElems (tyWidth true e.ty) ((enabledElems st e (tyWidth true e.ty)).map fun i =>
        (i, f (elemOf (tyWidth true e.ty) a i))), 0) := by
  simp only [vectorOf, List.map_map]
  exact Prod.ext rfl (orFlags_of_no_flag _ _)

/-- A vector body without SB whose elements raise no flag moves its values (R162). -/
theorem vectorOp_ok_of_no_flag {e : Enc} {f : Nat → Nat} {s1 s2 : State} {a : VReg} {wa : List RegWrite}
    (hb : e.sb.cls = .absent) (hroom : s1.needRoom e.da 1 (e.sa.cls == .queue) = .ok ())
    (ha : s1.readVecSrc e (tyWidth true e.ty) e.sa = .ok (a, wa, s2)) :
    vectorOp false e (fun _ a _ => (f a, 0)) s1 =
      .ok (movedTo e (e.sa.cls == .queue) (wa ++ [.fps 0]) (fun i => f (elemOf (tyWidth true e.ty) a i)) s2) := by
  have hlong : (false || popsQueue e) = (e.sa.cls == .queue) := by simp [popsQueue, hb]
  have hsb : s2.readVecSrc e (tyWidth true e.ty) e.sb = .ok (0, [], s2) := by simp only [State.readVecSrc, hb]
  rw [vectorOp_ok false e _ s1 s2 s2 a 0 wa [] (by rw [hlong]; exact hroom) ha hsb, hlong, vectorOf_of_no_flag]
  simp only [movedTo, List.append_assoc, List.nil_append, List.singleton_append]

/-- Settles O11: the queue-fed reduction by what is at the head of its queue, `malign` as a vector body without flags, and the
rest by their bodies. -/
theorem vectorConvertReducePredicates : Obligations.VectorConvertReducePredicates := by
  unfold Obligations.VectorConvertReducePredicates
  refine ⟨fun e s s1 s2 a wa h hroom ha => ?vfcvt, ?bmaxe, fun e s s1 s2 s3 b a wb wa h hb hroom ha => ?malign,
    fun e s s1 h hroom => ?vred, fun e s s1 h hn => ?counted, fun e s s1 en r h hn hq ht hc => ?last,
    fun e s s1 en r h hn hq ht hc => ?more, fun e s s1 en r h hn hq ht => ?token, fun e s s1 h hn hq => ?empty,
    fun e s s1 s2 a wa h hroom ha => ?vscan, ?lbc, ?vlq, ?pcnt, ?pfirst, ?pset⟩
  case bmaxe | lbc | vlq | pcnt | pfirst | pset => exact writesResult_of_exec (fun _ _ => rfl) fun _ _ => rfl
  case vfcvt | vscan =>
    refine issue_accept_ok rfl h ?_
    simp only [hroom, ha, ok_bind]
    rfl
  case vred =>
    refine issue_accept_ok rfl h ?_
    simp only [hroom, ok_bind]
    rfl
  case malign =>
    refine issue_accept_ok rfl h ?_
    simp only [hb, ok_bind]
    exact vectorOp_ok_of_no_flag (e := { e with sb := ⟨.absent, 0⟩ }) rfl hroom ha
  case counted => exact issue_accept_ok rfl h (vredRound_of_counted hn)
  case last => exact issue_accept_ok rfl h ((vredRound_of_entry hn hq ht).trans (if_neg (Nat.not_lt.mpr hc)))
  case more => exact issue_waitIn rfl h ((vredRound_of_entry hn hq ht).trans (if_pos hc))
  case token => exact issue_accept_ok rfl h (vredRound_of_token hn hq ht)
  case empty => exact issue_wait rfl h (vredRound_of_empty hn hq)

/-! ### Where `wred` does more than the statement says (R110, R129, R187) -/

/-- The element in lane 0 of the first vector register that an outstanding long operation of the issuing strand writes. -/
def firstLongResult (o : Host.Outcome State Fault Refusal) : Option Nat :=
  match o with
  | .next t => (t.my.pend.flatMap (·.writes)).findSome? fun w => match w with
    | .v _ _ v => some (elemOf 32 v 0)
    | _ => none
  | _ => none

/-- `wred.fp32 v4, v8` under p1 and FTZ. -/
def wredFlushed : Enc :=
  ⟨0, .fp32, false, 1, 0, 0, ⟨.vector, 4⟩, ⟨.vector, 8⟩, ⟨.absent, 0⟩, 0, 0, true, false, .rne, 0⟩

/-- A running cluster with a thread whose p1 enables lane 0 alone, where the n of v8 is the least subnormal number. -/
def oneLaneSubnormal : State :=
  { State.reset with
    devices := [(0, { Device.zero with stage := 8 })], threads := [(7, { Thread.zero with x := Strand.zero.setP 1 1 }.setV 8 1)]
    clusters := [(0, { Cluster.zero with service := .inService, run := .running, part := 1 })], curT := 7, curX := .strandX }

/-- Refutes O12: with one lane enabled no node of the tree of `wred` is reached, and the model flushes the subnormal n of
that lane under FTZ all the same (R110), where the statement gives the lane as it is. -/
theorem not_welfordResults : ¬ Obligations.WelfordResults := by
  unfold Obligations.WelfordResults
  rintro ⟨-, -, hwred, -⟩
  have hacc : accept (.wred wredFlushed) oneLaneSubnormal = some oneLaneSubnormal := by decide +kernel
  have hstated := congrArg firstLongResult (hwred wredFlushed oneLaneSubnormal oneLaneSubnormal hacc)
  have hmodel : firstLongResult (exec (.wred wredFlushed) oneLaneSubnormal) = some 0 := by decide +kernel
  rw [hmodel] at hstated
  exact absurd hstated (by decide +kernel)

end Sys2Proof.Machine
end

section
/-! PROOFS. Loads and stores (R188 to R193, R224): what the shared body of the vector rows answers where its checks pass, and O13
and O14 from it. -/

namespace Sys2Proof.Machine

/-- Settles O13: each row's body, its checks passed, retires with what it read or stored. -/
theorem scalarLoadStore : Obligations.ScalarLoadStore := by
  unfold Obligations.ScalarLoadStore
  refine ⟨fun e s s1 s2 s3 s4 l h hroom hcheck htouch hgranted => ?ld, fun e s s1 s2 s3 l v ws h hentry hcheck hread => ?st⟩
  all_goals refine issue_accept_ok rfl h ?_
  case ld => simp only [hroom, hcheck, htouch, hgranted, ok_bind]; rfl
  case st => simp only [hentry, hcheck, hread, ok_bind]; rfl

section VectorRows

variable {row : Enc → Instr} {D : Enc → Desc} {range : Enc → State → Except Stop Unit}
  {at_ : Enc → State → List (Nat × Word × Option Nat)}

/-- A row that is the shared body of the vector loads moves the elements that its body lists. -/
theorem vectorLoadResult_of_exec
    (hx : ∀ e s, exec (row e) s = issue (D e) e s fun s1 => vectorLoad e s1 (range e s1) (at_ e s1))
    (hd : ∀ e acc, describe acc (row e) = some (e, D e)) : VectorLoadResult row range at_ := by
  intro e s s1 s2 s3 s4 els h hroom hrange hcheck htouch hgranted
  rw [hx]
  refine issue_accept_ok (hd e _) h ?_
  simp only [vectorLoad, hroom, hrange, hcheck, htouch, hgranted, ok_bind]
  rfl

/-- A row that is the shared body of the vector stores moves the elements that its body lists. -/
theorem vectorStoreResult_of_exec
    (hx : ∀ e s, exec (row e) s = issue (D e) e s fun s1 => vectorStore e s1 (range e s1) (at_ e s1))
    (hd : ∀ e acc, describe acc (row e) = some (e, D e)) : VectorStoreResult row range at_ := by
  intro e s s1 s2 s3 els v ws h hentry hrange hcheck hread
  rw [hx]
  refine issue_accept_ok (hd e _) h ?_
  simp only [vectorStore, hentry, hrange, hcheck, hread, ok_bind]
  rfl

end VectorRows

/-- Settles O14: each row is a shared body over its range check and its list of addresses. -/
theorem vectorLoadStore : Obligations.VectorLoadStore := by
  unfold Obligations.VectorLoadStore
  refine ⟨?vld, ?vlds, ?vldx, ?vst, ?vsts, ?vstx⟩
  case vld | vlds | vldx => exact vectorLoadResult_of_exec (fun _ _ => rfl) fun _ _ => rfl
  case vst | vsts | vstx => exact vectorStoreResult_of_exec (fun _ _ => rfl) fun _ _ => rfl

end Sys2Proof.Machine
end

section
/-! PROOFS. Tickets (R197 to R206, R223): the requests of the ticket rows, what the holding slice does with them, what it answers to
a ticket that is presented, and O15 and O16 from them. -/

namespace Sys2Proof.Machine

/-! ### The requests of the rows (R200 to R205) -/

/-- An accepted row whose body presents a request waits for its answer. -/
theorem issue_present {i : Instr} {s s1 s2 : State} {e : Enc} {d : Desc} {body : State → Except Stop State} {die cls : Nat}
    {req : Req} (hd : describe s.me.acc i = some (e, d)) (h : accept i s = some s1) (hb : body s1 = s2.present die cls req) :
    issue d e s body = .next ((s2.updMy fun st => { st with
      flight := some (newFlight s2 s2.curT s2.curX die cls (some req)) }).block s.curT s.curX .answer) :=
  issue_waitIn hd h hb

section Requests

variable {e : Enc} {s s1 : State} {n : Nat}

/-- Chunks that pass their checks are presented from the first on. -/
theorem ticketBody_of_chunks {h : Nat} {ls : List TLine} {r : List (Nat × List TLine)} (hroom : s.needRoom e.da n false = .ok ())
    (hchunks : s.allChunks s.curT (e.fn.toNat + 1) e.sw.toNat
      ((List.range n).map fun i => effAddr s e + wordOf (64 * (e.fn.toNat + 1) * i)) = .ok ((h, ls) :: r, s1)) :
    ticketBody e s n = s1.present (sliceDie h) 0 (.ticket ((h, ls) :: r) e.gs.toNat e.da []) := by
  simp only [ticketBody, hroom, hchunks, ok_bind]

/-- Without a chunk nothing is presented. -/
theorem ticketBody_zero (hroom : s.needRoom e.da 0 false = .ok ()) : ticketBody e s 0 = .ok (s.retire e.la true []) := by
  simp only [ticketBody, hroom, ok_bind, List.range_zero, List.map_nil, State.allChunks]

theorem presentBody_of_form {w : Word} (how : Present) (h : s.ticketForm (deviceOf s.curT) w = true) :
    presentBody s w how = s.present (sliceDie (ticketSlice w)) 0 (.present (ticketSlice w) w how) :=
  if_pos h

end Requests

/-! ### Entries for a chunk, and their lines and leases (R197, R199 to R201) -/

section Allocate

variable {s : State} {f : Flight} {h ent lease : Nat} {ls : List TLine} {r : List (Nat × List TLine)} {dst : Operand}
  {got : List (Nat × Word)}

/-- The state after a chunk's lines are read and its entries taken. -/
def State.chunkTaken (s : State) (h ent lease : Nat) (ls : List TLine) : State :=
  (s.readLines s.curT s.curX ls).2.takeEntries s.curT s.curX h ent lease (s.readLines s.curT s.curX ls).1

/-- The entry and the ticket of a chunk whose entries are taken. -/
def State.chunkTicket (s : State) (h ent lease : Nat) (ls : List TLine) : Nat × Word :=
  let s1 := s.chunkTaken h ent lease ls
  (h * 1024 + ent, s1.ticketValue ((s1.cluster (clusterOf s.curT)).part.toNat) h ent
    (s.readLines s.curT s.curX ls).1.length (s1.ticket (h * 1024 + ent)).gen)

variable (hf : (s.strand s.curT s.curX).flight = some f) (hp : f.phase = .arrived)
  (hr : f.req = some (.ticket ((h, ls) :: r) lease dst got))

include hf hp hr

theorem exec_ticketAllocate_of_full (hrun : s.freeRun h ls.length = none) :
    exec .ticketAllocate s = .next (s.refuse s.curT s.curX) := by
  show execTicketAllocate s = _
  simp only [execTicketAllocate, hf, hp, hr, hrun]

theorem exec_ticketAllocate_of_last (hrun : s.freeRun h ls.length = some ent) (hl : r = []) :
    exec .ticketAllocate s = .next ((s.chunkTaken h ent lease ls).replyTo s.curT s.curX
      (.done (ticketWrites dst ((got ++ [s.chunkTicket h ent lease ls]).map (·.2))))) := by
  subst hl
  show execTicketAllocate s = _
  simp only [execTicketAllocate, hf, hp, hr, hrun]
  rfl

theorem exec_ticketAllocate_of_more {h' : Nat} {ls' : List TLine} {r' : List (Nat × List TLine)}
    (hrun : s.freeRun h ls.length = some ent) (hl : r = (h', ls') :: r') :
    let req : Req := .ticket r lease dst (got ++ [s.chunkTicket h ent lease ls])
    exec .ticketAllocate s = .next (((s.chunkTaken h ent lease ls).setFlight s.curT s.curX { f with req := some req }).replyTo
      s.curT s.curX (.next (sliceDie h') req)) := by
  subst hl
  show execTicketAllocate s = _
  simp only [execTicketAllocate, hf, hp, hr, hrun]
  rfl

end Allocate

section Entries

variable {s : State} {l : TLine}

/-- A line whose words are all read is done. -/
theorem exec_ticketLineFill_of_read (hs : (s.ticket s.actor).state = .filling)
    (hl : (s.ticket s.actor).lines.find? (fun l => l.j == s.item) = some l) (ht : l.todo = []) :
    exec .ticketLineFill s = .next (s.lineDone s.actor l) := by
  show execTicketLineFill s = _
  simp only [execTicketLineFill, if_pos hs, hl, ht, List.isEmpty_nil, if_true]

theorem exec_ticketLeaseExpiry_of_over (hs : (s.ticket s.actor).state = .ready)
    (he : (s.ticket s.actor).ends ≤ s.cycleOf (sliceDie (s.actor / 1024) / 4)) :
    exec .ticketLeaseExpiry s = .next (s.freeTicket s.actor .expired) :=
  congrArg Host.Outcome.next (if_pos ⟨hs, he⟩)

end Entries

/-! ### What reaches the holding slice, or comes back from it (R198, R203, R205) -/

theorem Flight.here_of_arrived {f : Flight} (h : f.phase = .arrived) : f.here = f.req := if_pos h

section Arrivals

variable {s : State} {f : Flight}

/-- A drop on its way reaches its slice before what the strand waits for does. -/
theorem exec_ticketPresent_of_drop {p : Nat × Side × Word × Nat}
    (hd : s.drops.find? (fun p => p.1 == s.curT && p.2.1 == s.curX) = some p) :
    exec .ticketPresent s =
      .next (({ s with drops := s.drops.erase p } : State).dropTicket (deviceOf s.curT) p.2.2.2 p.2.2.1) := by
  show execTicketPresent s = _
  simp only [execTicketPresent, hd]

theorem exec_ticketPresent_of_present {sl : Nat} {w : Word} {how : Present}
    (hd : s.drops.find? (fun p => p.1 == s.curT && p.2.1 == s.curX) = none)
    (hf : (s.strand s.curT s.curX).flight = some f) (hp : f.phase = .arrived) (hr : f.req = some (.present sl w how)) :
    exec .ticketPresent s = .next (s.presentTicket s.curT s.curX w how) := by
  show execTicketPresent s = _
  simp only [execTicketPresent, hd, hf, Option.bind_some, Flight.here_of_arrived hp, hr]

/-- The data of a redeem into memory is stored at its core. -/
theorem exec_ticketPresent_of_redeemed {va : Word} {sw : BitVec 3} {sb span : Nat} {data : VReg}
    (hd : s.drops.find? (fun p => p.1 == s.curT && p.2.1 == s.curX) = none)
    (hf : (s.strand s.curT s.curX).flight = some f) (hp : f.phase = .arrived)
    (hr : f.req = some (.redeemed va sw sb span data)) :
    exec .ticketPresent s = .next (s.storeRedeemed s.curT s.curX va sw sb span data) := by
  show execTicketPresent s = _
  simp only [execTicketPresent, hd, hf, Option.bind_some, Flight.here_of_arrived hp, hr]

end Arrivals

/-- Settles O15: the rows by the request that their body presents, the slice's steps by the request that has arrived. -/
theorem ticketRows : Obligations.TicketRows := by
  unfold Obligations.TicketRows
  refine ⟨fun e s s1 s2 h ls r hacc hroom hchunks => issue_present rfl hacc (ticketBody_of_chunks hroom hchunks), ?vtld,
    ?vtldNone,
    fun s f h ls lease dst got ent hf hp hr hrun => exec_ticketAllocate_of_last hf hp hr hrun rfl,
    fun s f h h2 ls ls2 r lease dst got ent hf hp hr hrun => exec_ticketAllocate_of_more hf hp hr hrun rfl,
    fun s f h ls r lease dst got => exec_ticketAllocate_of_full, fun s l => exec_ticketLineFill_of_read,
    fun s => exec_ticketLeaseExpiry_of_over, ?rdm, ?rdmm,
    fun e s s1 hacc hform => issue_present rfl hacc (presentBody_of_form _ hform),
    fun s f sl w how => exec_ticketPresent_of_present, ?drop, ?dropLink, ?dropNone, fun s p => exec_ticketPresent_of_drop⟩
  case vtld =>
    intro e s s1 s2 h ls r hacc n hn hlast hroom hchunks
    have hfields : ¬(n > 8 ∨ e.da.cls = .scalar ∧ n > 0 ∧ e.da.idx.toNat + n > 64) := by
      rintro (h8 | ⟨hc, h0, h64⟩)
      · omega
      · exact absurd (hlast hc h0) (by omega)
    exact issue_present rfl hacc ((if_neg hfields).trans (ticketBody_of_chunks hroom hchunks))
  case vtldNone =>
    intro e s s1 hacc hn hroom
    have hzero : (s1.my.getS e.sb.idx.toNat).toNat = 0 := by rw [hn]; rfl
    refine issue_accept_ok rfl hacc ?_
    simp only [hzero]
    exact (if_neg (by simp)).trans (ticketBody_zero hroom)
  case rdm =>
    intro e s s1 hacc hroom w hform
    refine issue_present rfl hacc ?_
    simp only [hroom, ok_bind]
    exact presentBody_of_form _ hform
  case rdmm =>
    intro e s s1 s2 win l hacc
    dsimp only
    intro hwin hcheck hform
    refine issue_present rfl hacc ?_
    simp only [hwin, hcheck, ok_bind]
    exact presentBody_of_form _ hform
  case drop =>
    intro e s s1 hacc
    dsimp only
    intro hform hlink
    refine issue_accept_ok rfl hacc ?_
    simp only [hform, hlink, Bool.not_true, Bool.false_eq_true, if_false]
    rfl
  case dropLink =>
    intro e s s1 hacc
    dsimp only
    intro hform hlink
    refine issue_present rfl hacc ?_
    simp only [hform, hlink, Bool.not_true, Bool.false_eq_true, if_false, if_true]
  case dropNone =>
    intro e s s1 hacc hform
    refine issue_accept_ok rfl hacc ?_
    simp only [hform, Bool.not_false, if_true]
    rfl

/-! ### The answers of the holding slice (R198, R202 to R204, R206, R223) -/

section Answers

variable {s : State} {t : Nat} {x : Side} {w : Word}

/-- A ticket that fails its checks traps at the strand that presents it. -/
theorem presentTicket_of_fails (how : Present) (h : s.ticketAsked t w = .fails) :
    s.presentTicket t x w how = s.replyTo t x (.trap (TrapInfo.plain .ticketCheck)) := by
  simp only [State.ticketAsked] at h
  simp only [State.presentTicket, h]

theorem presentTicket_of_fenced (how : Present) (h : s.ticketAsked t w = .fenced) :
    s.presentTicket t x w how = s.replyTo t x (.trap (TrapInfo.plain .homeFenced)) := by
  simp only [State.ticketAsked] at h
  simp only [State.presentTicket, h]

/-- The request is a redeem, into registers or into memory, that waits where `wait` says so, its status going to scalar register
`sb`. -/
def Present.redeems (how : Present) (sb : Nat) (wait : Bool) : Prop :=
  ∃ da imm va sw, how = .redeem da imm sb wait ∨ how = .redeemMem va sw sb wait

theorem presentTicket_of_waiting {how : Present} {sb : Nat} (hw : how.redeems sb true) (h : s.ticketAsked t w = .pending) :
    s.presentTicket t x w how = s.awaitTicket t x (ticketKey w) := by
  simp only [State.ticketAsked] at h
  obtain ⟨da, imm, va, sw, rfl | rfl⟩ := hw <;> simp only [State.presentTicket, h]

/-- A redeem of a ticket without data, which does not wait for it, writes its status alone. -/
theorem presentTicket_of_dataless {how : Present} {sb : Nat} {wait : Bool} (hw : how.redeems sb wait)
    (h : s.ticketAsked t w = .spent ∨ s.ticketAsked t w = .expired ∨ s.ticketAsked t w = .pending ∧ wait = false) :
    s.presentTicket t x w how = s.replyTo t x (.done [.s sb (s.ticketAsked t w).code]) := by
  simp only [State.ticketAsked] at h ⊢
  obtain ⟨da, imm, va, sw, rfl | rfl⟩ := hw <;> rcases h with h | h | ⟨h, rfl⟩ <;> simp only [State.presentTicket, h]

theorem presentTicket_stat_of_dataless (dst : Nat)
    (h : s.ticketAsked t w = .spent ∨ s.ticketAsked t w = .expired ∨ s.ticketAsked t w = .pending) :
    s.presentTicket t x w (.stat dst) = s.replyTo t x (.done [.s dst (s.ticketAsked t w).code]) := by
  simp only [State.ticketAsked] at h ⊢
  rcases h with h | h | h <;> simp [State.presentTicket, h, wordOf]

theorem presentTicket_stat_of_ok (dst : Nat) (h : s.ticketAsked t w = .ok) :
    s.presentTicket t x w (.stat dst) = s.replyTo t x (.done [.s dst (wordOf (((s.ticket (ticketKey w)).ends -
      s.cycleOf (sliceDie (ticketSlice w) / 4)) * 2 ^ 32))]) := by
  simp only [State.ticketAsked] at h
  simp [State.presentTicket, h, TicketAnswer.code]

theorem presentTicket_redeem_of_ok (da : Operand) (imm : BitVec 24) (sb : Nat) (wait : Bool) (h : s.ticketAsked t w = .ok) :
    s.presentTicket t x w (.redeem da imm sb wait) =
      s.redeemOk t x w fun e s => s.replyTo t x (.done (redeemWrites (s.strand t x) da imm sb e)) := by
  simp only [State.ticketAsked] at h
  simp only [State.presentTicket, h]

theorem presentTicket_redeemMem_of_ok (va : Word) (sw : BitVec 3) (sb : Nat) (wait : Bool) (h : s.ticketAsked t w = .ok) :
    s.presentTicket t x w (.redeemMem va sw sb wait) = s.redeemOk t x w fun e s =>
      if crossesLink t (sliceDie (ticketSlice w)) then s.replyTo t x (.next (dieOf t) (.redeemed va sw sb e.span e.bytes))
      else s.storeRedeemed t x va sw sb e.span e.bytes := by
  simp only [State.ticketAsked] at h
  simp only [State.presentTicket, h]

theorem redeemOk_of_data (f : Ticket → State → State) (h : (s.ticket (ticketKey w)).fault = none) :
    s.redeemOk t x w f = f (s.ticket (ticketKey w)) (s.freeTicket (ticketKey w) .redeemed) := by
  simp only [State.redeemOk, h]

/-- The recorded cause takes the place of the data. -/
theorem redeemOk_of_fault {i : TrapInfo} (f : Ticket → State → State) (h : (s.ticket (ticketKey w)).fault = some i) :
    s.redeemOk t x w f = (s.freeTicket (ticketKey w) .redeemed).replyTo t x (.trap i) := by
  simp only [State.redeemOk, h]

theorem storeRedeemed_of_stored {s2 : State} {va : Word} {sw : BitVec 3} {span : Nat} {data : VReg} (sb : Nat)
    (h : s.redeemStore t x va sw.toNat data (List.range (8 * span)) = .ok s2) :
    s.storeRedeemed t x va sw sb span data = (s2.drainStores t x).finish t x [.s sb 0] := by
  simp only [State.storeRedeemed, h]

/-- A strand that does not wait for the ticket yet is the last of those that do. -/
theorem awaitTicket_of_new {k : Nat} (h : (s.ticket k).redeems.contains (t, x) = false) :
    s.awaitTicket t x k = (s.setTicket k { s.ticket k with redeems := (s.ticket k).redeems ++ [(t, x)] }).updStrand t x
      fun st => { st with status := .waiting .ticket } := by
  simp only [State.awaitTicket, h, Bool.false_eq_true, if_false]

end Answers

/-- Settles O16: what the holding slice finds decides, and for a READY entry whether it records a cause. -/
theorem ticketAnswers : Obligations.TicketAnswers := by
  unfold Obligations.TicketAnswers
  refine ⟨fun s t x w how => presentTicket_of_fails how, fun s t x w how => presentTicket_of_fenced how,
    fun s t x w da imm sb wait h hdata => ?redeem, fun s s2 t x w va sw sb wait h hdata hlink hstore => ?redeemMem,
    fun s t x w va sw sb wait h hdata hlink => ?redeemAcross, ?redeemed, fun s t x w da imm sb wait i h hfault => ?cause,
    fun s t x w va sw sb wait i h hfault => ?causeMem, ?waits, ?pending, ?status, ?stat,
    fun s t x w dst => presentTicket_stat_of_ok dst⟩
  case redeem => rw [presentTicket_redeem_of_ok _ _ _ _ h, redeemOk_of_data _ hdata]
  case redeemMem =>
    rw [presentTicket_redeemMem_of_ok _ _ _ _ h, redeemOk_of_data _ hdata, if_neg (by simp [hlink]),
      storeRedeemed_of_stored sb hstore]
  case redeemAcross => rw [presentTicket_redeemMem_of_ok _ _ _ _ h, redeemOk_of_data _ hdata, if_pos hlink]
  case redeemed =>
    intro s s2 f va sw sb span data hd hf hp hr hstore
    rw [exec_ticketPresent_of_redeemed hd hf hp hr, storeRedeemed_of_stored sb hstore]
  case cause => rw [presentTicket_redeem_of_ok _ _ _ _ h, redeemOk_of_fault _ hfault]
  case causeMem => rw [presentTicket_redeemMem_of_ok _ _ _ _ h, redeemOk_of_fault _ hfault]
  case waits =>
    intro s t x w how da imm va sw sb hhow h hnew
    rw [presentTicket_of_waiting ⟨da, imm, va, sw, hhow⟩ h, awaitTicket_of_new hnew]
  case pending =>
    intro s t x w how da imm va sw sb hhow h
    rw [presentTicket_of_dataless ⟨da, imm, va, sw, hhow⟩ (.inr (.inr ⟨h, rfl⟩)), h]
    rfl
  case status =>
    intro a code hcode s t x w how da imm va sw sb wait hhow h
    simp only [List.mem_cons, Prod.mk.injEq, List.not_mem_nil, or_false] at hcode
    rcases hcode with ⟨rfl, rfl⟩ | ⟨rfl, rfl⟩
    · rw [presentTicket_of_dataless ⟨da, imm, va, sw, hhow⟩ (.inl h), h]
      rfl
    · rw [presentTicket_of_dataless ⟨da, imm, va, sw, hhow⟩ (.inr (.inl h)), h]
      rfl
  case stat =>
    intro a code hcode s t x w dst h
    simp only [List.mem_cons, Prod.mk.injEq, List.not_mem_nil, or_false] at hcode
    have hasked : s.ticketAsked t w = .spent ∨ s.ticketAsked t w = .expired ∨ s.ticketAsked t w = .pending := by
      rw [h]
      exact hcode.imp And.left (Or.imp And.left And.left)
    rw [presentTicket_stat_of_dataless dst hasked, h]
    rcases hcode with ⟨rfl, rfl⟩ | ⟨rfl, rfl⟩ | ⟨rfl, rfl⟩ <;> rfl

end Sys2Proof.Machine
end

section
/-! PROOFS. Jobs of the copy unit and of the memory-side unit (R207 to R210, R283 to R286, R307, R308): what the rows' bodies hand to
the unit once the checks pass, what a step does with a job by what its next unit is, and O17 and O18 from them. -/

namespace Sys2Proof.Machine

/-! ### Acceptance (R207, R208, R283 to R285, R307, R308) -/

section Acceptance

variable {e : Enc} {s s1 : State} {j : Job}

/-- A job for which the queue has room is accepted, after the strand's own stores. -/
theorem acceptBody_of_room {ms : Bool} (empty : State → State) (h : (s.cluster (clusterOf s.curT)).jobRoom ms j.t j.tok = true) :
    acceptBody s ms j empty =
      .ok (((empty (s.drainStores s.curT s.curX)).acceptJob (clusterOf s.curT) ms j).updMy Strand.advance) :=
  if_neg (by simp [h])

/-- The rows that are the shared body of the copies. -/
theorem exec_copy_row {row : Enc → Instr} {kind : Enc → JobKind} {lease reduce : Bool}
    (h : (row, kind, lease, reduce) ∈ [(Instr.pull, (fun _ => JobKind.pull : Enc → JobKind), false, false),
      (Instr.pullr, (fun e => JobKind.reduce e.ty e.rm e.ftz), false, true), (Instr.cpy, (fun _ => JobKind.pull), true, false)]) :
    ∃ D : Enc → Desc, (∀ e acc, describe acc (row e) = some (e, D e)) ∧
      ∀ e s, exec (row e) s = issue (D e) e s fun s1 => copyBody e s1 (kind e) lease reduce := by
  simp only [List.mem_cons, Prod.mk.injEq, List.not_mem_nil, or_false] at h
  rcases h with ⟨rfl, rfl, rfl, rfl⟩ | ⟨rfl, rfl, rfl, rfl⟩ | ⟨rfl, rfl, rfl, rfl⟩
  · exact ⟨pullDesc, fun _ _ => rfl, fun _ _ => rfl⟩
  · exact ⟨pullrDesc, fun _ _ => rfl, fun _ _ => rfl⟩
  · exact ⟨cpyDesc, fun _ _ => rfl, fun _ _ => rfl⟩

/-- A control word and two ranges that pass their checks leave only the room to be asked for. -/
theorem copyBody_of_checked {kind : JobKind} {lease reduce : Bool} {w w' : Window}
    (hres : ctlReserved (s.my.getS e.sb.idx.toNat) lease = false) (hlen : ctlLen (s.my.getS e.sb.idx.toNat) % 8 = 0)
    (hemp : reduce = true → ctlEmp (s.my.getS e.sb.idx.toNat) = false)
    (hdst : copyRange (effAddr s e) (ctlLen (s.my.getS e.sb.idx.toNat)) true 8 = .ok w)
    (hsrc : copyRange (s.my.getS e.da.idx.toNat) (ctlLen (s.my.getS e.sb.idx.toNat)) false 8 = .ok w') :
    let ctl := s.my.getS e.sb.idx.toNat
    copyBody e s kind lease reduce =
      acceptBody s false (s.newJob s.curT s.curX kind (effAddr s e) e.sw (s.my.getS e.da.idx.toNat) (ctlLen ctl) ctl
        (if lease then ctlLease ctl else none) s.me.syncretry.toNat false)
        fun s2 => if ctlEmp ctl then s2.emptyWords s2.curT w e.sw.toNat (effAddr s e).toNat (ctlLen ctl) else s2 := by
  have hreduce : (reduce && ctlEmp (s.my.getS e.sb.idx.toNat)) = false := by
    cases reduce
    · rfl
    · exact hemp rfl
  simp only [copyBody, hres, hlen, hreduce, hdst, hsrc, ok_bind]
  rfl

/-- The rows that are the shared body of the memory-side commands. -/
theorem exec_ms_row {op : Nat} {row : Enc → Instr}
    (h : (op, row) ∈ [(0, Instr.msadd), (1, .msmul), (2, .msfma), (3, .msscale), (4, .mscopy), (5, .msfill), (6, .msrow),
      (7, .mszero)]) :
    ∃ D : Enc → Desc, (∀ e acc, describe acc (row e) = some (e, D e)) ∧
      ∀ e s, exec (row e) s = issue (D e) e s (msBody op e) := by
  simp only [List.mem_cons, Prod.mk.injEq, List.not_mem_nil, or_false] at h
  rcases h with ⟨rfl, rfl⟩ | ⟨rfl, rfl⟩ | ⟨rfl, rfl⟩ | ⟨rfl, rfl⟩ | ⟨rfl, rfl⟩ | ⟨rfl, rfl⟩ | ⟨rfl, rfl⟩ | ⟨rfl, rfl⟩
  all_goals exact ⟨_, fun _ _ => rfl, fun _ _ => rfl⟩

end Acceptance

/-- Settles O17: each body, its fields and ranges checked, accepts the job where the queue has room. -/
theorem jobRows : Obligations.JobRows := by
  unfold Obligations.JobRows
  refine ⟨?copy, ?cpyL2, ?cpys, ?ms⟩
  case copy =>
    intro row kind lease reduce hrow e s s1 w w' hacc
    dsimp only
    intro hres hlen hemp hdst hsrc hroom
    obtain ⟨D, hd, hx⟩ := exec_copy_row hrow
    rw [hx]
    exact issue_accept_ok (hd e _) hacc ((copyBody_of_checked hres hlen hemp hdst hsrc).trans (acceptBody_of_room _ hroom))
  case cpyL2 =>
    intro e s s1 lid hacc
    dsimp only
    intro hres hemp hlease hlen hrange hroom
    refine issue_accept_ok rfl hacc (.trans ?_ (acceptBody_of_room id hroom))
    simp only [hres, hemp, hlease, hlen, hrange, ok_bind]
    rfl
  case cpys =>
    intro e s s1 w w' hacc
    dsimp only
    intro hres hrows hdst hrowb hda hdstr hsrc hsa hsstr hroom
    have hempty : (((s1.my.getS e.sb.idx.toNat).extractLsb' 0 16).toNat == 0 &&
        ((s1.my.getS e.sb.idx.toNat).extractLsb' 16 16).toNat != 0) = false := by
      simpa using hrows
    refine issue_accept_ok rfl hacc (.trans ?_ (acceptBody_of_room _ hroom))
    simp only [hres, hempty, hdst, hrowb, hda, hdstr, hsrc, hsa, hsstr, ok_bind]
    rfl
  case ms =>
    intro op row hrow e s s1 s2 l hacc hload
    dsimp only
    intro hrec hres hemp hlen hranges hroom
    obtain ⟨D, hd, hx⟩ := exec_ms_row hrow
    rw [hx]
    refine issue_accept_ok (hd e _) hacc (.trans ?_ (acceptBody_of_room id hroom))
    simp only [msBody, hload, hrec, hres, hemp, hlen, hranges, ok_bind]
    rfl

/-! ### The steps of a job (R209, R210, R286) -/

section Steps

variable {s t : State} {c n : Nat} {ms : Bool} {j : Job}

/-- The step that completes a unit of a job, of either queue. -/
theorem exec_unitComplete (ms : Bool) (s : State) :
    exec (if ms then .msLineComplete else .copyBlockComplete) s = .next (s.jobProgress s.actor s.item ms) := by
  cases ms <;> rfl

theorem exec_copyJobFault_of_copy (h : s.runnable s.actor s.item false = some j) :
    exec .copyJobFault s = .next (s.jobFault s.actor s.item false) := by
  show execCopyJobFault s = _
  simp only [execCopyJobFault, h, Option.isNone_some]

theorem exec_copyJobFault_of_ms (h : s.runnable s.actor s.item false = none) :
    exec .copyJobFault s = .next (s.jobFault s.actor s.item true) := by
  show execCopyJobFault s = _
  simp only [execCopyJobFault, h, Option.isNone_none]

theorem jobProgress_of_none (h : s.runnable c n ms = none) : s.jobProgress c n ms = s := by
  simp only [State.jobProgress, h]

theorem jobFault_of_none (h : s.runnable c n ms = none) : s.jobFault c n ms = s := by
  simp only [State.jobFault, h]

/-- A job with nothing left ends. -/
theorem jobProgress_of_over (h : s.runnable c n ms = some j) (ho : j.len ≤ j.ofs) :
    s.jobProgress c n ms = s.endJob c ms j none := by
  simp only [State.jobProgress, h, ge_iff_le, if_pos ho]

section Unit

variable (h : s.runnable c n ms = some j) (ho : j.ofs < j.len)
include h ho

theorem jobProgress_of_done {k : Nat} (ht : s.jobTry c ms j = .done k t) : s.jobProgress c n ms = t.jobDone c ms j k := by
  simp only [State.jobProgress, h, ge_iff_le, if_neg (Nat.not_le.mpr ho), ht]

theorem jobProgress_of_hold (ht : s.jobTry c ms j = .hold t) : s.jobProgress c n ms = t := by
  simp only [State.jobProgress, h, ge_iff_le, if_neg (Nat.not_le.mpr ho), ht]

theorem jobFault_of_fault {f : FaultRec} (ht : s.jobTry c ms j = .fault f t) :
    s.jobFault c n ms = t.endJob c ms j (some f) := by
  simp only [State.jobFault, h, ge_iff_le, if_neg (Nat.not_le.mpr ho), ht]

end Unit

end Steps

/-- Settles O18: what the job's next unit is decides, in the copy unit's queue before the memory-side unit's. -/
theorem jobEvents : Obligations.JobEvents := by
  unfold Obligations.JobEvents
  refine ⟨fun ms s t j k h ho ht => ?done, fun ms s t j h ho ht => ?hold, fun ms s j h ho => ?finished, fun ms s h => ?idle,
    fun s t j f h ho ht => ?copyFault, fun s t j f hc h ho ht => ?msFault, fun s hc h => ?noFault⟩
  case done => rw [exec_unitComplete, jobProgress_of_done h ho ht]
  case hold => rw [exec_unitComplete, jobProgress_of_hold h ho ht]
  case finished => rw [exec_unitComplete, jobProgress_of_over h ho]
  case idle => rw [exec_unitComplete, jobProgress_of_none h]
  case copyFault => rw [exec_copyJobFault_of_copy h, jobFault_of_fault h ho ht]
  case msFault => rw [exec_copyJobFault_of_ms hc, jobFault_of_fault h ho ht]
  case noFault => rw [exec_copyJobFault_of_ms hc, jobFault_of_none h]

end Sys2Proof.Machine
end

section
/-! PROOFS. Fences, pending acquires, cache maintenance and leases (R211 to R218, R226, R232): what decides whether a fence waits and
how far a maintenance row has come, and O20 and O21 from them. -/

namespace Sys2Proof.Machine

/-! ### Fences and acquires (R211, R212, R226, R232) -/

section Fences

variable {s : State} {th : Thread}

theorem exec_fenceComplete_of_free {form scope : Nat} {mask : BitVec 5} (ht : s.thread? s.curT = some th)
    (hs : (th.strand s.curX).status = .waiting (.fence form scope mask))
    (hw : s.fenceWaits s.curT s.curX form scope mask = false) :
    exec .fenceComplete s = .next ((s.fenceEffect s.curT s.curX form scope mask).finish s.curT s.curX []) := by
  show execFenceComplete s = _
  simp only [execFenceComplete, ht, hs, hw, Bool.false_eq_true, if_false]

theorem exec_acquireAtReleaser_of_thread (ht : s.thread? s.curT = some th) :
    exec .acquireAtReleaser s =
      .next (((th.strand s.curX).acquire.foldl (fun r p => r.acquireFrom s.curT p.1 p.2) s).updStrand s.curT s.curX
        fun st => { st with acquire := [] }) := by
  show execAcquireAtReleaser s = _
  simp only [execAcquireAtReleaser, ht]

end Fences

/-- Settles O20: whether covered work is outstanding decides what a fence does. -/
theorem fenceRows : Obligations.FenceRows := by
  unfold Obligations.FenceRows
  exact ⟨fun e s s1 hacc hw => issue_accept_ok rfl hacc (if_neg (by simp [hw])),
    fun e s s1 hacc hw => issue_wait rfl hacc (if_pos hw),
    fun s th form scope mask => exec_fenceComplete_of_free, fun s th => exec_acquireAtReleaser_of_thread⟩

/-! ### Cache maintenance (R213 to R216) -/

section Maintenance

variable {e : Enc} {s s1 : State} {op : Maint} {n k : Nat} {w : Window}

/-- The rows that are the shared body of cache maintenance. -/
theorem exec_maint_row {row : Enc → Instr}
    (h : (row, op) ∈ [(Instr.clean, Maint.clean), (.inval, .inval), (.invalI, .invalI), (.discard, .discard)]) :
    ∃ D : Enc → Desc, (∀ e acc, describe acc (row e) = some (e, D e)) ∧
      ∀ e s, exec (row e) s = issue (D e) e s (maintBody op e) := by
  simp only [List.mem_cons, Prod.mk.injEq, List.not_mem_nil, or_false] at h
  rcases h with ⟨rfl, rfl⟩ | ⟨rfl, rfl⟩ | ⟨rfl, rfl⟩ | ⟨rfl, rfl⟩
  all_goals exact ⟨_, fun _ _ => rfl, fun _ _ => rfl⟩

/-- The last unit of a range leaves `%prog` zero. -/
theorem rangeStep_of_last (h : n ≤ k) :
    s.rangeStep n k = .ok ((s.updMy fun st => { st with prog := 0 }).updMy Strand.advance) :=
  if_pos h

theorem rangeStep_of_more (h : k < n) :
    s.rangeStep n k = .error (.waitIn .more (s.updMy fun st => { st with prog := BitVec.ofNat 64 k })) :=
  if_neg (Nat.not_le.mpr h)

/-- The windows whose lines are cached. -/
def Window.cached (w : Window) : Prop := w = .own ∨ w = .global ∨ w = .pod

/-- A range of a window without cached lines, or one that is behind `%prog`, is done. -/
theorem maintBody_of_nothing (hr : s.maintRange s.curT (effAddr s e) (s.my.getS e.sb.idx.toNat).toNat = .ok (w, s1))
    (h : (s.my.getS e.sb.idx.toNat).toNat ≤ s1.my.prog.toNat ∨ ¬w.cached) : maintBody op e s = s1.rangeStep 0 0 := by
  simp only [maintBody, hr, ok_bind]
  split
  case h_4 => rfl
  all_goals exact if_pos (h.resolve_right (by simp [Window.cached]))

/-- The line at `%prog` of a cached range is dealt with. -/
theorem maintBody_of_line (hr : s.maintRange s.curT (effAddr s e) (s.my.getS e.sb.idx.toNat).toNat = .ok (w, s1))
    (h : s1.my.prog.toNat < (s.my.getS e.sb.idx.toNat).toNat) (hw : w.cached) :
    let at_ := (effAddr s e).toNat + s1.my.prog.toNat
    maintBody op e s = (s1.maintAt s1.curT op (decide (e.gs.toNat ≥ 4)) w at_).rangeStep (s.my.getS e.sb.idx.toNat).toNat
      (at_ / 64 * 64 + 64 - (effAddr s e).toNat) := by
  simp only [maintBody, hr, ok_bind]
  rcases hw with rfl | rfl | rfl <;> exact if_neg (Nat.not_le.mpr h)

end Maintenance

/-! ### Leases (R218) -/

theorem exec_leaseExpiry_of_over {die ctx lid : Nat} {s : State} {l : Lease} (hl : l ∈ s.leases) (hd : l.die = die)
    (hc : l.ctx = ctx) (hi : l.lid = lid) (he : l.ends ≤ s.cycleOf (die / 4)) :
    exec (.leaseExpiry die ctx lid) s = .next (s.endLease die ctx lid) :=
  congrArg Host.Outcome.next (if_pos (List.any_eq_true.mpr ⟨l, hl, by simp [hd, hc, hi, he]⟩))

/-- Settles O21: a maintenance row by how far `%prog` is in its range, the rest by their bodies. -/
theorem maintenanceRows : Obligations.MaintenanceRows := by
  unfold Obligations.MaintenanceRows
  refine ⟨?maint, fun e s s1 hacc => issue_accept_ok rfl hacc rfl, fun e s s1 hacc => issue_accept_ok rfl hacc rfl,
    fun e s s1 hacc => issue_accept_ok rfl hacc rfl, fun die ctx lid s l => exec_leaseExpiry_of_over⟩
  case maint =>
    intro row op hrow e s s1 s2 w hacc
    dsimp only
    intro hr
    obtain ⟨D, hd, hx⟩ := exec_maint_row hrow
    rw [hx]
    refine ⟨fun h => ?nothing, fun h hw hl => ?last, fun h hw hl => ?more⟩
    case nothing =>
      have hnothing : _ ∨ ¬w.cached := h.imp id fun ⟨ho, hg, hp⟩ => by simp [Window.cached, ho, hg, hp]
      exact issue_accept_ok (hd e _) hacc ((maintBody_of_nothing hr hnothing).trans (rangeStep_of_last (Nat.le_refl 0)))
    case last => exact issue_accept_ok (hd e _) hacc ((maintBody_of_line hr h hw).trans (rangeStep_of_last hl))
    case more => exact issue_waitIn (hd e _) hacc ((maintBody_of_line hr h hw).trans (rangeStep_of_more hl))

end Sys2Proof.Machine
end

section
/-! PROOFS. Full/empty words, counters and armed actions (R244 to R257, R265 to R269, R348 to R350): what a word's bit, a counter and
an arm entry decide for the rows and for the steps of their units, and O23, O24 and O27 from them. -/

namespace Sys2Proof.Machine

/-! ### Full/empty words (R244 to R249) -/

section FullEmpty

variable {e : Enc} {s s1 s2 s3 : State} {g : Target}

/-- Both forms of `ldsync` are one body. -/
theorem exec_ldsync_row (take : Bool) :
    ∃ D : Enc → Desc, (∀ e acc, describe acc (if take then .ldsyncTake e else .ldsync e) = some (e, D e)) ∧
      ∀ e s, exec (if take then .ldsyncTake e else .ldsync e) s = issue (D e) e s (ldsyncBody take e) := by
  cases take
  case false => exact ⟨fun e => feDesc e 0, fun _ _ => rfl, fun _ _ => rfl⟩
  case true => exact ⟨fun e => feDesc e 1, fun _ _ => rfl, fun _ _ => rfl⟩

section Ldsync

variable {take : Bool} (hplace : s.fePlace e take false = .ok (g, s2)) (hhome : g.home = clusterOf s2.curT)
  (htouch : (s2.drainStores s2.curT s2.curX).touchStart s2.curT g.key = .ok s3)
include hplace hhome htouch

theorem ldsyncBody_of_full (hfull : s3.feFull g.key = true) (hpoison : s3.poisoned g.key (tyWidth false e.ty / 8) = false) :
    let p := s3.ldsyncRead s2.curT s2.curX g.key e.ty take e.gs.toNat
    ldsyncBody take e s = .ok ((p.2.retire e.la true [.s e.da.idx.toNat p.1]).served g.key 1) := by
  simp only [ldsyncBody, hplace, ok_bind, hhome, htouch, hfull, hpoison, ne_eq, not_true_eq_false, if_true, if_false,
    Bool.false_eq_true]

theorem ldsyncBody_of_empty (hempty : s3.feFull g.key = false) :
    ldsyncBody take e s = .error (.waitIn (.word g.key) { s3 with waiters := s3.waiters ++ [⟨s2.curT, s2.curX, g.key,
      effAddr s3 e, .load e.ty e.da.idx.toNat take e.gs.toNat, false⟩] }) := by
  simp only [ldsyncBody, hplace, ok_bind, hhome, htouch, hempty, ne_eq, not_true_eq_false, if_false, Bool.false_eq_true]

end Ldsync

section Stsync

variable (hacc : accept (.stsync e) s = some s1) (hplace : s1.fePlace e false true = .ok (g, s2))
include hacc hplace

theorem exec_stsync_of_empty (hempty : (s2.drainStores s2.curT s2.curX).feFull g.key = false) :
    let s3 := s2.drainStores s2.curT s2.curX
    exec (.stsync e) s = .next ((s3.stsyncWrite s2.curT s2.curX g.key e.ty (s3.my.getS e.da.idx.toNat) e.gs.toNat).next.served
      g.key 1) := by
  refine issue_accept_ok rfl hacc ?_
  simp only [hplace, ok_bind, hempty, Bool.not_false, if_true]

theorem exec_stsync_of_full (hfull : (s2.drainStores s2.curT s2.curX).feFull g.key = true) :
    let s3 := s2.drainStores s2.curT s2.curX
    exec (.stsync e) s = .next (({ s3 with waiters := s3.waiters ++ [⟨s2.curT, s2.curX, g.key, effAddr s3 e,
      .store e.ty (s3.my.getS e.da.idx.toNat) e.gs.toNat, false⟩] } : State).block s.curT s.curX (.word g.key)) := by
  refine issue_waitIn rfl hacc ?_
  simp only [hplace, ok_bind, hfull, Bool.not_true, Bool.false_eq_true, if_false]

end Stsync

/-- A `feset` of a good range sets the word at `%prog`, unless the range is behind it. -/
theorem exec_feset_of_range {w : Window} (hacc : accept (.feset e) s = some s1)
    (hfield : (s1.my.getS e.sb.idx.toNat).extractLsb' 32 32 = 0)
    (hrange : s1.feRange (effAddr s1 e) (s1.my.getS e.sb.idx.toNat).toNat e.sw.toNat = .ok (w, s2)) :
    let n := (s1.my.getS e.sb.idx.toNat).toNat
    let s3 := s2.drainStores s2.curT s2.curX
    let done := s3.my.prog.toNat
    let k := localKey s3.curT w e.sw.toNat ((effAddr s1 e).toNat + done)
    exec (.feset e) s = .next (s.settle s.curT s.curX (if n ≤ done then s3.rangeStep 0 0
      else ((if e.fn = 1 then s3.setFull k else s3.setEmpty k).served k 8).rangeStep n (done + 8))) := by
  refine (issue_accept rfl hacc).trans ?_
  simp only [hfield, ne_eq, not_true_eq_false, if_false, hrange, ok_bind]

theorem exec_festat_of_admitted (hacc : accept (.festat e) s = some s1)
    (hplace : s1.resolve s1.curT (effAddr s1 e) 1 1 e.sw.toNat .read false = .ok (g, s2)) (hfe : feTarget g = true)
    (hadmit : s2.admitReq (targetDie s2.curT g) 0 = .ok s3) :
    let s4 := s3.drainStores s3.curT s3.curX
    let bits := (List.range 16).foldl (fun a i => if s4.feFull (g.key / 128 * 128 + 8 * i) then a + 2 ^ i else a) 0
    exec (.festat e) s =
      .next (s4.retire e.la false [.s e.da.idx.toNat (wordOf (bits + if bits = 0xFFFF then 0x10000 else 0))]) := by
  refine issue_accept_ok rfl hacc ?_
  simp only [hplace, ok_bind, hfe, Bool.not_true, Bool.false_eq_true, if_false, hadmit]

theorem exec_feWordEvent_of_no_store (h : s.nextStoreAt s.actor = none) :
    exec .feWordEvent s = .next (s.serveWord s.actor (s.waiters.length + 1)) := by
  show execFeWordEvent s = _
  simp only [execFeWordEvent, h]

/-- What the owner's port does with a remote `ldsync`, in the order of the checks. -/
theorem exec_remoteLdsyncRequest_of_arrived {f : Flight} {key : Nat} {va : Word} {ty : Ty} {da scope : Nat}
    (hf : (s.strand s.curT s.curX).flight = some f) (hp : f.phase = .arrived) (hr : f.req = some (.ldsync key va ty da scope))
    (hwait : (s.strand s.curT s.curX).status = .waiting .answer) :
    let w : Waiter := ⟨s.curT, s.curX, key, va, .load ty da false scope, true⟩
    exec .remoteLdsyncRequest s = .next (
      if s.fencedCluster (sramCluster key) then s.replyTo s.curT s.curX (.trap (TrapInfo.at .homeFenced va))
      else if s.feFull key then s.serveOne w
      else if 256 ≤ s.portWaiters key then s.refuse s.curT s.curX
      else ({ s with waiters := s.waiters ++ [w] } : State).updStrand s.curT s.curX fun st =>
        { st with status := .waiting (.word key) }) := by
  show execRemoteLdsyncRequest s = _
  simp only [execRemoteLdsyncRequest, hf, Option.bind_some, Flight.here_of_arrived hp, hr, hwait, ne_eq, not_true_eq_false,
    if_false, ge_iff_le]

end FullEmpty

/-- Settles O23: the word's bit decides for `ldsync`, `stsync` and a remote request, `%prog` for `feset`. -/
theorem fullEmptyRows : Obligations.FullEmptyRows := by
  unfold Obligations.FullEmptyRows
  refine ⟨?ldsync, fun e s s1 s2 g hacc hplace => ⟨exec_stsync_of_empty hacc hplace, exec_stsync_of_full hacc hplace⟩, ?feset,
    fun e s s1 s2 s3 g => exec_festat_of_admitted, fun s => exec_feWordEvent_of_no_store, ?remote⟩
  case ldsync =>
    intro take e s s1 s2 s3 g hacc hplace hhome htouch
    obtain ⟨D, hd, hx⟩ := exec_ldsync_row take
    rw [hx]
    exact ⟨fun hfull hpoison => issue_accept_ok (hd e _) hacc (ldsyncBody_of_full hplace hhome htouch hfull hpoison),
      fun hempty => issue_waitIn (hd e _) hacc (ldsyncBody_of_empty hplace hhome htouch hempty)⟩
  case feset =>
    intro e s s1 s2 w hacc
    dsimp only
    intro hfield hrange
    rw [exec_feset_of_range hacc hfield hrange]
    refine ⟨fun hbehind => ?behind, fun hlt hlast => ?last, fun hmore => ?more⟩
    case behind => rw [if_pos hbehind, rangeStep_of_last (Nat.le_refl 0)]; rfl
    case last => rw [if_neg (Nat.not_le.mpr hlt), rangeStep_of_last hlast]; rfl
    case more => rw [if_neg (by omega), rangeStep_of_more hmore]; rfl
  case remote =>
    intro s f key va ty da scope hf hp hr hwait
    dsimp only
    rw [exec_remoteLdsyncRequest_of_arrived hf hp hr hwait]
    refine ⟨fun hfenced => ?fenced, fun hopen hfull => ?served, fun hopen hempty hroom => ?waits,
      fun hopen hempty hroom => ?refused⟩
    case fenced => rw [if_pos hfenced]
    case served => rw [if_neg (by simp [hopen]), if_pos hfull]
    case waits => rw [if_neg (by simp [hopen]), if_neg (by simp [hempty]), if_neg (Nat.not_le.mpr hroom)]
    case refused => rw [if_neg (by simp [hopen]), if_neg (by simp [hempty]), if_pos hroom]

/-! ### The counter rows (R253 to R257) -/

section CounterRow

variable {e : Enc} {s s1 s2 : State}

section Cinc

variable {b : Word} {wb : List RegWrite} {c k : Nat} (hacc : accept (.cinc e) s = some s1)
  (hread : s1.readScalar e.ty e.imm e.sb = .ok (b, wb, s2)) (href : counterRef s1.curT (s2.my.getS e.sa.idx.toNat) = some (c, k))
include hacc hread href

/-- A `cinc` to its own cluster has completed once the arrival is on its way (log 24). -/
theorem exec_cinc_own (hc : c = clusterOf s1.curT) :
    let p := s2.release s1.curT s1.curX e.gs.toNat
    exec (.cinc e) s = .next (p.2.sendArrival c ⟨k, b.toNat % 2 ^ 32, none, p.2.storeRel s1.curT s1.curX ++ [p.1], none,
      p.2.ctxOf c, some (s1.curT, s1.curX)⟩).next := by
  subst hc
  refine issue_accept_ok rfl hacc ?_
  simp only [hread, ok_bind, href, if_true]

theorem exec_cinc_other (hc : c ≠ clusterOf s1.curT) (hcheck : s2.clusterCheck s1.curT c = none) :
    let p := s2.release s1.curT s1.curX e.gs.toNat
    exec (.cinc e) s = .next (((p.2.updMy fun st => { st with flight := some (newFlight p.2 s1.curT s1.curX (c / 32) 0
      (some (.cinc c k (b.toNat % 2 ^ 32) (p.2.storeRel s1.curT s1.curX ++ [p.1])))) }).joinCinc s1.curT s1.curX).block
        s.curT s.curX .answer) := by
  refine issue_waitIn rfl hacc ?_
  simp only [hread, ok_bind, href, if_neg hc, hcheck]

end Cinc

/-- Both forms of `cwait` are one evaluation of their counter. -/
theorem exec_cwait_row (ph : Bool) :
    ∃ D : Enc → Desc, (∀ e acc, describe acc (if ph then .cwaitPh e else .cwait e) = some (e, D e)) ∧
      ∀ e s, exec (if ph then .cwaitPh e else .cwait e) s = issue (D e) e s fun s1 =>
        s1.evalCwait s1.curT s1.curX (counterNum e) ph (s1.my.getS e.sa.idx.toNat) e.gs.toNat
          (if ph then e.da.idx.toNat else 0) := by
  cases ph
  case false => exact ⟨cwaitDesc, fun _ _ => rfl, fun _ _ => rfl⟩
  case true => exact ⟨cwaitPhDesc, fun _ _ => rfl, fun _ _ => rfl⟩

section Evaluation

variable {t k scope pd : Nat} {x : Side} {ph : Bool} {a : Word}

theorem evalCwait_of_overrun (h : (s.counter (clusterOf t) k).ovr = true) :
    s.evalCwait t x k ph a scope pd = .error (.trapIn ⟨.barrierOverrun, none, BitVec.ofNat 8 k, false, none, some (.overrun k)⟩
      (s.setCounter (clusterOf t) k { s.counter (clusterOf t) k with ovr := false })) :=
  if_pos h

variable (hovr : (s.counter (clusterOf t) k).ovr = false)
include hovr

theorem evalCwait_of_fault {f : FaultRec} (hflt : (s.counter (clusterOf t) k).flt = some f) :
    s.evalCwait t x k ph a scope pd = .error (.trapIn (counterFault k f)
      (s.setCounter (clusterOf t) k { s.counter (clusterOf t) k with flt := none })) := by
  simp only [State.evalCwait, hovr, Bool.false_eq_true, if_false, hflt]

/-- A counter without overrun and fault is asked for the condition. -/
theorem evalCwait_of_clear (hflt : (s.counter (clusterOf t) k).flt = none) :
    let v := s.counter (clusterOf t) k
    let age := (v.ph - a.setWidth 16).toNat
    s.evalCwait t x k ph a scope pd =
      if (if ph then 1 ≤ age ∧ age < 2 ^ 15 else v.val.toNat ≥ a.toNat % 2 ^ 32) then
        .ok ((((s.acquireAll t scope v.rel).acquireSeen t x v.seen).acquireEngine t).finish t x
          (if ph then [.p pd (BitVec.allOnes 256) (allBits (decide (2 ≤ age)))] else []))
      else .error (.wait (.counter k ph a scope pd)) := by
  simp only [State.evalCwait, hovr, Bool.false_eq_true, if_false, hflt]

end Evaluation

end CounterRow

/-! ### Arrivals and posted faults (R251, R252, R256, R348, R349) -/

section Arrive

variable {v : Counter} {m : Nat}

theorem Counter.arrive_count (hp : v.pending = false) (h : v.val.toNat + m ≤ 2 ^ 32 - 1) :
    v.arrive m = { v with val := v.val + BitVec.ofNat 32 m } := by
  rw [Counter.arrive, if_pos (by simp [hp]), if_neg (Nat.not_lt.mpr h)]

theorem Counter.arrive_saturates (hp : v.pending = false) (h : 2 ^ 32 - 1 < v.val.toNat + m) :
    v.arrive m = { v with val := BitVec.allOnes 32, ovr := true } := by
  rw [Counter.arrive, if_pos (by simp [hp]), if_pos h]

theorem Counter.arrive_pending (hp : v.pending = true) (h : m < v.val.toNat) :
    v.arrive m = { v with val := v.val - BitVec.ofNat 32 m } := by
  rw [Counter.arrive, if_neg (by simp [hp]), if_pos h]

theorem Counter.arrive_completes (hp : v.pending = true) (h : v.val.toNat ≤ m) (hm : 0 < m) :
    v.arrive m = { v with val := v.rld, ph := v.ph + 1, ovr := v.ovr || decide (v.val.toNat < m) } := by
  rw [Counter.arrive, if_neg (by simp [hp]), if_neg (Nat.not_lt.mpr h), if_pos hm]

/-- The first fault posted stays. -/
theorem Counter.post_flt (v : Counter) (f : FaultRec) : (v.post f).flt = some (v.flt.getD f) := by
  cases h : v.flt <;> simp [Counter.post, h]

end Arrive

section MakeArrival

variable {s t : State} {c i : Nat} {a : Arrival}

theorem makeArrival_of_live (h : s.steerArrival c a = .live) :
    (∀ f, a.fault = some f → s.makeArrival c a = some ((s.dropArrival c a).postFault c a.ctr f)) ∧
    (a.fault = none → s.makeArrival c a = some ((s.dropArrival c a).arrive c a.ctr a.amt a.watch a.rel)) := by
  unfold State.makeArrival
  rw [h]
  exact ⟨fun f hf => by rw [hf], fun hf => by rw [hf]⟩

theorem makeArrival_of_room (h : s.steerArrival c a = .log i) (hroom : s.logHolds c i a = true) :
    s.makeArrival c a = some ((s.dropArrival c a).appendLog i a.record a.rel (some a) a.watch) := by
  simp only [State.makeArrival, h, hroom, if_true]

theorem makeArrival_of_discard (h : s.steerArrival c a = .discard) : s.makeArrival c a = some (s.dropArrival c a) := by
  simp only [State.makeArrival, h]

/-- No place takes it: the port refuses, or the log has no room. -/
theorem makeArrival_of_no_place (h : s.steerArrival c a = .refuse ∨ ∃ i, s.steerArrival c a = .log i ∧ s.logHolds c i a = false) :
    s.makeArrival c a = none := by
  rcases h with h | ⟨i, h, hroom⟩
  · simp only [State.makeArrival, h]
  · simp only [State.makeArrival, h, hroom, Bool.false_eq_true, if_false]

variable (hfirst : (s.cluster s.actor).arrivals.find? (fun a => a.ctr == s.item) = some a)
include hfirst

theorem exec_counterArrival_of_made (h : s.makeArrival s.actor a = some t) :
    exec .counterArrival s = .next (t.replyCinc s.actor a (.done [])) := by
  show execCounterArrival s = _
  simp only [execCounterArrival, hfirst, h]

/-- Only a `cinc` is told that no place takes its arrival; another arrival stays on its way. -/
theorem exec_counterArrival_of_not_made (h : s.makeArrival s.actor a = none) :
    exec .counterArrival s =
      .next (if a.sender.isSome then (s.dropArrival s.actor a).replyCinc s.actor a .refused else s) := by
  show execCounterArrival s = _
  simp only [execCounterArrival, hfirst, h]

end MakeArrival

/-- Settles O24: the counter's cluster decides for `cinc`, the counter for `cwait` and for what an arrival does to it, and the port for
an arrival on its way. -/
theorem counterRows : Obligations.CounterRows := by
  unfold Obligations.CounterRows
  refine ⟨fun e s s1 s2 b wb c k hacc hread href => ⟨exec_cinc_own hacc hread href, exec_cinc_other hacc hread href⟩,
    fun e s s1 hacc => issue_accept_ok rfl hacc rfl, fun e s s1 hacc => issue_accept_ok rfl hacc rfl, ?cwait,
    writesResult_of_exec (fun _ _ => rfl) fun _ _ => rfl, fun v m => Counter.arrive_count, fun v m => Counter.arrive_saturates,
    fun v m => Counter.arrive_pending, fun v m => Counter.arrive_completes, Counter.post_flt, ?arrival⟩
  case cwait =>
    intro ph e s s1 hacc
    obtain ⟨D, hd, hx⟩ := exec_cwait_row ph
    rw [hx]
    refine ⟨fun hovr => ?overrun, fun f hovr hflt => ?fault, fun hovr hflt hholds => ?holds, fun hovr hflt hholds => ?waits⟩
    case overrun => exact issue_trapIn (hd e _) hacc (evalCwait_of_overrun hovr)
    case fault => exact issue_trapIn (hd e _) hacc (evalCwait_of_fault hovr hflt)
    case holds =>
      refine issue_accept_ok (hd e _) hacc (((evalCwait_of_clear hovr hflt).trans (if_pos hholds)).trans ?_)
      cases ph <;> rfl
    case waits => exact issue_wait (hd e _) hacc ((evalCwait_of_clear hovr hflt).trans (if_neg hholds))
  case arrival =>
    intro s a hfirst
    refine ⟨fun hlive => ?live, fun i hlog hroom => ?logged, fun hgone => ?discarded, fun hno => ?refused⟩
    case live =>
      obtain ⟨posted, arrived⟩ := makeArrival_of_live hlive
      cases hfault : a.fault with
      | some f => exact exec_counterArrival_of_made hfirst (posted f hfault)
      | none => exact exec_counterArrival_of_made hfirst (arrived hfault)
    case logged => exact exec_counterArrival_of_made hfirst (makeArrival_of_room hlog hroom)
    case discarded => exact exec_counterArrival_of_made hfirst (makeArrival_of_discard hgone)
    case refused =>
      rw [exec_counterArrival_of_not_made hfirst (makeArrival_of_no_place hno)]
      exact ⟨fun hs => by rw [if_pos hs]; rfl, fun hs => by rw [if_neg (by simp [hs])]⟩

/-! ### The arm table (R265 to R269) -/

section Arm

variable {e : Enc} {s s1 s2 : State} {l : List Word}

section Record

variable (hacc : accept (.arm e) s = some s1) (hload : s1.recordLoad (effAddr s1 e) e.sw.toNat = .ok (l, s2))
include hacc hload

theorem exec_arm_of_bad (hrec : armRecord l = none) :
    exec (.arm e) s = .next (s2.retire e.la false [.s e.da.idx.toNat 0, .s e.sb.idx.toNat 2]) := by
  refine issue_accept_ok rfl hacc ?_
  simp only [hload, ok_bind, hrec]

theorem exec_arm_of_full {r : ArmRec} (hrec : armRecord l = some r) (hfree : s2.freeArm (clusterOf s2.curT) = none) :
    exec (.arm e) s = .next (s2.retire e.la false [.s e.da.idx.toNat 0, .s e.sb.idx.toNat 1]) := by
  refine issue_accept_ok rfl hacc ?_
  simp only [hload, ok_bind, hrec, hfree]

theorem exec_arm_of_free {r : ArmRec} {n : Nat} (hrec : armRecord l = some r)
    (hfree : s2.freeArm (clusterOf s2.curT) = some n) :
    let c := clusterOf s2.curT
    let g := (s2.armEntry c n).gen + 1
    let s3 : State := { s2 with nextId := s2.nextId + 1 }
    exec (.arm e) s = .next (((s3.setArm c n ⟨g, .armed, r, s3.curT, s3.curX, s3.ctxOf c, s3.me.syncretry.toNat, s2.nextId⟩).retire
      e.la false [.s e.da.idx.toNat (wordOf (n + g.toNat * 128)), .s e.sb.idx.toNat 0]).fireArms c r.ctr) := by
  refine issue_accept_ok rfl hacc ?_
  simp only [hload, ok_bind, hrec, hfree]
  rfl

end Record

/-- What `disarm` answers for an entry of cluster c, and the state after it (R269; log 19). -/
def State.disarmed (s : State) (c n : Nat) : Word × State :=
  let a := s.armEntry c n
  match a.state with
  | .free | .fired => (1, s)
  | .armed => (0, s.setArm c n { a with state := .free })
  | .failed => (2, s.setArm c n { a with state := .free })

/-- A handle names no entry of the cluster: a bit that is reserved, or another generation (R265, R269). -/
def State.noArm (s : State) (c : Nat) (h : Word) : Prop :=
  h.extractLsb' 16 48 ≠ 0 ∨ h.extractLsb' 7 9 ≠ (s.armEntry c (h.extractLsb' 0 7).toNat).gen

section Disarm

variable (hacc : accept (.disarm e) s = some s1)
include hacc

theorem exec_disarm_of_no_entry (hno : s1.noArm (clusterOf s1.curT) (s1.my.getS e.sa.idx.toNat)) :
    exec (.disarm e) s = .next (s1.retire e.la false [.s e.da.idx.toNat 1]) :=
  issue_accept_ok rfl hacc (if_pos hno)

theorem exec_disarm_of_entry (hentry : ¬s1.noArm (clusterOf s1.curT) (s1.my.getS e.sa.idx.toNat)) :
    let p := s1.disarmed (clusterOf s1.curT) ((s1.my.getS e.sa.idx.toNat).extractLsb' 0 7).toNat
    exec (.disarm e) s = .next (p.2.retire e.la false [.s e.da.idx.toNat p.1]) := by
  refine issue_accept_ok rfl hacc ((if_neg hentry).trans ?_)
  unfold State.disarmed
  dsimp only
  generalize s1.armEntry _ _ = a
  cases a.state <;> rfl

end Disarm

end Arm

/-! ### Actions (R267, R268) -/

section Action

variable {s : State} {a : Action}

/-- The state after an action of cluster c has been presented, by what came of it; `now` is the device's cycle. -/
def Action.presented (a : Action) (c now : Nat) : ActionEnd → State
  | .done t => (t.dropAction c a).endEntry c a .free
  | .failed t => (t.dropAction c a).endEntry c a .failed
  | .waits t => t
  | .net b t => t.setAction c a b
  | .refused b t =>
    if a.limit ≤ a.refusals then (t.dropAction c a).endEntry c a .failed
    else t.setAction c a { b with refusals := a.refusals + 1, after := now + 64, net := .idle }

theorem exec_armActionRun_of_next
    (h : nextAction (s.cycleOf (s.actor / 128)) [] (s.cluster s.actor).actions = some a) :
    exec .armActionRun s = .next (a.presented s.actor (s.cycleOf (s.actor / 128)) (s.runAction s.actor a)) := by
  show execArmActionRun s = _
  simp only [execArmActionRun, h]
  cases s.runAction s.actor a with
  | refused b t => exact next_ite_congr (by omega) _ _
  | done | failed | waits | net => rfl

end Action

/-- Settles O27: the record and the table decide for `arm`, the entry for `disarm`, and what comes of it for an action. -/
theorem armRows : Obligations.ArmRows := by
  unfold Obligations.ArmRows
  refine ⟨fun e s s1 s2 l r n hacc hload => exec_arm_of_free hacc hload, fun e s s1 s2 l => exec_arm_of_bad,
    fun e s s1 s2 l r hacc hload => exec_arm_of_full hacc hload, ?disarm, ?action⟩
  case disarm =>
    intro e s s1 hacc
    refine ⟨exec_disarm_of_no_entry hacc, fun hentry hkept => ?kept, fun hentry harmed => ?armed, fun hentry hfailed => ?failed⟩
    all_goals refine (exec_disarm_of_entry hacc hentry).trans ?_
    case kept => rcases hkept with h | h <;> simp only [State.disarmed, h]
    case armed => simp only [State.disarmed, harmed]
    case failed => simp only [State.disarmed, hfailed]
  case action =>
    intro s t a hnext
    rw [exec_armActionRun_of_next hnext]
    refine ⟨fun h => ?done, fun h => ?failed, fun h => ?waits, fun b h => ?net, fun b h hlimit => ?exhausted,
      fun b h hlimit => ?again⟩
    all_goals rw [h]
    case done | failed | waits | net => rfl
    case exhausted => rw [Action.presented, if_pos hlimit]
    case again => rw [Action.presented, if_neg (Nat.not_le.mpr hlimit)]


end Sys2Proof.Machine
end

section
/-! PROOFS. Atomics and reduction slots (R39, R271 to R281): what the place and its die decide for an atomic row, what a slot row does
where its place is admitted, and O28 and O29 from them. -/

namespace Sys2Proof.Machine

/-! ### Acceptance of an atomic (R39, R224, R271, R272, R275) -/

section Atomic

variable {op : AtomicOp} {e : Enc} {s s1 s2 : State} {g : Target} {a : AtomicWait} {die : Nat}

/-- A request that crosses a link and has not been granted is presented. -/
theorem admitReq_of_ungranted {cls : Nat} {fetch : Bool} (hx : crossesLink s.curT die = true)
    (hg : (s.my.flight.any fun f => f.has die fetch) = false) :
    s.admitReq die cls fetch = .error (.waitIn .answer (s.updMy fun st =>
      { st with flight := some (newFlight s s.curT s.curX die cls none fetch) })) :=
  if_neg (by simp [hx, hg])

theorem admitAtomic_of_admitted (h : s.admitReq die 0 = .ok s1) : s.admitAtomic die a = .ok s1 := by
  simp only [State.admitAtomic, h]

/-- The flight that is presented for an atomic carries it. -/
theorem admitAtomic_of_ungranted (hx : crossesLink s.curT die = true) (hg : (s.my.flight.any fun f => f.has die false) = false) :
    s.admitAtomic die a = .error (.waitIn .answer (s.updMy fun st =>
      { st with flight := some { newFlight s s.curT s.curX die 0 none with atomic := some a } })) := by
  simp only [State.admitAtomic, admitReq_of_ungranted hx hg, State.updMy_updMy, Option.map_some]

/-- The atomic that a row asks for at a place of thread t, with the operands of its strand. -/
def State.atomicAsked (s : State) (op : AtomicOp) (e : Enc) (va : Word) (t : Nat) (g : Target) : AtomicWait :=
  let dm := s.lineDomain t g
  ⟨{ op := op, ty := e.ty, key := g.key, va := va, home := g.home, kind := g.kind
     b := s.my.getS e.sb.idx.toNat, d := s.my.getS e.da.idx.toNat, dst := e.da.idx.toNat
     acq := e.gs.getLsbD 0, rel := [], part := dm.1, dom := dm.2.1, ctx := dm.2.2 }, e.gs.getLsbD 1, e.la⟩

/-- Where the place passes its checks, admission alone decides. -/
theorem atomicBody_of_place
    (hplace : s.resolve s.curT (effAddr s e) (tyWidth false e.ty / 8) (tyWidth false e.ty / 8) e.sw.toNat .atomic false = .ok (g, s1))
    (hgood : atomicPlaceBad op e.ty g = none) (htouch : s1.touchRange s1.curT g = .ok s2) :
    let a := s2.atomicAsked op e (effAddr s e) s1.curT g
    atomicBody op e s = (s2.admitAtomic (targetDie s1.curT g) a >>= fun s3 => .ok (s3.acceptAtomic s1.curT s3.curX a)) := by
  simp only [atomicBody, hplace, ok_bind, hgood, htouch]
  rfl

/-- A row that is the shared body of the atomics is accepted with its operation. -/
theorem atomicAccepted_of_exec {row : Enc → Instr} {D : Enc → Desc}
    (hx : ∀ e s, exec (row e) s = issue (D e) e s fun s1 => atomicBody op e s1)
    (hd : ∀ e acc, describe acc (row e) = some (e, D e)) : AtomicAccepted row op := by
  intro e s s1 s2 s3 g hacc hplace hgood htouch
  rw [hx]
  refine ⟨fun s4 hadmit => ?admitted, fun hcross hnew => ?presented⟩
  case admitted =>
    refine issue_accept_ok (hd e _) hacc ((atomicBody_of_place hplace hgood htouch).trans ?_)
    rw [admitAtomic_of_admitted hadmit, ok_bind]
    rfl
  case presented =>
    refine issue_waitIn (hd e _) hacc ((atomicBody_of_place hplace hgood htouch).trans ?_)
    rw [admitAtomic_of_ungranted hcross hnew]
    rfl

section Accept

variable {t : Nat} {x : Side}

/-- An atomic that makes no release records those of the strand's fences (R224). -/
theorem acceptAtomic_near (hrel : a.rel = false) (hnear : ((s.strand t x).flight.filter (·.atomic.isSome)) = none) :
    s.acceptAtomic t x a =
      s.updStrand t x fun st => st.acceptFar a.la (.atomic { a.r with rel := s.storeRel t x }) none := by
  simp only [State.acceptAtomic, hrel, Bool.false_eq_true, if_false, hnear, Option.bind_none]

/-- One that does records its own release after them. -/
theorem acceptAtomic_near_release (hrel : a.rel = true)
    (hnear : (((s.release t x 6).2.strand t x).flight.filter (·.atomic.isSome)) = none) :
    let p := s.release t x 6
    s.acceptAtomic t x a =
      p.2.updStrand t x fun st => st.acceptFar a.la (.atomic { a.r with rel := s.storeRel t x ++ [p.1] }) none := by
  simp only [State.acceptAtomic, hrel, if_true, hnear, Option.bind_none]

/-- The oldest atomic of the strand is the one that executes (R239, R275). -/
theorem exec_atomicExecute_of_first {id : Nat} {th : Thread} {r : AtomicReq} (ht : s.thread? t = some th)
    (hfirst : firstAtomic (th.strand x).pend = some (id, r)) :
    exec (.atomicExecute t x id) s = .next (s.atomicEnd t x id r) := by
  show execAtomicExecute t x id s = _
  simp only [execAtomicExecute, ht, hfirst, if_true]

end Accept

end Atomic

/-- Settles O28: the place and its die decide for a row, the home of the oldest atomic for its execution. -/
theorem atomicRows : Obligations.AtomicRows := by
  unfold Obligations.AtomicRows
  refine ⟨?add, ?and, ?or, ?xor, ?min, ?max, ?swp, ?cas, fun s t x a => ⟨acceptAtomic_near, acceptAtomic_near_release⟩,
    fun t x id s th r ht hfirst hopen => ?performed, fun t x id s th r ht hfirst hfenced => ?fenced⟩
  case add | and | or | xor | min | max | swp | cas => exact atomicAccepted_of_exec (fun _ _ => rfl) fun _ _ => rfl
  case performed => rw [exec_atomicExecute_of_first ht hfirst, State.atomicEnd, if_neg (by simp [hopen])]
  case fenced => rw [exec_atomicExecute_of_first ht hfirst, State.atomicEnd, if_pos hfenced]

/-! ### Reduction slots (R277 to R281) -/

section Slots

variable {e : Enc} {s s1 s2 s3 : State} {g : Target}

theorem exec_rsst_of_admitted (hacc : accept (.rsst e) s = some s1)
    (hplace : s1.slotPlace s1.curT (effAddr s1 e) e.sw.toNat .slotWrite = .ok (g, s2))
    (hadmit : s2.admitReq (targetDie s2.curT g) 0 = .ok s3) :
    let p := s3.storeRelease (e.gs == 2)
    let s4 := p.2.recordRel g.key p.1
    let k := g.key + 8 * packageCore s4.curT
    let v := leBytes 8 ((s4.my.getS e.da.idx.toNat).toNat % 2 ^ tyWidth false e.ty)
    exec (.rsst e) s =
      .next ({ (s4.clearPoison k 8) with mem := memWrite s4.mem k v, sums := tdel s4.sums g.key } : State).next := by
  refine issue_accept_ok rfl hacc ?_
  simp only [hplace, ok_bind, hadmit]

/-- The kept sum is one of the type and the mode of an `rsld` (R280). -/
def KeptSum.servesLoad (k : KeptSum) (e : Enc) : Bool := k.ty == e.ty && k.rm == e.rm && k.ftz == e.ftz && k.sat == e.sat

/-- The sum of a location's 1,024 slots in the type and the mode of an `rsld`, with its flags (R280). -/
def State.slotTotal (s : State) (key : Nat) (e : Enc) : Word × BitVec 5 :=
  let r := if e.ty == .fp32 then slotSumF e.rm e.ftz e.sat (s.slots key)
    else (slotSumI e.sat (tyWidth false e.ty) (s.slots key), 0)
  (extendInt (tySigned e.ty) (tyWidth false e.ty) r.1, r.2)

section Sum

variable {key : Nat}

theorem slotSum_of_kept {k : KeptSum} (h : (tget s.sums key).filter (·.servesLoad e) = some k) :
    s.slotSum key e.ty e.rm e.ftz e.sat = (k.val, k.flags, false, s) := by
  unfold KeptSum.servesLoad at h
  simp only [State.slotSum, h]

variable (hnone : (tget s.sums key).filter (·.servesLoad e) = none)
include hnone

/-- Without such a sum the slots are added, and the bank keeps a sum of sound slots (log 54). -/
theorem slotSum_of_sound (hsound : s.poisoned key 8192 = false) :
    let r := s.slotTotal key e
    s.slotSum key e.ty e.rm e.ftz e.sat =
      (r.1, r.2, false, { s with sums := tset s.sums key ⟨e.ty, e.rm, e.ftz, e.sat, r.1, r.2⟩ }) := by
  unfold KeptSum.servesLoad at hnone
  simp only [State.slotSum, hnone, State.slotTotal, beq_iff_eq, hsound, Bool.false_eq_true, if_false]

theorem slotSum_of_poisoned (hpoison : s.poisoned key 8192 = true) :
    let r := s.slotTotal key e
    s.slotSum key e.ty e.rm e.ftz e.sat = (r.1, r.2, true, s) := by
  unfold KeptSum.servesLoad at hnone
  simp only [State.slotSum, hnone, State.slotTotal, beq_iff_eq, hpoison, if_true]

end Sum

/-- The state in which an `rsld` reads its sum: its location's releases are acquired or observed (R224, R226). -/
def State.slotObserved (s : State) (e : Enc) (g : Target) : State :=
  if e.gs == 1 then s.acquireAll s.curT 6 (s.relOf g.key) else s.updMy fun st => st.observe g.home (s.relOf g.key)

/-- An `rsld` whose place is admitted retires with the sum, or with the fault of a poisoned slot. -/
theorem exec_rsld_of_sum {v : Word} {f : BitVec 5} {bad : Bool} {t : State} (hacc : accept (.rsld e) s = some s1)
    (hplace : s1.slotPlace s1.curT (effAddr s1 e) e.sw.toNat .slotRead = .ok (g, s2))
    (hadmit : s2.admitReq (targetDie s2.curT g) 0 = .ok s3)
    (hsum : (s3.slotObserved e g).slotSum g.key e.ty e.rm e.ftz e.sat = (v, f, bad, t)) :
    exec (.rsld e) s =
      .next (t.retireLoad e.la [.s e.da.idx.toNat v, .fps f] (if bad then some (effAddr t e) else none)) := by
  refine issue_accept_ok rfl hacc ?_
  unfold State.slotObserved at hsum
  simp only [hplace, ok_bind, hadmit, hsum]

section Clear

/-- The pages of the range of an `rsclr`. -/
def clearedPages (va n : Nat) : Nat := if n = 0 then 0 else (va + n - 1) / 65536 - va / 65536 + 1

theorem clearedPages_of_some {va n : Nat} (h : n ≠ 0) : clearedPages va n = (va + n - 1) / 65536 - va / 65536 + 1 := if_neg h

variable {w : Window} (hacc : accept (.rsclr e) s = some s1)
  (hfield : (s1.my.getS e.sb.idx.toNat).extractLsb' 32 32 = 0)
  (hwin : windowCheck (effAddr s1 e).toNat (s1.my.getS e.sb.idx.toNat).toNat 8 .slotWrite false = .ok w)
  (halign : (s1.my.getS e.sb.idx.toNat).toNat % 8 = 0)
  (hpages : s1.slotPages s1.curT e.sw.toNat (clearedPages (effAddr s1 e).toNat (s1.my.getS e.sb.idx.toNat).toNat)
    (effAddr s1 e).toNat = .ok s2)
include hacc hfield hwin halign hpages

/-- An `rsclr` whose range is behind `%prog` is complete. -/
theorem exec_rsclr_of_behind (hbehind : (s1.my.getS e.sb.idx.toNat).toNat ≤ s2.my.prog.toNat) :
    exec (.rsclr e) s = .next (s2.updMy fun st => { st with prog := 0 }).next := by
  unfold clearedPages at hpages
  refine issue_accept_ok rfl hacc ?_
  simp only [hfield, ne_eq, not_true_eq_false, if_false, hwin, halign, hpages, ok_bind, if_pos hbehind]
  exact rangeStep_of_last (Nat.le_refl 0)

/-- An `rsclr` clears the location at `%prog` of its range. -/
theorem exec_rsclr_of_location {s4 : State} (hahead : s2.my.prog.toNat < (s1.my.getS e.sb.idx.toNat).toNat)
    (hplace : s2.slotPlace s2.curT (effAddr s1 e + wordOf s2.my.prog.toNat) e.sw.toNat .slotWrite = .ok (g, s3))
    (hadmit : s3.admitReq (targetDie s3.curT g) 0 = .ok s4) :
    let p := s4.storeRelease (e.gs == 2)
    exec (.rsclr e) s = .next (s.settle s.curT s.curX (((p.2.clearSlots g.key).recordRel g.key p.1).rangeStep
      (s1.my.getS e.sb.idx.toNat).toNat (s2.my.prog.toNat + 8))) := by
  unfold clearedPages at hpages
  refine (issue_accept rfl hacc).trans ?_
  simp only [hfield, ne_eq, not_true_eq_false, if_false, hwin, halign, hpages, ok_bind, if_neg (Nat.not_le.mpr hahead), hplace,
    hadmit]

end Clear

end Slots

/-- Settles O29: the bank's kept sum and the poison of the slots decide for `rsld`, `%prog` for `rsclr`. -/
theorem slotRows : Obligations.SlotRows := by
  unfold Obligations.SlotRows
  refine ⟨fun e s s1 s2 s3 g => exec_rsst_of_admitted, ?load, ?clear, ?empty⟩
  case load =>
    intro e s s1 s2 s3 g hacc hplace hadmit
    refine ⟨fun k hkept => ?kept, fun hnone hsound => ?added, fun hnone hpoison => ?poisoned⟩
    case kept => exact exec_rsld_of_sum hacc hplace hadmit (slotSum_of_kept hkept)
    case added => exact exec_rsld_of_sum hacc hplace hadmit (slotSum_of_sound hnone hsound)
    case poisoned => exact exec_rsld_of_sum hacc hplace hadmit (slotSum_of_poisoned hnone hpoison)
  case clear =>
    intro e s s1 s2 s3 s4 w g hacc
    dsimp only
    intro hfield hwin halign hsome hpages hahead hplace hadmit
    rw [← clearedPages_of_some hsome] at hpages
    rw [exec_rsclr_of_location hacc hfield hwin halign hpages hahead hplace hadmit]
    refine ⟨fun hlast => ?last, fun hmore => ?more⟩
    case last => rw [rangeStep_of_last hlast]; rfl
    case more => rw [rangeStep_of_more hmore]; rfl
  case empty =>
    intro e s s1 w hacc hzero hwin
    refine exec_rsclr_of_behind hacc ?field (w := w) ?win ?align ?pages ?behind
    all_goals rw [hzero]
    case win => exact hwin
    case field | align | pages => rfl
    case behind => exact Nat.zero_le _

end Sys2Proof.Machine
end

section
/-! PROOFS. The region table and the matrix unit (R293 to R298, R302 to R306): what a record and the table decide for `rgset`, what
its entry for `rgclr` and for the steps of its copy, what the running operation for a k-step, and O19 and O31 from them. -/

namespace Sys2Proof.Machine

/-! ### The region table (R302 to R306) -/

section Regions

variable {e : Enc} {s s1 s2 t : State}

section Set

variable {l : List Word} {win : Window} {va len rowb n : Nat} {src sstr : Word} {ctr : Option Nat}
  (hacc : accept (.rgset e) s = some s1) (hload : s1.recordLoad (effAddr s1 e) e.sw.toNat = .ok (l, s2))
include hacc hload

theorem exec_rgset_of_badRecord (hrec : regionRecord l = none) :
    exec (.rgset e) s = .next (s2.retire e.la false [.s e.da.idx.toNat 0, .s e.sb.idx.toNat 2]) := by
  refine issue_accept_ok rfl hacc ?_
  simp only [hload, ok_bind, hrec]

variable (hrec : regionRecord l = some (win, va, len, rowb, src, sstr, ctr))
include hrec

theorem exec_rgset_of_overlap (hover : s2.regionOverlap (clusterOf s2.curT) (localKey s2.curT win 0 va) len = true) :
    exec (.rgset e) s = .next (s2.retire e.la false [.s e.da.idx.toNat 0, .s e.sb.idx.toNat 3]) := by
  refine issue_accept_ok rfl hacc ?_
  simp only [hload, ok_bind, hrec, hover, if_true]

variable (hclear : s2.regionOverlap (clusterOf s2.curT) (localKey s2.curT win 0 va) len = false)
include hclear

theorem exec_rgset_of_full
    (hnone : (List.range 64).find? (fun n => (s2.region (clusterOf s2.curT) n).state == .free) = none) :
    exec (.rgset e) s = .next (s2.retire e.la false [.s e.da.idx.toNat 0, .s e.sb.idx.toNat 1]) := by
  refine issue_accept_ok rfl hacc ?_
  simp only [hload, ok_bind, hrec, hclear, Bool.false_eq_true, if_false, hnone]

/-- The lowest free entry takes the region, whose words are emptied. -/
theorem exec_rgset_of_free
    (hfree : (List.range 64).find? (fun n => (s2.region (clusterOf s2.curT) n).state == .free) = some n) :
    let c := clusterOf s2.curT
    let key := localKey s2.curT win 0 va
    let g := (s2.region c n).gen + 1
    let s3 := (s2.drainStores s2.curT s2.curX).setRegion c n
      { gen := g, state := .absent, win := key, len := len, rowb := rowb, src := src, sstr := sstr, ctr := ctr, rows := 0
        fault := none, core := coreOf s2.curT, t := s2.curT, ctx := s2.threadCtx s2.curT, touched := [], refusals := 0
        after := 0, pages := [], net := .idle }
    exec (.rgset e) s = .next (((List.range (len / 8)).foldl (fun s i => (s.setEmpty (key + 8 * i)).served (key + 8 * i) 8)
      s3).retire e.la false [.s e.da.idx.toNat (wordOf (n + g.toNat * 64)), .s e.sb.idx.toNat 0]) := by
  refine issue_accept_ok rfl hacc ?_
  simp only [hload, ok_bind, hrec, hclear, Bool.false_eq_true, if_false, hfree]

end Set

section Clear

variable {n : Nat} {r : Region} (hacc : accept (.rgclr e) s = some s1)
include hacc

theorem exec_rgclr_of_no_entry (hnone : s1.regionHandle (clusterOf s1.curT) (s1.my.getS e.sa.idx.toNat) = none) :
    exec (.rgclr e) s = .next (s1.retire e.la false [.s e.da.idx.toNat 1]) := by
  refine issue_accept_ok rfl hacc ?_
  simp only [hnone]

variable (hentry : s1.regionHandle (clusterOf s1.curT) (s1.my.getS e.sa.idx.toNat) = some (n, r))
include hentry

theorem exec_rgclr_of_idle (hidle : r.state ≠ .filling) :
    exec (.rgclr e) s = .next ((s1.setRegion (clusterOf s1.curT) n { Region.zero with gen := r.gen }).retire e.la false
      [.s e.da.idx.toNat 0]) := by
  refine issue_accept_ok rfl hacc ?_
  simp only [hentry, if_neg hidle]

theorem exec_rgclr_of_filling (hfill : r.state = .filling) :
    exec (.rgclr e) s = .next (s.block s.curT s.curX (.region n e.da.idx.toNat)) := by
  refine issue_wait rfl hacc ?_
  simp only [hentry, if_pos hfill]

end Clear

section Row

variable (hfill : (s.region s.actor s.item).state = .filling)
  (hdue : (s.region s.actor s.item).after ≤ s.cycleOf (s.actor / 128))
include hfill hdue

theorem exec_regionCopyRow_of_done (h : s.regionStep s.actor s.item (s.region s.actor s.item) = .done t) :
    exec .regionCopyRow s = .next t := by
  show execRegionCopyRow s = _
  simp only [execRegionCopyRow, if_pos (And.intro hfill hdue), h]

theorem exec_regionCopyRow_of_hold (h : s.regionStep s.actor s.item (s.region s.actor s.item) = .hold t) :
    exec .regionCopyRow s = .next t := by
  show execRegionCopyRow s = _
  simp only [execRegionCopyRow, if_pos (And.intro hfill hdue), h]

theorem exec_regionCopyFault_of_fault {f : FaultRec}
    (h : s.regionStep s.actor s.item (s.region s.actor s.item) = .fault f t) :
    exec .regionCopyFault s = .next (t.faultRegion s.actor s.item (t.region s.actor s.item) f) := by
  show execRegionCopyFault s = _
  simp only [execRegionCopyFault, if_pos (And.intro hfill hdue), h]

end Row

end Regions

/-- Settles O19: the record, the occupied windows and the free entries decide for `rgset`, the entry for `rgclr`, and what its next
row meets for the copy of a FILLING one. -/
theorem regionRows : Obligations.RegionRows := by
  unfold Obligations.RegionRows
  exact ⟨fun e s s1 s2 l win va len rowb src sstr ctr n => exec_rgset_of_free,
    fun e s s1 s2 l => exec_rgset_of_badRecord,
    fun e s s1 s2 l win va len rowb src sstr ctr => exec_rgset_of_overlap,
    fun e s s1 s2 l win va len rowb src sstr ctr => exec_rgset_of_full,
    fun e s s1 n r => exec_rgclr_of_idle, fun e s s1 n r => exec_rgclr_of_filling, fun e s s1 => exec_rgclr_of_no_entry,
    writesResult_of_exec (fun _ _ => rfl) fun _ _ => rfl,
    fun s t hfill hdue h => h.elim (exec_regionCopyRow_of_done hfill hdue) (exec_regionCopyRow_of_hold hfill hdue),
    fun s t f hfill hdue => exec_regionCopyFault_of_fault hfill hdue⟩

/-! ### The matrix unit (R293 to R298) -/

section Matrix

variable {s : State} {q : QueuedMat}

theorem exec_matrixOperandFetch_of_missing (hq : s.queued s.actor s.item = some q)
    (hst : q.state = .running ∨ q.state = .stalled) (hmiss : (s.missing q).isEmpty = false) :
    exec .matrixOperandFetch s = .next (s.fetchFirst s.actor q (s.missing q)) := by
  have hfetch : ((q.state == .running || q.state == .stalled) && !(s.missing q).isEmpty) = true := by simp [hst, hmiss]
  show execMatrixOperandFetch s = _
  simp only [execMatrixOperandFetch, hq, if_pos hfetch]

theorem exec_matrixOperandFetch_of_complete (hq : s.queued s.actor s.item = some q) (hmiss : (s.missing q).isEmpty = true) :
    exec .matrixOperandFetch s = .next s := by
  have hidle : ¬((q.state == .running || q.state == .stalled) && !(s.missing q).isEmpty) = true := by simp [hmiss]
  show execMatrixOperandFetch s = _
  simp only [execMatrixOperandFetch, hq, if_neg hidle]

/-- One step of an operation of core k, once its lines are there: a k-step of a multiply, where one is left and its latch is there,
or the whole of a tile instruction. -/
def State.opStep (s : State) (k : Nat) (q : QueuedMat) : State :=
  match q.op with
  | .mma m => (if s.matProg q > m.ks then s else s.mmaStep k q m).boundary k q.id
  | .mring key m => (if (m.at (s.matProg q)).1 < ringSize key ∧ s.latchReady k q = true then s.ringStep k q key m
      else s).boundary k q.id
  | .scacc rm sat ftz d i er ec => s.scaccStep k q rm sat ftz d i er ec
  | .cld d a st _ => s.cldStep k q d a st
  | .cst d a st sw => s.cstStep k q d a st sw.toNat
  | .czero d => (s.setTile k d ⟨List.replicate 4096 0, false, 0⟩).doneOp k q 0

section Kstep

variable (hq : (s.core s.actor).queue.find? (fun q => q.state == .running) = some q)
include hq

theorem exec_matrixKstep_of_missing (hmiss : (s.missing q).isEmpty = false) : exec .matrixKstep s = .next s := by
  show execMatrixKstep s = _
  simp only [execMatrixKstep, hq, hmiss, Bool.not_false, if_true]

/-- A running operation with nothing missing takes its step. -/
theorem exec_matrixKstep_of_ready (hmiss : (s.missing q).isEmpty = true) :
    exec .matrixKstep s = .next (s.opStep s.actor q) := by
  show execMatrixKstep s = _
  simp only [execMatrixKstep, hq, hmiss, Bool.not_true, Bool.false_eq_true, if_false, State.opStep]
  cases q.op with
  | mring key m =>
    by_cases hpast : (m.at (s.matProg q)).1 ≥ ringSize key
    · simp only [if_pos hpast, Nat.not_lt.mpr hpast, false_and, if_false]
    · by_cases hlatch : s.latchReady s.actor q = true
      · simp only [if_neg hpast, if_pos hlatch, if_pos (And.intro (Nat.lt_of_not_ge hpast) hlatch)]
      · simp only [if_neg hpast, if_neg hlatch, if_neg (fun h : _ ∧ _ => hlatch h.2)]
  | mma | scacc | cld | cst | czero => rfl

end Kstep

end Matrix

/-- Settles O31: a running operation's kind decides for its step, its missing lines for a fetch, and the members of a group for the
forming of its ring. -/
theorem matrixEvents : Obligations.MatrixEvents := by
  unfold Obligations.MatrixEvents
  refine ⟨fun s => rfl, fun s => rfl, fun s q => exec_matrixOperandFetch_of_missing,
    fun s q => exec_matrixOperandFetch_of_complete, fun s q => exec_matrixKstep_of_missing,
    fun s q m hq hmiss hop => ?mma, fun s q key m hq hmiss hop => ?mring, fun s q rm sat ftz d i er ec hq hmiss hop => ?scacc,
    fun s q d a st sw hq hmiss hop => ?cld, fun s q d a st sw hq hmiss hop => ?cst, fun s q d hq hmiss hop => ?czero,
    fun s ring p rest hring hcand => ?form, fun s => ?latch, fun s r hr => ?expiry⟩
  case mma | mring | scacc | cld | cst | czero =>
    rw [exec_matrixKstep_of_ready hq hmiss]
    simp only [State.opStep, hop]
  case form =>
    show execRingGroupForm s = _
    simp only [execRingGroupForm, hring, hcand]
    exact next_ite_congr (by simp) _ _
  case latch =>
    refine congrArg (fun f => Host.Outcome.next (s.updRings (s.actor / 8) fun l => l.map f)) (funext fun r => ?_)
    cases hformed : r.formed
    case false => simp only [hformed, Bool.false_eq_true, if_false]
    case true =>
      cases hmine : r.parts.find? fun p => p.core == s.actor && r.latches.any fun l => l.pos == p.pos && !l.arrived
      case none => simp only [hformed, if_true, hmine, Option.map_none]
      case some p => simp only [hformed, if_true, hmine, Option.map_some]
  case expiry =>
    show execRingWatchdogExpiry s = _
    simp only [execRingWatchdogExpiry, hr]

end Sys2Proof.Machine
end

section
/-! PROOFS. Fills, paste errors and the periodic counts of the shared cache (R234, R317, R318, R321, R384): what becomes of a fill
whose data has come, and O22 from it. -/

namespace Sys2Proof.Machine

section Fills

variable {s : State} {f : Fill}

/-- The actor's fill is no longer on its way. -/
def State.fillTaken (s : State) : State := { s with fills := s.fills.filter fun q => q.id != s.actor }

/-- A slice installs nothing for a fill whose line it holds or whose line is poisoned, nor a replica of a page that has gone back
to memory-side mode (R234, R317, R384). -/
def State.dropsFill (s : State) (f : Fill) : Prop :=
  (s.findRind f.slice f.line).isSome = true ∨ s.linePoisoned (homeSlice f.home (f.line * 64)) (f.line * 64) 64 = true ∨
  s.fillKept f = false

theorem State.dropsFill_iff (s : State) (f : Fill) :
    ((s.findRind f.slice f.line).isSome || s.linePoisoned (homeSlice f.home (f.line * 64)) (f.line * 64) 64 ||
      !s.fillKept f) = true ↔ s.dropsFill f := by
  simp only [State.dropsFill, Bool.or_eq_true, Bool.not_eq_true', or_assoc]

theorem exec_l2LineInstall_of_dropped (h : s.fills.find? (fun f => f.id == s.actor && !f.onWay) = some f)
    (hd : s.fillTaken.dropsFill f) : exec .l2LineInstall s = .next s.fillTaken := by
  show execL2LineInstall s = _
  simp only [execL2LineInstall, h]
  exact congrArg Host.Outcome.next (if_pos ((s.fillTaken.dropsFill_iff f).mpr hd))

theorem exec_l2LineInstall_of_kept (h : s.fills.find? (fun f => f.id == s.actor && !f.onWay) = some f)
    (hd : ¬s.fillTaken.dropsFill f) :
    exec .l2LineInstall s = .next ((s.fillTaken.install
      ⟨f.slice, f.line, f.home, s.fillTaken.fillData f, f.part, f.dom, f.ctx, false, false⟩ f.pin).addSharer f) := by
  show execL2LineInstall s = _
  simp only [execL2LineInstall, h]
  exact congrArg Host.Outcome.next (if_neg (mt (s.fillTaken.dropsFill_iff f).mp hd))

/-- A fill that no longer is, or whose data is on its way. -/
theorem exec_l2LineInstall_of_no_data (h : s.fills.find? (fun f => f.id == s.actor && !f.onWay) = none) :
    exec .l2LineInstall s = .next s := by
  show execL2LineInstall s = _
  simp only [execL2LineInstall, h]

end Fills

/-- Settles O22: a fill by what its slice holds of its line, the periodic counts by the cycle. -/
theorem sharedCacheEvents : Obligations.SharedCacheEvents := by
  unfold Obligations.SharedCacheEvents
  refine ⟨fun s f h => ⟨fun hheld hpsn hkept => ?kept, exec_l2LineInstall_of_dropped h⟩, fun s => exec_l2LineInstall_of_no_data,
    fun s => rfl, fun s h => ?report, fun s h => ?noReport, fun s h => ?clear, fun s h => ?noClear⟩
  case kept =>
    refine exec_l2LineInstall_of_kept h ?_
    rintro (hd | hd | hd)
    · exact absurd hd (ne_true_of_eq_false hheld)
    · exact absurd hd (ne_true_of_eq_false hpsn)
    · exact absurd hkept (ne_true_of_eq_false hd)
  case report | clear => exact congrArg Host.Outcome.next (if_pos h)
  case noReport | noClear => exact congrArg Host.Outcome.next (if_neg h)

end Sys2Proof.Machine
end

section
/-! PROOFS. Pre-emption, contexts and translation (R334, R335, R338, R342, R343, R351, R353): what each row of the scheduler
answers for its operands and the state of the cluster that it names, and O34 to O37 from them. -/

namespace Sys2Proof.Machine

/-! ### Pre-emption and resumption (R338, R342, R353) -/

section Resume

variable {e : Enc} {s s1 : State}

theorem exec_preempt_of_cluster (h : accept (.preempt e) s = some s1) (ha : pclBad (s1.my.getS e.sa.idx.toNat) = false) :
    let l := (scopeClusters (deviceOf s1.curT) (s1.my.getS e.sa.idx.toNat).toNat e.gs.toNat).filter fun c =>
      (s1.cluster c).run == .running
    exec (.preempt e) s = .next ((l.foldl (fun s c => s.haltCluster c) s1).retire e.la false
      [.s e.da.idx.toNat (wordOf l.length)]) :=
  issue_accept_ok rfl h (if_neg (ne_true_of_eq_false ha))

/-- The cluster that SA names. -/
def State.namedCluster (s : State) (e : Enc) : Nat := deviceOf s.curT * 128 + (s.my.getS e.sa.idx.toNat).toNat

theorem exec_resumeRun_of_cluster (h : accept (.resumeRun e) s = some s1) (ha : pclBad (s1.my.getS e.sa.idx.toNat) = false) :
    exec (.resumeRun e) s = .next (if (s1.cluster (s1.namedCluster e)).run = .halted then
      (s1.updCluster (s1.namedCluster e) fun cl => { cl with run := .running }).retire e.la false [.s e.da.idx.toNat 0]
      else s1.retire e.la false [.s e.da.idx.toNat 1]) :=
  issue_accept_ok rfl h ((if_neg (ne_true_of_eq_false ha)).trans (apply_ite Except.ok _ _ _).symm)

theorem exec_of_reserved_cluster (ha : pclBad (s1.my.getS e.sa.idx.toNat) = true) :
    ∀ row ∈ [Instr.preempt, .resumeRun], accept (row e) s = some s1 →
      exec (row e) s = .next (s.raise s.curT s.curX (TrapInfo.plain .reservedField)) := by
  simp only [List.forall_mem_cons, List.not_mem_nil, false_implies, implies_true, and_true]
  exact ⟨fun h => issue_trap rfl h (if_pos ha), fun h => issue_trap rfl h (if_pos ha)⟩

/-- A write of a scalar register retires without moving any strand but the issuing one. -/
theorem State.retire_scalar_strand (s : State) (la : BitVec 4) (n : Nat) (v : Word) {t : Nat} {x : Side}
    (h : t ≠ s.curT ∨ x ≠ s.curX) : (s.retire la false [.s n v]).strand t x = s.strand t x := by
  show ((s.retire la false [.s n v]).thread t).strand x = (s.thread t).strand x
  by_cases ht : t = s.curT
  case neg => exact congrArg (Thread.strand · x) (State.thread_setThread_ne s _ ht)
  case pos =>
    have hx : x ≠ s.curX := h.resolve_left (not_not_intro ht)
    rw [ht, State.retire_short_thread, Thread.strand_setStrand_ne _ _ hx]
    exact Thread.strand_setStrand_ne _ _ hx

/-- A name in SA whose thread's held jobs the issuing thread may restart: its context and partition are its own (R336, R353). -/
structure State.ownsThread (s : State) (a : Word) : Prop where
  reserved : a.extractLsb' 24 40 = 0
  context : s.threadCtx a.toNat = s.threadCtx s.curT
  partition : (s.cluster (clusterOf a.toNat)).part = (s.cluster (clusterOf s.curT)).part

theorem exec_resumeJob_of_reserved (h : accept (.resumeJob e) s = some s1)
    (hb : (s1.my.getS e.sb.idx.toNat).extractLsb' 3 61 ≠ 0) :
    exec (.resumeJob e) s = .next (s.raise s.curT s.curX (TrapInfo.plain .reservedField)) :=
  issue_trap rfl h (if_pos hb)

theorem exec_resumeJob_of_stranger (h : accept (.resumeJob e) s = some s1)
    (hb : (s1.my.getS e.sb.idx.toNat).extractLsb' 3 61 = 0)
    (ht : s1.thread? (s1.my.getS e.sa.idx.toNat).toNat = none ∨ ¬s1.ownsThread (s1.my.getS e.sa.idx.toNat)) :
    exec (.resumeJob e) s = .next (s1.retire e.la false [.s e.da.idx.toNat 2]) := by
  refine issue_accept_ok rfl h ?_
  dsimp only
  rw [if_neg (not_not_intro hb)]
  split
  case h_1 => rfl
  case h_2 th hth =>
    obtain ⟨ha, hth⟩ : _ ∧ _ := by simpa using hth
    refine if_pos (Classical.not_and_iff_not_or_not.mp fun ⟨hctx, hpart⟩ => ?_)
    rcases ht with ht | ht
    · rw [ht] at hth; cases hth
    · exact ht ⟨ha, hctx, hpart⟩

/-- A job of thread t that is held for its token (R353). -/
def Job.heldFor (t tok : Nat) (j : Job) : Bool := j.held && j.t == t && j.tok == some tok

/-- The jobs of a thread that are held for a token restart, and the token counts them again (R353). -/
def State.restartJobs (s : State) (t tok limit : Nat) : State :=
  (s.updCluster (clusterOf t) fun cl => { cl with
    copyQ := cl.copyQ.map fun j => if j.heldFor t tok then j.restart limit (s.now t) else j
    msQ := cl.msQ.map fun j => if j.heldFor t tok then j.restart limit (s.now t) else j }).updTok t tok Token.add

theorem exec_resumeJob_of_own {th : Thread} (h : accept (.resumeJob e) s = some s1)
    (hb : (s1.my.getS e.sb.idx.toNat).extractLsb' 3 61 = 0)
    (ht : s1.thread? (s1.my.getS e.sa.idx.toNat).toNat = some th) (ho : s1.ownsThread (s1.my.getS e.sa.idx.toNat)) :
    let t := (s1.my.getS e.sa.idx.toNat).toNat
    let tok := (s1.my.getS e.sb.idx.toNat).toNat
    exec (.resumeJob e) s = .next (
      if (s1.cluster (clusterOf t)).copyQ.any (Job.heldFor t tok) || (s1.cluster (clusterOf t)).msQ.any (Job.heldFor t tok) then
        (s1.restartJobs t tok th.syncretry.toNat).retire e.la false [.s e.da.idx.toNat 0]
      else s1.retire e.la false [.s e.da.idx.toNat 1]) := by
  obtain ⟨ha, hctx, hpart⟩ := ho
  refine issue_accept_ok rfl h ?_
  dsimp only
  rw [if_neg (not_not_intro hb), if_pos ha, ht]
  dsimp only
  rw [if_neg (by simp [hctx, hpart])]
  split
  case isTrue hn => exact congrArg Except.ok (if_neg (ne_true_of_eq_false ((Bool.not_eq_true' _).mp hn))).symm
  case isFalse hn => exact congrArg Except.ok (if_pos ((Bool.not_eq_false _).mp (mt (Bool.not_eq_true' _).mpr hn))).symm

end Resume

/-- Settles O34: `preempt` by its scope, `resume.job` by whose thread SA names. -/
theorem preemptResume : Obligations.PreemptResume := by
  unfold Obligations.PreemptResume
  refine ⟨fun e s s1 => exec_preempt_of_cluster, ?own, ?stranger, fun e s s1 => exec_resumeJob_of_reserved,
    fun row hrow e s s1 hacc ha => exec_of_reserved_cluster ha row hrow hacc⟩
  case own =>
    intro e s s1 hacc
    dsimp only
    intro hb th ha ht hctx hpart
    exact exec_resumeJob_of_own hacc hb ht ⟨ha, hctx, hpart⟩
  case stranger =>
    intro e s s1 hacc
    dsimp only
    intro hb hs
    refine exec_resumeJob_of_stranger hacc hb ?_
    rcases hs with ha | ht | hctx | hpart
    · exact .inr fun ho => ha ho.reserved
    · exact .inl ht
    · exact .inr fun ho => hctx ho.context
    · exact .inr fun ho => hpart ho.partition

/-- Settles O35: the cluster's run state decides, and neither its update nor a scalar result moves another strand. -/
theorem resumeRun : Obligations.ResumeRun := by
  unfold Obligations.ResumeRun
  intro e s s1 hacc ha
  dsimp only
  rw [exec_resumeRun_of_cluster hacc ha]
  exact ⟨fun hr => congrArg Host.Outcome.next (if_pos hr),
    fun t x h => congrArg Strand.pc (State.retire_scalar_strand (s1.updCluster _ _) _ _ _ h),
    fun hr => congrArg Host.Outcome.next (if_neg hr)⟩

/-! ### Contexts (R343, R351) -/

section Contexts

variable {e : Enc} {s s1 : State}

/-- SB's control word, and SA, pass the checks that every row of a save area makes. -/
def State.areaFields (s : State) (e : Enc) : Prop :=
  pclBad (s.my.getS e.sa.idx.toNat) = false ∧ ctlAreaBad (s.my.getS e.sb.idx.toNat) = false

theorem State.areaFields_iff (s : State) (e : Enc) :
    ¬(pclBad (s.my.getS e.sa.idx.toNat) || ctlAreaBad (s.my.getS e.sb.idx.toNat)) = true ↔ s.areaFields e := by
  simp [State.areaFields]

theorem State.not_areaFields (s : State) (e : Enc)
    (h : pclBad (s.my.getS e.sa.idx.toNat) = true ∨ ctlAreaBad (s.my.getS e.sb.idx.toNat) = true) : ¬s.areaFields e :=
  fun ⟨ha, hb⟩ => h.elim (ne_true_of_eq_false ha) (ne_true_of_eq_false hb)

theorem exec_of_reserved_area (ha : ¬s1.areaFields e) :
    ∀ row ∈ [Instr.ctxsave, .ctxload, .ctxloadDrop], accept (row e) s = some s1 →
      exec (row e) s = .next (s.raise s.curT s.curX (TrapInfo.plain .reservedField)) := by
  have hbad := Classical.not_not.mp (mt (s1.areaFields_iff e).mp ha)
  simp only [List.forall_mem_cons, List.not_mem_nil, false_implies, implies_true, and_true]
  exact ⟨fun h => issue_trap rfl h (if_pos hbad), fun h => issue_trap rfl h (if_pos hbad),
    fun h => issue_trap rfl h (if_pos hbad)⟩

/-- The save area that SB names. -/
def State.namedArea (s : State) (e : Enc) : Nat := ctlArea (s.my.getS e.sb.idx.toNat)

/-- The row answers its status in D. -/
def State.withStatus (s : State) (e : Enc) (v : Word) : State := s.retire e.la false [.s e.da.idx.toNat v]

theorem exec_ctxsave_of_fields (h : accept (.ctxsave e) s = some s1) (ha : s1.areaFields e) :
    exec (.ctxsave e) s = .next (
      if s1.areaBusy (s1.namedCluster e) then s1.withStatus e 3
      else if (s1.cluster (s1.namedCluster e)).run ≠ .halted then s1.withStatus e 1
      else if s1.areaInside (s1.namedCluster e) (s1.namedArea e)
        (areaBytes + 2 ^ (16 + ctlLogn (s1.my.getS e.sb.idx.toNat))) = false then s1.withStatus e 2
      else if 4 ≤ (s1.saved.filter fun sv => sv.cluster == s1.namedCluster e).length then s1.withStatus e 4
      else if s1.unsettled (s1.namedCluster e) (s1.ctxOf (s1.namedCluster e)) then
        s.block s.curT s.curX (.saving (s1.namedCluster e))
      else ((s1.saveArea (s1.namedCluster e) (s1.namedArea e) (ctlLogn (s1.my.getS e.sb.idx.toNat))
        (ctlMem (s1.my.getS e.sb.idx.toNat))).acquireEngine s1.curT).withStatus e 0) := by
  refine (issue_accept rfl h).trans (congrArg Host.Outcome.next ?_)
  dsimp only
  rw [if_neg ((s1.areaFields_iff e).mpr ha)]
  simp only [apply_ite (s.settle s.curT s.curX), Bool.not_eq_true']
  rfl

/-- The save that an area holds, where its header is good (R343, R351). -/
def State.goodSave (s : State) (c area : Nat) : Option Saved := if s.headerOk c area then s.savedAt c area else none

/-- The obligations' choice between a good save and none. -/
theorem State.match_goodSave (s : State) (c area : Nat) (z : State) (f : Saved → State) :
    (match s.headerOk c area, s.savedAt c area with
      | true, some sv => f sv
      | _, _ => z) = (s.goodSave c area).elim z f := by
  unfold State.goodSave
  cases s.headerOk c area
  · rfl
  · cases s.savedAt c area <;> rfl

/-- The rows' choice between a good save and none. -/
theorem State.settle_goodSave (s s' : State) (t : Nat) (x : Side) (c area : Nat) (z : State) (f : Saved → State) :
    s'.settle t x (if !s.headerOk c area then .ok z else match s.savedAt c area with
      | none => .ok z
      | some sv => .ok (f sv)) = (s.goodSave c area).elim z f := by
  unfold State.goodSave
  cases s.headerOk c area
  · rfl
  · cases s.savedAt c area <;> rfl

theorem exec_ctxload_of_fields (h : accept (.ctxload e) s = some s1) (ha : s1.areaFields e) :
    let s2 := s1.memUpdate (physKey (s1.namedCluster e / 128) (s1.namedArea e)) (areaBytes + 2 ^ 23) id
    exec (.ctxload e) s = .next (
      if s1.areaBusy (s1.namedCluster e) then s1.withStatus e 3
      else if (s1.cluster (s1.namedCluster e)).run ≠ .empty ∨ (s1.cluster (s1.namedCluster e)).service ≠ .inService then
        s1.withStatus e 1
      else (s2.goodSave (s1.namedCluster e) (s1.namedArea e)).elim (s2.withStatus e 2) fun sv =>
        (s2.loadArea (s1.namedCluster e) (s1.namedArea e) sv).withStatus e 0) := by
  refine (issue_accept rfl h).trans (congrArg Host.Outcome.next ?_)
  dsimp only
  rw [if_neg ((s1.areaFields_iff e).mpr ha), apply_ite (s.settle s.curT s.curX), apply_ite (s.settle s.curT s.curX)]
  exact ite_congr rfl (fun _ => rfl) fun _ => ite_congr rfl (fun _ => rfl) fun _ => State.settle_goodSave ..

/-- The save of an area is gone, and its header says so (R351). -/
def State.shutSave (s : State) (c area : Nat) (sv : Saved) : State :=
  let base := physKey (c / 128) area
  ({ s.dropContext c sv.ctx with saved := (s.dropContext c sv.ctx).saved.filter fun q =>
    !(q.cluster == sv.cluster && q.area == sv.area) } : State).trimBarriers.memUpdate base 64 fun m => memWrite m (base + 10) [3]

theorem exec_ctxloadDrop_of_fields (h : accept (.ctxloadDrop e) s = some s1) (ha : s1.areaFields e) :
    let s2 := s1.memUpdate (physKey (s1.namedCluster e / 128) (s1.namedArea e)) areaBytes id
    exec (.ctxloadDrop e) s = .next (
      if s1.areaBusy (s1.namedCluster e) then s1.withStatus e 3
      else (s2.goodSave (s1.namedCluster e) (s1.namedArea e)).elim (s2.withStatus e 2) fun sv =>
        (s2.shutSave (s1.namedCluster e) (s1.namedArea e) sv).withStatus e 0) := by
  refine (issue_accept rfl h).trans (congrArg Host.Outcome.next ?_)
  dsimp only
  rw [if_neg ((s1.areaFields_iff e).mpr ha), apply_ite (s.settle s.curT s.curX)]
  exact ite_congr rfl (fun _ => rfl) fun _ => State.settle_goodSave ..

theorem exec_ctxsaveDrop_of_cluster (h : accept (.ctxsaveDrop e) s = some s1)
    (ha : pclBad (s1.my.getS e.sa.idx.toNat) = false) :
    exec (.ctxsaveDrop e) s = .next (
      if s1.areaBusy (s1.namedCluster e) then s1.withStatus e 3
      else if (s1.cluster (s1.namedCluster e)).run ≠ .halted then s1.withStatus e 1
      else (s1.dropLive (s1.namedCluster e)).withStatus e 0) := by
  refine (issue_accept rfl h).trans (congrArg Host.Outcome.next ?_)
  dsimp only
  rw [if_neg (ne_true_of_eq_false ha), apply_ite (s.settle s.curT s.curX), apply_ite (s.settle s.curT s.curX)]
  rfl

end Contexts

/-- Settles O36: each row by its fields and then by the order of its statuses. -/
theorem contextRows : Obligations.ContextRows := by
  unfold Obligations.ContextRows
  refine ⟨?save, ?saveDrop, ?load, ?loadDrop⟩
  case save =>
    intro e s s1 hacc
    exact ⟨fun hbad => exec_of_reserved_area (s1.not_areaFields e hbad) _ (by simp) hacc,
      fun ha hb => exec_ctxsave_of_fields hacc ⟨ha, hb⟩⟩
  case saveDrop =>
    intro e s s1 hacc
    exact ⟨fun hbad => issue_trap rfl hacc (if_pos hbad), exec_ctxsaveDrop_of_cluster hacc⟩
  case load =>
    intro e s s1 hacc
    refine ⟨fun hbad => exec_of_reserved_area (s1.not_areaFields e hbad) _ (by simp) hacc, fun ha hb => ?_⟩
    rw [exec_ctxload_of_fields hacc ⟨ha, hb⟩, ← State.match_goodSave]
    rfl
  case loadDrop =>
    intro e s s1 hacc
    refine ⟨fun hbad => exec_of_reserved_area (s1.not_areaFields e hbad) _ (by simp) hacc, fun ha hb => ?_⟩
    rw [exec_ctxloadDrop_of_fields hacc ⟨ha, hb⟩, ← State.match_goodSave]
    rfl

/-! ### Translation caches and probes (R334, R335) -/

section Translation

variable {e : Enc} {s : State} {own : Bool}

theorem exec_tlbinv_row {row : Enc → Instr} (h : (row, own) ∈ [(Instr.tlbinvCtx, false), (.tlbinvOwn, true)]) :
    ∃ D : Enc → Desc, (∀ e acc, describe acc (row e) = some (e, D e)) ∧
      ∀ e s, exec (row e) s = issue (D e) e s (tlbinvBody own e) := by
  simp only [List.mem_cons, Prod.mk.injEq, List.not_mem_nil, or_false] at h
  rcases h with ⟨rfl, rfl⟩ | ⟨rfl, rfl⟩
  all_goals exact ⟨_, fun _ _ => rfl, fun _ _ => rfl⟩

/-- A translation that a `tlbinv` removes (R334). -/
def State.removes (s : State) (e : Enc) (own : Bool) (x : Tlb) : Bool :=
  x.own == own && x.tag == s.tlbTag (clusterOf s.curT) own && x.inScope s.curT e.gs.toNat &&
  pageCovered (s.my.getS e.sa.idx.toNat) (s.my.getS e.sb.idx.toNat).toNat
    (if x.big then x.vpage * 2 ^ 29 else x.vpage * 2 ^ 16) (if x.big then 2 ^ 29 else 2 ^ 16)

theorem tlbinvBody_of_translating (hl : (s.my.getS e.sb.idx.toNat).toNat ≠ 0)
    (ht : s.translating s.curT own e.gs.toNat (s.my.getS e.sa.idx.toNat) (s.my.getS e.sb.idx.toNat) = true) :
    tlbinvBody own e s = .error (.wait (.translated own e.gs.toNat (s.my.getS e.sa.idx.toNat) (s.my.getS e.sb.idx.toNat))) :=
  if_pos ⟨hl, ht⟩

theorem tlbinvBody_of_settled (h : (s.my.getS e.sb.idx.toNat).toNat = 0 ∨
      s.translating s.curT own e.gs.toNat (s.my.getS e.sa.idx.toNat) (s.my.getS e.sb.idx.toNat) = false) :
    let s2 := if (s.my.getS e.sb.idx.toNat).toNat = 0 then s else s.performScope s.curT e.gs.toNat
    tlbinvBody own e s = .ok (({ s2 with tlb := s2.tlb.filter fun x => !s.removes e own x } : State).updMy Strand.advance) :=
  if_neg fun ⟨hl, ht⟩ => h.elim hl (ne_false_of_eq_true ht)

end Translation

/-- Settles O37: `tlbinv` by the translations in progress, `tprobe` by what it retires with. -/
theorem translationRows : Obligations.TranslationRows := by
  unfold Obligations.TranslationRows
  refine ⟨fun row own hrow e s s1 hacc => ?_, writesResult_of_exec (fun _ _ => rfl) fun _ _ => rfl,
    writesResult_of_exec (fun _ _ => rfl) fun _ _ => rfl⟩
  obtain ⟨D, hd, hx⟩ := exec_tlbinv_row hrow
  dsimp only
  rw [hx]
  exact ⟨fun hl ht => issue_wait (hd e _) hacc (tlbinvBody_of_translating hl ht),
    fun h => issue_accept_ok (hd e _) hacc (tlbinvBody_of_settled h)⟩

end Sys2Proof.Machine
end

section
/-! PROOFS. Delivery of traps (R290, R305, R323, R325, R326): what taking the record that a trap delivers changes, what entry to
either vector writes, and O39 and O40 from them. -/

namespace Sys2Proof.Machine

/-! ### The record that a trap delivers (R290, R305) -/

section Record

variable {s : State} {t : Nat} {x : Side} {p : PendTrap} {i : TrapInfo}

@[simp] theorem Thread.moveRecord_strand (th : Thread) (i : TrapInfo) (x : Side) :
    (th.moveRecord i).strand x = th.strand x := by
  unfold Thread.moveRecord
  split
  · cases x <;> rfl
  · rfl

@[simp] theorem Thread.moveRecord_v (th : Thread) (i : TrapInfo) : (th.moveRecord i).v = th.v := by
  unfold Thread.moveRecord
  split <;> rfl

@[simp] theorem Thread.moveRecord_q (th : Thread) (i : TrapInfo) : (th.moveRecord i).q = th.q := by
  unfold Thread.moveRecord
  split <;> rfl

@[simp] theorem Thread.moveRecord_uvec (th : Thread) (i : TrapInfo) : (th.moveRecord i).uvec = th.uvec := by
  unfold Thread.moveRecord
  split <;> rfl

@[simp] theorem Thread.setStrand_v (th : Thread) (x : Side) (st : Strand) : (th.setStrand x st).v = th.v := by
  cases x <;> rfl

@[simp] theorem Thread.setStrand_q (th : Thread) (x : Side) (st : Strand) : (th.setStrand x st).q = th.q := by
  cases x <;> rfl

theorem Thread.setStrand_getTok (th : Thread) (x : Side) (st : Strand) (n : Nat) :
    (th.setStrand x st).getTok n = th.getTok n := by
  cases x <;> rfl

/-- A token whose record is taken is not FAULTED, one beyond the eight included, which never is. -/
theorem Thread.setTok_clear_fault (th : Thread) (n : Nat) (k : Token) (h : k.fault = none) :
    ((th.setTok n k).getTok n).fault = none := by
  by_cases hn : n < 8
  · simp [Thread.getTok, Thread.setTok, hn, h]
  · simp [Thread.getTok, Thread.setTok, hn]

theorem Thread.moveRecord_fault {n : Nat} (th : Thread) (h : i.origin = some (.token n)) :
    ((th.moveRecord i).getTok n).fault = none := by
  simp only [Thread.moveRecord, h]
  exact th.setTok_clear_fault n _ rfl

@[simp] theorem State.regionDelivered_thread (s : State) (o : Option ((Nat × Nat) × Cause × Option Word)) (t : Nat) :
    (s.regionDelivered o).thread t = s.thread t := by
  cases o <;> rfl

theorem State.regionDelivered_rest (s : State) (o : Option ((Nat × Nat) × Cause × Option Word)) :
    { s.regionDelivered o with clusters := s.clusters } = s := by
  cases o <;> rfl

/-- An entry of a cluster's regions is none of its special registers. -/
theorem State.regionDelivered_svec (s : State) (o : Option ((Nat × Nat) × Cause × Option Word)) (c : Nat) :
    ((s.regionDelivered o).cluster c).svec = (s.cluster c).svec := by
  rcases o with _ | ⟨⟨b, n⟩, cause, addr⟩
  · rfl
  · by_cases h : c = b
    · simp [State.regionDelivered, State.updCluster, h]
    · exact congrArg Cluster.svec (State.cluster_setCluster_ne _ _ h)

/-- The state once the trap carries its record with it. -/
def State.recordTaken (s : State) (t : Nat) (i : TrapInfo) : State :=
  (s.regionDelivered (i.regionOf (s.thread t))).updThread t fun th => th.moveRecord i

@[simp] theorem State.recordTaken_thread (s : State) (t : Nat) (i : TrapInfo) :
    (s.recordTaken t i).thread t = (s.thread t).moveRecord i := by
  simp [State.recordTaken, State.updThread]

theorem State.recordTaken_thread_ne {k : Nat} (h : k ≠ t) : (s.recordTaken t i).thread k = s.thread k :=
  (State.thread_setThread_ne _ _ h).trans (State.regionDelivered_thread ..)

theorem State.recordTaken_rest (s : State) (t : Nat) (i : TrapInfo) :
    { s.recordTaken t i with threads := s.threads, clusters := s.clusters } = s :=
  congrArg (fun u : State => { u with threads := s.threads }) (s.regionDelivered_rest (i.regionOf (s.thread t)))

@[simp] theorem State.recordTaken_curT (s : State) (t : Nat) (i : TrapInfo) : (s.recordTaken t i).curT = s.curT :=
  (congrArg State.curT (s.recordTaken_rest t i) :)

@[simp] theorem State.recordTaken_curX (s : State) (t : Nat) (i : TrapInfo) : (s.recordTaken t i).curX = s.curX :=
  (congrArg State.curX (s.recordTaken_rest t i) :)

@[simp] theorem State.recordTaken_devices (s : State) (t : Nat) (i : TrapInfo) : (s.recordTaken t i).devices = s.devices :=
  (congrArg State.devices (s.recordTaken_rest t i) :)

@[simp] theorem State.recordTaken_svec (s : State) (t : Nat) (i : TrapInfo) (c : Nat) :
    ((s.recordTaken t i).cluster c).svec = (s.cluster c).svec :=
  s.regionDelivered_svec ..

theorem State.recordTaken_of_no_region (h : i.regionOf (s.thread t) = none) :
    { s.recordTaken t i with threads := s.threads } = s := by
  simp only [State.recordTaken, h]
  rfl

theorem State.trapToUser_recordTaken (s : State) (t : Nat) (x : Side) (i j : TrapInfo) :
    (s.recordTaken t j).trapToUser t x i = s.trapToUser t x i := by
  simp [State.trapToUser, State.strand]

/-- A trap whose record is held is delivered with it to the vector that it is routed to (R323). -/
theorem State.deliver_of_held (h : (s.thread t).recordHeld p.info = true) :
    s.deliver t x p = if s.trapToUser t x p.info then (s.recordTaken t p.info).enterUser t x p
      else (s.recordTaken t p.info).enterSupervisor t x p := by
  rw [← s.trapToUser_recordTaken t x p.info p.info]
  exact if_pos h

end Record

/-! ### Entry to the user vector (R325) -/

section User

variable {s : State} {p : PendTrap}

theorem exec_userTrapEntry_of_routed (ht : (s.strand s.curT s.curX).trap = some p) (hr : s.trapReady s.curT s.curX = true)
    (hu : s.trapToUser s.curT s.curX p.info = true) (hh : s.me.recordHeld p.info = true) :
    exec .userTrapEntry s = .next ((s.recordTaken s.curT p.info).enterUser s.curT s.curX p) := by
  show execUserTrapEntry s = _
  simp only [execUserTrapEntry, ht, hr, hu, Bool.and_self, if_true]
  rw [State.deliver_of_held hh, if_pos hu]

/-- The strand at the user vector. -/
def Strand.atUser (st : Strand) (x : Side) (p : PendTrap) (uvec : Word) : Strand :=
  { st with uepc := p.pc, ucause := p.info.causeWord x false false, uinfo := p.pc, uh := true, pc := uvec
            trap := none, status := .ready, flight := none }

/-- The thread of a strand at the user vector: its other strand, registers and queues are as they were. -/
theorem State.enterUser_me (s : State) (p : PendTrap) :
    ((s.recordTaken s.curT p.info).enterUser s.curT s.curX p).me =
      (s.me.moveRecord p.info).setStrand s.curX (s.my.atUser s.curX p s.me.uvec) := by
  show ((s.recordTaken s.curT p.info).enterUser s.curT s.curX p).thread (s.recordTaken s.curT p.info).curT = _
  simp [State.enterUser, State.updStrand, State.setStrand, State.strand, Strand.atUser, State.me, State.my]

theorem State.enterUser_my (s : State) (p : PendTrap) :
    ((s.recordTaken s.curT p.info).enterUser s.curT s.curX p).my = s.my.atUser s.curX p s.me.uvec := by
  show ((s.recordTaken s.curT p.info).enterUser s.curT s.curX p).me.strand (s.recordTaken s.curT p.info).curX = _
  rw [State.enterUser_me, State.recordTaken_curX, Thread.strand_setStrand]

end User

/-- Settles O39: the record goes with the trap, and entry writes what R325 names of the strand and nothing else. -/
theorem userTrapEntry : Obligations.UserTrapEntry := by
  unfold Obligations.UserTrapEntry
  refine ⟨fun s p ht hr hu hh => ⟨_, exec_userTrapEntry_of_routed ht hr hu hh, ?_⟩,
    fun e s s1 hacc => issue_accept_ok rfl hacc rfl⟩
  rw [State.enterUser_my, State.enterUser_me]
  refine ⟨rfl, rfl, rfl, rfl, rfl, rfl, rfl, fun n hn => ?token, rfl, rfl, ?v, ?q, rfl, rfl, rfl, fun x hx => ?side,
    fun k hk => ?other, fun hn => State.recordTaken_of_no_region hn, s.recordTaken_rest s.curT p.info⟩
  case token => rw [Thread.setStrand_getTok, Thread.moveRecord_fault _ hn]
  case v => simp
  case q => simp
  case side => rw [Thread.strand_setStrand_ne _ _ hx, Thread.moveRecord_strand]
  case other => exact (State.thread_updStrand_ne _ _ _ hk).trans (State.recordTaken_thread_ne hk)

/-! ### Entry to the supervisor vector (R326) -/

section Supervisor

variable {s : State} {p : PendTrap}

/-- The strand at the supervisor vector, where it is halted for good while that is 0. -/
def Strand.atSupervisor (st : Strand) (x : Side) (p : PendTrap) (svec : Word) : Strand :=
  { st with sepc := p.pc, scause := p.info.causeWord x st.uh st.sup, sinfo := p.pc, sup := true, uh := false
            pc := svec, trap := none, status := if svec = 0 then .dead else .ready, flight := none }

/-- The state with the issuing strand at the supervisor vector. -/
def State.supervised (s : State) (p : PendTrap) : State :=
  (s.recordTaken s.curT p.info).updStrand s.curT s.curX fun st =>
    st.atSupervisor s.curX p (s.cluster (clusterOf s.curT)).svec

theorem State.supervised_me (s : State) (p : PendTrap) :
    (s.supervised p).me = (s.me.moveRecord p.info).setStrand s.curX
      (s.my.atSupervisor s.curX p (s.cluster (clusterOf s.curT)).svec) := by
  show (s.supervised p).thread (s.recordTaken s.curT p.info).curT = _
  simp [State.supervised, State.updStrand, State.setStrand, State.strand, State.me, State.my]

theorem State.supervised_my (s : State) (p : PendTrap) :
    (s.supervised p).my = s.my.atSupervisor s.curX p (s.cluster (clusterOf s.curT)).svec := by
  show (s.supervised p).me.strand (s.recordTaken s.curT p.info).curX = _
  rw [State.supervised_me, State.recordTaken_curX, Thread.strand_setStrand]

theorem State.supervised_devices (s : State) (p : PendTrap) : (s.supervised p).devices = s.devices :=
  s.recordTaken_devices ..

theorem exec_supervisorTrapEntry_of_routed (ht : (s.strand s.curT s.curX).trap = some p)
    (hr : s.trapReady s.curT s.curX = true) (hu : s.trapToUser s.curT s.curX p.info = false)
    (hh : s.me.recordHeld p.info = true) :
    exec .supervisorTrapEntry s = .next (if (s.cluster (clusterOf s.curT)).svec = 0 then
      (s.supervised p).updDevice (deviceOf s.curT) fun d => d.recordHalt s.curT else s.supervised p) := by
  show execSupervisorTrapEntry s = _
  simp only [execSupervisorTrapEntry, ht, hr, hu, Bool.not_false, Bool.and_self, if_true]
  rw [State.deliver_of_held hh, if_neg (ne_true_of_eq_false hu)]
  simp only [State.enterSupervisor, State.recordTaken_svec, State.supervised, Strand.atSupervisor]

/-- PL and PUH lie at bits 9 and 10 of the cause word (R324). -/
theorem TrapInfo.causeWord_levels (i : TrapInfo) (x : Side) (puh pl : Bool) :
    (i.causeWord x puh pl).getLsbD 9 = pl ∧ (i.causeWord x puh pl).getLsbD 10 = puh := by
  simp only [TrapInfo.causeWord, BitVec.getLsbD_append]
  simp

end Supervisor

/-- Settles O40: entry writes what R326 names of the strand, and whether `%svec` is 0 decides if it runs on or halts for good. -/
theorem supervisorTrapEntry : Obligations.SupervisorTrapEntry := by
  unfold Obligations.SupervisorTrapEntry
  refine ⟨fun s p ht hr hu hh => ⟨_, exec_supervisorTrapEntry_of_routed ht hr hu hh, fun hv => ?vector, fun hv => ?halt⟩,
    fun e s s1 hacc => issue_accept_ok rfl hacc rfl⟩
  case vector =>
    obtain ⟨hpl, hpuh⟩ := p.info.causeWord_levels s.curX s.my.uh s.my.sup
    rw [if_neg hv, State.supervised_my, State.supervised_me, State.supervised_devices]
    exact ⟨rfl, rfl, hpl, hpuh, rfl, rfl, rfl, rfl, if_neg hv, rfl, rfl, by simp, by simp, rfl⟩
  case halt =>
    rw [if_pos hv]
    refine ⟨?_, ?_⟩
    · show (s.supervised p).my.status = .dead
      rw [State.supervised_my]
      exact if_pos hv
    · rw [State.updDevice, State.device_setDevice, State.device, State.supervised_devices]
      rfl

end Sys2Proof.Machine
end

section
/-! PROOFS. Optical circuits, table fences and fabric ports (R357 to R361, R368, R371): what each command and event does in the
state of its entry, fence or port, and O41, O42 and O44 from them. -/

namespace Sys2Proof.Machine

/-! ### Optical circuits (R357 to R359) -/

section Circuits

variable {s : State} {die n : Nat}

/-- The fields of an entry that ESTABLISH refuses (R357). -/
def Circuit.badFields (c : Circuit) (die : Nat) : Prop := c.src.toNat ≠ die % 4 ∨ c.dst = c.src ∨ c.cxw = 0 ∨ c.tcls = 0

theorem establish_of_badFields (hf : (s.circuit die n).state = .free) (hb : (s.circuit die n).badFields die) :
    s.establish die n = s.setCircuit die n { s.circuit die n with state := .fault, cause := 2 } := by
  unfold State.establish
  dsimp only
  rw [if_neg (not_not_intro hf)]
  exact if_pos hb

theorem establish_of_goodFields (hf : (s.circuit die n).state = .free) (hb : ¬(s.circuit die n).badFields die) :
    s.establish die n = if s.waveUsed die (s.circuit die n).cxw then
      s.setCircuit die n { s.circuit die n with state := .fault, cause := 1 }
      else (s.setCircuit die n { s.circuit die n with state := .tuning }).noteBounds := by
  unfold State.establish
  dsimp only
  rw [if_neg (not_not_intro hf)]
  exact if_neg hb

end Circuits

/-- Settles O41: ESTABLISH by the entry's fields and wavelengths, the other commands and events by the entry's state. -/
theorem circuitRows : Obligations.CircuitRows := by
  unfold Obligations.CircuitRows
  refine ⟨fun die n s hf => ⟨fun hb => ?bad, fun hb hw => ?used, fun hb hw => ?tune⟩, fun die n s h => ?drain,
    fun die n s h => ?release, fun die n ok s h => ?tuned, fun die n s h ho => ?drained⟩
  case bad => exact congrArg Host.Outcome.next (establish_of_badFields hf hb)
  case used => exact congrArg Host.Outcome.next ((establish_of_goodFields hf hb).trans (if_pos hw))
  case tune => exact congrArg Host.Outcome.next ((establish_of_goodFields hf hb).trans (if_neg (ne_true_of_eq_false hw)))
  case drain | release | tuned => exact congrArg Host.Outcome.next (if_pos h)
  case drained => exact congrArg Host.Outcome.next (if_pos ⟨h, ho⟩)

/-! ### Table fences and bounces (R360, R361) -/

section Fences

variable {s : State} {d : Nat} {g : BitVec 8}

theorem startFence_of_next (hb : (s.device d).fenceBusy = false) (hg : g = (s.device d).tableGen + 1) :
    s.startFence d (g.setWidth 64) = s.setDevice d { s.device d with tableNext := g, fenceBusy := true, fenceDone := false } := by
  subst hg
  exact if_neg (by simp [hb])

theorem startFence_of_ignored {w : Word} (h : (s.device d).fenceBusy = true ∨ w ≠ ((s.device d).tableGen + 1).setWidth 64) :
    s.startFence d w = s :=
  if_pos h

/-- Zero extension keeps generations apart. -/
theorem setWidth_ne_of_ne {a b : BitVec 8} (h : a ≠ b) : a.setWidth 64 ≠ b.setWidth 64 := fun he => h (by
  simpa using congrArg (BitVec.setWidth 8) he)

/-- The device with its new generation, membership and routing table in use (R361). -/
def Device.fenced (dv : Device) : Device :=
  { dv with tableGen := dv.tableNext, fenceBusy := false, fenceDone := true
            members := dv.nextMembers.getD dv.members, nextMembers := none, retiring := none
            routing := dv.shadow.foldl (fun l p => tset l p.1 p.2) dv.routing, shadow := [] }

theorem exec_tableFenceComplete_of_pending
    (h : (s.device s.actor).fenceBusy = false ∨ s.olderOut s.actor (s.device s.actor).tableNext = true) :
    exec .tableFenceComplete s = .next s :=
  congrArg Host.Outcome.next (if_neg fun ⟨hb, ho⟩ => h.elim (ne_false_of_eq_true hb) (ne_true_of_eq_false ho))

theorem exec_tableFenceComplete_of_quiet (hb : (s.device s.actor).fenceBusy = true)
    (ho : s.olderOut s.actor (s.device s.actor).tableNext = false) :
    exec .tableFenceComplete s = .next ((s.device s.actor).retiring.elim (s.setDevice s.actor (s.device s.actor).fenced)
      fun p => (s.setDevice s.actor (s.device s.actor).fenced).retireChannel p.1 p.2).noteBounds := by
  refine congrArg Host.Outcome.next ((if_pos ⟨hb, ho⟩).trans (congrArg State.noteBounds ?_))
  cases (s.device s.actor).retiring <;> rfl

theorem exec_requestBounce_of_bounced {f : Flight} (hf : (s.strand s.curT s.curX).flight = some f) (hp : f.phase = .bounced) :
    exec .requestBounce s = .next (s.setFlight s.curT s.curX { f with
      phase := .atLink (s.elapsedOf (deviceOf s.curT)), bounces := f.bounces + 1
      gen := s.steerGen (f.die / 4) }).noteBounds := by
  show execRequestBounce s = _
  simp only [execRequestBounce, hf, if_pos hp]

end Fences

/-- Settles O42: a fence by its generation and by what older requests are out, a bounce by its phase. -/
theorem tableFenceRows : Obligations.TableFenceRows := by
  unfold Obligations.TableFenceRows
  refine ⟨fun d g s hb hg => congrArg Host.Outcome.next (startFence_of_next hb hg), fun d g s h => ?ignored,
    fun s => exec_tableFenceComplete_of_pending, fun s hb ho => ⟨fun hr => ?complete, fun c ch hr => ?retire⟩,
    fun s f => exec_requestBounce_of_bounced⟩
  case ignored => exact congrArg Host.Outcome.next (startFence_of_ignored (h.imp id setWidth_ne_of_ne))
  case complete => rw [exec_tableFenceComplete_of_quiet hb ho, hr]; rfl
  case retire => rw [exec_tableFenceComplete_of_quiet hb ho, hr]; rfl

/-! ### Replay and training of ports (R368, R371) -/

section Ports

variable {s : State} {l d port : Nat} {num : BitVec 12}

theorem replayLink_of_not_held (h : (s.linkBuf l).flits.any (fun f => f.num == num) = false) : s.replayLink l num = s :=
  if_neg (ne_true_of_eq_false h)

theorem replayLink_of_held (h : (s.linkBuf l).flits.any (fun f => f.num == num) = true) :
    s.replayLink l num = if isPort l then (s.replayFlits l num).setPort (portDevice l) (portNumber l)
      { (s.replayFlits l num).port (portDevice l) (portNumber l) with
        replays := ((s.replayFlits l num).port (portDevice l) (portNumber l)).replays + 1 } else s.replayFlits l num :=
  if_pos h

theorem isPort_portLink (d port : Nat) : isPort (portLink d port) = true :=
  decide_eq_true (by unfold portLink; omega)

theorem portDevice_portLink (h : port < 36) : portDevice (portLink d port) = d := by
  unfold portDevice portLink
  omega

theorem portNumber_portLink (h : port < 36) : portNumber (portLink d port) = port := by
  unfold portNumber portLink
  omega

/-- The port once it has lost a lane (R371). -/
def State.narrower (s : State) (d port : Nat) : State :=
  s.setPort d port { s.port d port with mode := min 4 ((s.port d port).mode + 1) }

theorem exec_laneFailure_eq (s : State) (d port : Nat) :
    exec (.laneFailure d port) s = .next (((s.narrower d port).linkBuf (portLink d port)).flits.head?.elim (s.narrower d port)
      fun f => (s.narrower d port).replayLink (portLink d port) f.num).noteBounds := by
  refine congrArg (fun u : State => Host.Outcome.next u.noteBounds) ?_
  show (match ((s.narrower d port).linkBuf (portLink d port)).flits.head? with
    | some f => (s.narrower d port).replayLink (portLink d port) f.num
    | none => s.narrower d port) = _
  cases ((s.narrower d port).linkBuf (portLink d port)).flits.head? <;> rfl

end Ports

/-- Settles O44: a replay by whether the buffer holds its number and whether the link is a port's, a lost lane by what is in
flight. -/
theorem portRows : Obligations.PortRows := by
  unfold Obligations.PortRows
  refine ⟨fun s h => congrArg Host.Outcome.next (replayLink_of_not_held h), fun s ha h => ?link, fun s d port hp ha h => ?port,
    fun d port s => ⟨fun hn => ?idle, fun f r hf => ?flits⟩, fun d port mode s h => ?trained, fun d port mode s h => ?untrained⟩
  case link =>
    have hl : ¬isPort s.actor = true := fun hp => Nat.not_le.mpr ha (of_decide_eq_true hp)
    exact congrArg Host.Outcome.next ((replayLink_of_held h).trans (if_neg hl))
  case port =>
    refine congrArg Host.Outcome.next ((replayLink_of_held h).trans ?_)
    rw [ha, if_pos (isPort_portLink d port), portDevice_portLink hp, portNumber_portLink hp]
  case idle =>
    rw [exec_laneFailure_eq, show ((s.narrower d port).linkBuf (portLink d port)).flits = [] from hn]
    rfl
  case flits =>
    rw [exec_laneFailure_eq, show ((s.narrower d port).linkBuf (portLink d port)).flits = f :: r from hf]
    rfl
  case trained => exact congrArg Host.Outcome.next (if_pos h)
  case untrained => exact congrArg Host.Outcome.next (if_neg (ne_true_of_eq_false h))

end Sys2Proof.Machine
end

section
/-! PROOFS. The host's accesses, SPDM and TDISP (R374 to R378, R380 to R383, R391, R396): what a write does at each part of the
management range, what each request answers in its order, and O45, O47 and O48 from them. -/

namespace Sys2Proof.Machine

/-! ### Memory (R375, R376) -/

section Memory

variable {s : State} {d pa : Nat}

theorem exec_hostMemRead_of_readable {len : Nat} (h : s.lentRange d pa len = true ∨ hostRange pa len = true) :
    exec (.hostMemRead d pa len) s = .next (s.updDevice d fun dv => { dv with hostData := s.hostBytes d pa len }) :=
  congrArg Host.Outcome.next (if_pos (Bool.or_eq_true_iff.mpr h))

theorem exec_hostMemRead_of_unreadable {len : Nat} (hl : s.lentRange d pa len = false) (hh : hostRange pa len = false) :
    exec (.hostMemRead d pa len) s = .next s :=
  congrArg Host.Outcome.next (if_neg (by simp [hl, hh]))

end Memory

/-! ### Registers (R357, R361, R374, R378, R391) -/

section Registers

variable {s : State} {d ofs : Nat} {v : Word}

/-- The writer reaches an offset: the management unit reaches the whole range, the host the device block and the mailbox once
stage 5 is over (R374, R378, R393; log 28). -/
def State.reachesOffset (s : State) (d ofs : Nat) : Prop := s.item = 1 ∨ (ofs < 0x20000 ∧ 5 < (s.device d).stage)

theorem State.reachesReg_iff (s : State) (d ofs : Nat) : s.reachesReg d ofs = true ↔ s.reachesOffset d ofs := by
  simp [State.reachesReg, State.reachesOffset]

theorem exec_registerWrite_of_reached {s' : State} (h8 : ofs % 8 = 0) (hr : s.reachesOffset d ofs)
    (hw : s.writeReg d ofs v = s') : exec (.registerWrite d ofs v) s = .next s' :=
  congrArg Host.Outcome.next ((if_pos ⟨h8, (s.reachesReg_iff d ofs).mpr hr⟩).trans hw)

theorem exec_registerWrite_of_unreached (h : ofs % 8 ≠ 0 ∨ ¬s.reachesOffset d ofs) :
    exec (.registerWrite d ofs v) s = .next s :=
  congrArg Host.Outcome.next (if_neg fun ⟨h8, hr⟩ => h.elim (· h8) (· ((s.reachesReg_iff d ofs).mp hr)))

/-- A write of PWRLIM is taken within its limits (R379). -/
theorem writeReg_pwrlim : s.writeReg d 0x10 v =
    if 300 ≤ (v.extractLsb' 0 12).toNat ∧ (v.extractLsb' 0 12).toNat ≤ 1700 then
      s.setDevice d { s.device d with pwrlim := v.extractLsb' 0 12 } else s := rfl

/-- A word of the mailbox's request. -/
theorem writeReg_request (h1 : 0x10000 ≤ ofs) (h2 : ofs < 0x10040) : s.writeReg d ofs v =
    if (s.device d).doorbell then s
    else s.setDevice d { s.device d with request := (s.device d).request.set ((ofs - 0x10000) / 8) v } := by
  unfold State.writeReg
  rw [if_neg (by omega), if_pos ⟨h1, h2⟩]

theorem writeReg_doorbell : s.writeReg d 0x10080 v = s.ring d v := rfl

theorem writeReg_tfence : s.writeReg d 0x20000 v = s.startFence d v := rfl

/-- The shadow copy of a routing entry. -/
theorem writeReg_routing (h1 : 0x24000 ≤ ofs) (h2 : ofs < 0x28000) : s.writeReg d ofs v =
    s.setDevice d { s.device d with shadow := tset (s.device d).shadow ((ofs - 0x24000) / 8) (v &&& 0xBF) } := by
  unfold State.writeReg
  rw [if_neg (by omega), if_neg (by omega), if_neg (by omega), if_neg (by omega), if_pos ⟨h1, h2⟩]

/-- The registers of the circuits of die i of the device. -/
theorem writeReg_circuit {i n k : Nat} (hi : i < 4) (hn : n < 64) (hk : k < 16) :
    s.writeReg d (0x101000 + 0x10000 * i + 16 * n + k) v =
      if k = 0 then s.writeCxc (d * 4 + i) n v else s.writeCxw (d * 4 + i) n v := by
  unfold State.writeReg
  rw [if_neg (by omega), if_neg (by omega), if_neg (by omega), if_neg (by omega), if_neg (by omega), if_pos (by omega)]
  dsimp only
  rw [show (0x101000 + 0x10000 * i + 16 * n + k - 0x100000) / 0x10000 = i by omega,
    show ((0x101000 + 0x10000 * i + 16 * n + k) % 0x10000 - 0x1000) / 16 = n by omega,
    show (0x101000 + 0x10000 * i + 16 * n + k) % 16 = k by omega]

theorem writeReg_cxw {i n : Nat} (hi : i < 4) (hn : n < 64) :
    s.writeReg d (0x101008 + 0x10000 * i + 16 * n) v = if (s.circuit (d * 4 + i) n).state = .free then
      s.setCircuit (d * 4 + i) n { s.circuit (d * 4 + i) n with cxw := v } else s := by
  rw [show 0x101008 + 0x10000 * i + 16 * n = 0x101000 + 0x10000 * i + 16 * n + 8 by omega]
  exact writeReg_circuit hi hn (by omega)

/-- An offset without a writable register. -/
def unwritable (ofs : Nat) : Prop :=
  ofs ≠ 0x10 ∧ (ofs < 0x10000 ∨ 0x10040 ≤ ofs) ∧ ofs ≠ 0x10080 ∧ ofs ≠ 0x20000 ∧ (ofs < 0x24000 ∨ 0x28000 ≤ ofs) ∧
  (ofs < 0x100000 ∨ 0x140000 ≤ ofs ∨ ofs % 0x10000 < 0x1000 ∨ 0x1400 ≤ ofs % 0x10000)

theorem writeReg_of_unwritable (h : unwritable ofs) : s.writeReg d ofs v = s := by
  obtain ⟨hlim, hreq, hbell, hfence, hroute, hcirc⟩ := h
  unfold State.writeReg
  rw [if_neg hlim, if_neg (by omega), if_neg hbell, if_neg hfence, if_neg (by omega), if_neg (by omega)]

theorem ring_of_ignored (h : (s.device d).doorbell = true ∨ v ≠ 1) : s.ring d v = s := if_pos h

theorem ring_of_command (hb : (s.device d).doorbell = false) (hv : v = 1) :
    s.ring d v = if commandCodes.contains (((s.device d).req 0).extractLsb' 0 8).toNat then
      s.setDevice d { s.device d with doorbell := true } else s.answer d 1 [] :=
  if_neg (by simp [hb, hv])

/-- A circuit's entry once the fields of a CXC write, which it takes while it is FREE, stand in it (log 61). -/
def State.withFields (s : State) (die n : Nat) (v : Word) : State :=
  if (s.circuit die n).state = .free then s.setCircuit die n { s.circuit die n with
    tcls := v.extractLsb' 8 6, dst := v.extractLsb' 2 2, src := v.extractLsb' 0 2 } else s

theorem writeCxc_eq (s : State) (die n : Nat) (v : Word) :
    (v.extractLsb' 20 4 = 1 → s.writeCxc die n v = (s.withFields die n v).establish die n) ∧
    (v.extractLsb' 20 4 = 2 → s.writeCxc die n v = (s.withFields die n v).cxcDrain die n) ∧
    (v.extractLsb' 20 4 = 3 → s.writeCxc die n v = (s.withFields die n v).cxcRelease die n) ∧
    ((v.extractLsb' 20 4 = 0 ∨ 3 < (v.extractLsb' 20 4).toNat) → s.writeCxc die n v = s.withFields die n v) := by
  unfold State.writeCxc
  refine ⟨fun h => ?_, fun h => ?_, fun h => ?_, fun h => ?_⟩
  · rw [h]; rfl
  · rw [h]; rfl
  · rw [h]; rfl
  · dsimp only
    split
    case h_4 => rfl
    case h_1 hc | h_2 hc | h_3 hc =>
      rcases h with h | h
      · rw [h] at hc
        cases hc
      · omega

end Registers

/-- Settles O45: memory by its range, a register write by who reaches its offset and by the register that stands there. -/
theorem hostAccesses : Obligations.HostAccesses := by
  unfold Obligations.HostAccesses
  refine ⟨fun d pa data s h => congrArg Host.Outcome.next (if_pos h), fun d pa len s => exec_hostMemRead_of_readable,
    fun d pa len s h => if_neg (ne_true_of_eq_false h), fun d pa data s h => congrArg Host.Outcome.next (if_pos h),
    fun d pa data s h => congrArg Host.Outcome.next (if_neg (ne_true_of_eq_false h)),
    fun d pa len s => exec_hostMemRead_of_unreadable, fun d ofs v s h => ?unreached, fun d ofs v s h8 hr => ?register,
    fun s => rfl⟩
  case unreached =>
    refine exec_registerWrite_of_unreached (h.imp id ?_)
    rintro ⟨hi, ho⟩ (h1 | ⟨h2, h3⟩)
    · exact hi h1
    · omega
  case register =>
    dsimp only
    refine ⟨?limit, ?noLimit, ?request, ?noRequest, ?noBell, ?bell, ?unlisted, ?fence, ?noFence, ?routing,
      fun i n hi hn => ⟨?cxc, ?cxw, ?noCxw⟩, fun h1 h2 h3 h4 h5 h6 => ?other⟩
    case limit =>
      rintro rfl h1 h2
      exact exec_registerWrite_of_reached h8 hr (writeReg_pwrlim.trans (if_pos ⟨h1, h2⟩))
    case noLimit =>
      rintro rfl h
      exact exec_registerWrite_of_reached h8 hr (writeReg_pwrlim.trans (if_neg (by omega)))
    case request =>
      intro h1 h2 hb
      exact exec_registerWrite_of_reached h8 hr ((writeReg_request h1 h2).trans (if_neg (ne_true_of_eq_false hb)))
    case noRequest =>
      intro h1 h2 hb
      exact exec_registerWrite_of_reached h8 hr ((writeReg_request h1 h2).trans (if_pos hb))
    case noBell =>
      rintro rfl h
      exact exec_registerWrite_of_reached h8 hr (writeReg_doorbell.trans (ring_of_ignored h))
    case bell =>
      rintro rfl hb hv hc
      exact exec_registerWrite_of_reached h8 hr (writeReg_doorbell.trans ((ring_of_command hb hv).trans (if_pos hc)))
    case unlisted =>
      rintro rfl hb hv hc
      exact exec_registerWrite_of_reached h8 hr
        (writeReg_doorbell.trans ((ring_of_command hb hv).trans (if_neg (ne_true_of_eq_false hc))))
    case fence =>
      rintro rfl hb rfl
      exact exec_registerWrite_of_reached h8 hr (writeReg_tfence.trans (startFence_of_next hb rfl))
    case noFence =>
      rintro rfl h
      exact exec_registerWrite_of_reached h8 hr (writeReg_tfence.trans (startFence_of_ignored h))
    case routing =>
      intro h1 h2
      exact exec_registerWrite_of_reached h8 hr (writeReg_routing h1 h2)
    case cxc =>
      rintro rfl
      obtain ⟨establish, drain, release, other⟩ := writeCxc_eq s (d * 4 + i) n v
      have hcmd {s' : State} (hw : s.writeCxc (d * 4 + i) n v = s') := exec_registerWrite_of_reached h8 hr
        ((writeReg_circuit hi hn (k := 0) (by omega)).trans hw)
      exact ⟨fun h => hcmd (establish h), fun h => hcmd (drain h), fun h => hcmd (release h), fun h => hcmd (other h)⟩
    case cxw =>
      rintro rfl hf
      exact exec_registerWrite_of_reached h8 hr ((writeReg_cxw hi hn).trans (if_pos hf))
    case noCxw =>
      rintro rfl hf
      exact exec_registerWrite_of_reached h8 hr ((writeReg_cxw hi hn).trans (if_neg hf))
    case other => exact exec_registerWrite_of_reached h8 hr (writeReg_of_unwritable ⟨h1, h2, h3, h4, h5, h6⟩)

/-! ### SPDM (R382, R383) -/

section Spdm

variable {s : State} {d : Nat}

/-- A measurement of one index. -/
theorem exec_getMeasurements_of_index {idx : Nat} (nonce : BitVec 256) (ha : (s.spdm d).alg ≠ 0) (h1 : 1 ≤ idx) (h6 : idx ≤ 6) :
    let body := beBytes 32 (s.measurement d idx).toNat
    exec (.getMeasurements d idx nonce) s = .next (s.respond d (s.spdm d)
      (body ++ Config.sign (s.spdm d).alg (body ++ leBytes 32 nonce.toNat))) := by
  show execGetMeasurements d idx nonce s = _
  dsimp only [execGetMeasurements]
  rw [if_pos ⟨ha, .inr ⟨h1, h6⟩⟩, if_neg (by omega), List.flatMap_singleton]

/-- Link 0 is the requester's own session. -/
theorem exec_keyExchange_of_algorithms (pub : BitVec 512) (ha : (s.spdm d).alg ≠ 0) :
    exec (.keyExchange d 0 pub) s = .next (({ s with nextId := s.nextId + 1 } : State).respond d
      { s.spdm d with session := some s.nextId, finished := false } (Config.sign (s.spdm d).alg (leBytes 64 pub.toNat))) :=
  congrArg Host.Outcome.next ((if_pos rfl).trans (if_pos ha))

theorem exec_finish_of_session {n : Nat} (h : (s.spdm d).session = some n) :
    exec (.finish d 0 (Config.finishMac n)) s =
      .next (s.respond d { s.spdm d with finished := true } (Config.spdmWire 101 [n])) := by
  show execFinish d 0 (Config.finishMac n) s = _
  simp only [execFinish, h, if_true]

end Spdm

/-- Settles O47: each request by what the connection and the session have reached. -/
theorem attestationRows : Obligations.AttestationRows := by
  unfold Obligations.AttestationRows
  refine ⟨fun s => rfl, fun s h => ?capabilities, fun d alg s hc ha => ?algorithms, fun s h => ?digests,
    fun d ofs len s h => ?certificate, fun d nonce s h => ?challenge, fun d idx nonce s => exec_getMeasurements_of_index nonce,
    fun d pub s => exec_keyExchange_of_algorithms pub, fun d n s => exec_finish_of_session, fun d s h => ?update,
    fun s h => ?endSession,
    fun d slot ofs len s h => ?order⟩
  case capabilities | digests | endSession => exact congrArg Host.Outcome.next (if_pos h)
  case algorithms => exact congrArg Host.Outcome.next (if_pos (by simpa [hc] using ha))
  case certificate | challenge => exact congrArg Host.Outcome.next (if_pos ⟨h, rfl⟩)
  case update => exact congrArg Host.Outcome.next ((if_pos rfl).trans (if_pos h))
  case order => exact congrArg Host.Outcome.next (if_neg fun ⟨ha, hs⟩ => h.elim ha (· hs))

/-! ### TDISP (R380, R381) -/

section Tdisp

variable {s : State} {d part : Nat} {p : Partition}

theorem exec_tdispLock_of_partition (h : tget s.partitions part = some p) :
    exec (.tdispLock d part) s = .next (if p.device = d ∧ p.tdisp = .unlocked then s.setTdisp part p .locked else s) := by
  show execTdispLock d part s = _
  simp only [execTdispLock, h]

theorem exec_tdispStart_of_partition (h : tget s.partitions part = some p) :
    exec (.tdispStart d part) s = .next (if p.device = d ∧ p.tdisp = .locked then s.setTdisp part p .run else s) := by
  show execTdispStart d part s = _
  simp only [execTdispStart, h]

theorem exec_tdispStop_of_partition (err : Bool) (h : tget s.partitions part = some p) :
    exec (.tdispStop d part err) s = .next (if p.device = d then
      (s.tearPartition p).setTdisp part p (if err then .error else .unlocked) else s) := by
  show execTdispStop d part err s = _
  simp only [execTdispStop, h]

end Tdisp

/-- Settles O48: each command by the state of the partition's interface. -/
theorem tdispRows : Obligations.TdispRows := by
  unfold Obligations.TdispRows
  refine ⟨fun d part s p h hd ht => ?lock, fun d part s p h hd ht => ?start, fun d part err s p h hd => ?stop,
    fun d part s p h ht => ?early⟩
  case lock => rw [exec_tdispLock_of_partition h, if_pos ⟨hd, ht⟩]
  case start => rw [exec_tdispStart_of_partition h, if_pos ⟨hd, ht⟩]
  case stop => rw [exec_tdispStop_of_partition err h, if_pos hd]
  case early => rw [exec_tdispStart_of_partition h, if_neg fun hs => ht hs.2]

end Sys2Proof.Machine
end

section
/-! PROOFS. Decoding and encoding (R56 to R58, R74 to R76): every instruction by its own round trip, and every word by the row that
its OP, and where two rows share it a field, select (O55, O56). -/

namespace Sys2Proof.Laws.RoundTrip

/-- The round trips of the rows, in the order of the constructors. -/
theorem statement (i : Instr) : Statement i :=
  Instr.rec (motive := Statement)
    nop br brl jmp jmpl dbnz trap brk kget kset kswap sret uret add sub mul mulh mad div rem min max abs sel ldi ldp and
    or xor andn shl shr sar rotl clz ctz popc bfx bfi cmp plog fadd fsub fmul ffma fdiv fsqrt fmin fmax fcmp fcvt fsgn
    fclass vadd vsub vmul vmulh vmad vmin vmax vabs vand vor vxor vshl vshr vsar vcmp vsel vfadd vfsub vfmul vffma vfdiv
    vfsqrt vfmin vfmax vfcmp vfcvt vfsgn vfclass bmaxe malign vbcast vbcastEl vperm vshuf vext vextEl vins vred
    vredQueue vscan vcomp lbc vlq pcnt pfirst pset vexp2 vlog2 vrcp vrsq vsin vcos vtanh welf wmerge wred wfin ld st vld
    vst vlds vsts vldx vstx tld vtld rdm rdmm tstat tdrop pull pullr fence clean inval invalI discard pref lease unlease
    ldsync ldsyncTake stsync feset festat cinc csetCount csetPend cwait cwaitPh cphase bar advseq watch unwatch arm
    disarm aadd aand aor axor amin amax aswp acas rsst rsld rsclr msadd msmul msfma msscale mscopy msfill msrow mszero
    mma mring scacc cld cst czero cstat cstatClr mprio rgset rgclr rgstat cpy cpyL2 cpys send sendeos qstat park spawn
    reap preempt resumeJob resumeRun ctxsave ctxsaveDrop ctxload ctxloadDrop tlbinvCtx tlbinvOwn tprobeCtx tprobeOwn
    illegalOpcode longOpComplete atomicExecute leaseExpiry establish cxcDrain cxcRelease circuitTuningDone
    circuitDrainDone tfence packetForward packetDelivery laneFailure hostMemWrite hostMemRead hostMemoryWrite
    registerWrite retrainWindowEnd firmwareActivate negotiateAlgorithms getCertificate challenge getMeasurements
    keyExchange finish keyUpdate tdispStop correctedError powerClockStep thermalThrottle thermalShutdown pldmFwUpdate
    tdispLock tdispStart podMembershipSet retrainWindowStart portTrainingComplete userTrapEntry supervisorTrapEntry
    messageArrival refusalReceived requestRepresent sendRepresent spawnRecordAdmit spawnPlacement spawnPriorityAge
    clusterScrub ticketAllocate ticketLineFill ticketLeaseExpiry ticketPresent copyBlockComplete copyJobFault
    fenceComplete feWordEvent remoteLdsyncRequest acquireAtReleaser pageCountPeriod counterArrival armActionRun
    watchPlaceRequest watchAnswerDelivery watchAnswerReoffer unwatchRequest msLineComplete matrixOpStart
    matrixPriorityAge matrixOperandFetch matrixKstep ringGroupForm ringLatchArrival ringWatchdogExpiry regionCopyRow
    regionCopyFault l2LineInstall pasteEccError l2statSnapshot tableFenceComplete requestBounce linkAdmission
    permitGrantTimeout linkReplay packetAck dropNotice packetRetransmitTimeout requestAnswerTimeout partcreate
    partdestroy rekey loadImage drain online resetCluster chretire retrain fwupdate getVersion getCapabilities
    getDigests endSession uncorrectableError clusterFence deviceReset bringupStageTimeout pldmMonitor i

/-! ### Every word is one of an instruction (R57, R74 to R76) -/

/-- The row that an OP value selects is well formed, and its word carries that OP and the fields. -/
def Selects (n : Nat) : Prop :=
  ∀ e : Enc, let w := packWord (BitVec.ofNat 8 n) e
    (instrOf w n e).wf = true ∧ encodeWord (instrOf w n e) = some w

/-- The OP values that select a row by themselves (R74). -/
def opsOfOneRow : List Nat :=
  [1, 2, 3, 4, 5, 6, 7, 8, 9, 10, 11, 12, 13, 16, 17, 18, 19, 20, 21, 22, 23, 24, 25, 26, 27, 28, 32, 33, 34, 35, 36,
   37, 38, 39, 40, 41, 42, 43, 44, 45, 46, 48, 49, 50, 51, 52, 53, 54, 55, 56, 57, 58, 59, 64, 65, 66, 67, 68, 69, 70,
   71, 72, 73, 74, 75, 76, 77, 78, 79, 80, 81, 82, 83, 84, 85, 86, 87, 88, 89, 90, 91, 92, 93, 97, 98, 100, 102, 103,
   104, 105, 106, 107, 108, 112, 113, 114, 115, 116, 117, 118, 119, 120, 121, 122, 128, 129, 130, 131, 132, 133, 134,
   135, 144, 145, 146, 147, 148, 149, 150, 151, 160, 161, 163, 164, 165, 166, 177, 178, 179, 180, 183, 184, 185, 186,
   187, 188, 189, 192, 193, 194, 195, 196, 197, 198, 199, 200, 201, 202, 208, 209, 210, 211, 212, 213, 214, 215, 224,
   225, 226, 227, 228, 229, 231, 232, 233, 234, 236, 240, 241, 242, 243, 244, 245, 246]

/-- The OP values that two rows share, told apart by FN (R76). -/
def opsByFn : List Nat := [0x60, 0x63, 0xA2, 0xB0, 0xB5, 0xB6, 0xE6, 0xEB, 0xF7, 0xF8, 0xF9, 0xFA, 0xFB]

theorem selects_of_one_row : ∀ n ∈ opsOfOneRow, Selects n := by
  unfold opsOfOneRow
  repeat refine List.forall_mem_cons.2 ⟨fun _ => ⟨rfl, rfl⟩, ?_⟩
  exact List.forall_mem_nil _

/-- Two rows of one OP: each is selected where its own well-formedness holds. -/
theorem selects_of_pair {n : Nat} {p : Enc → Prop} [∀ e, Decidable (p e)] {row other : Enc → Instr}
    (hi : ∀ w e, instrOf w n e = if p e then row e else other e)
    (hrow : ∀ e, p e → (row e).wf = true) (hother : ∀ e, ¬ p e → (other e).wf = true)
    (hw : ∀ e, encodeWord (row e) = some (packWord (BitVec.ofNat 8 n) e) ∧
      encodeWord (other e) = some (packWord (BitVec.ofNat 8 n) e)) : Selects n := by
  intro e
  dsimp only
  rw [hi]
  split
  · exact ⟨hrow e ‹_›, (hw e).1⟩
  · exact ⟨hother e ‹_›, (hw e).2⟩

theorem selects_by_fn : ∀ n ∈ opsByFn, Selects n := by
  unfold opsByFn
  repeat refine List.forall_mem_cons.2 ⟨selects_of_pair (p := fun e => e.fn = 1) (fun _ _ => rfl)
    (fun e (h : e.fn = 1) => show (e.fn == 1) = true from beq_iff_eq.2 h)
    (fun e (h : ¬ e.fn = 1) => show (e.fn != 1) = true from bne_iff_ne.2 h) fun _ => ⟨rfl, rfl⟩, ?_⟩
  exact List.forall_mem_nil _

/-- `vred` is told apart by the class of SA (R181). -/
theorem selects_vred : Selects 0x65 :=
  selects_of_pair (p := fun e => e.sa.cls = .queue) (row := .vredQueue) (other := .vred) (fun _ _ => rfl)
    (fun e (h : e.sa.cls = .queue) => show (e.sa.cls == .queue) = true from beq_iff_eq.2 h)
    (fun e (h : ¬ e.sa.cls = .queue) => show (e.sa.cls != .queue) = true from bne_iff_ne.2 h) fun _ => ⟨rfl, rfl⟩

set_option maxRecDepth 20000 in
theorem assigned_cases : ∀ n : Fin 256, opUnassigned (BitVec.ofNat 8 n.val) = false →
    n.val ∈ opsOfOneRow ∨ n.val ∈ opsByFn ∨ n.val = 0x65 := by decide

theorem selects_of_assigned (op : BitVec 8) (h : opUnassigned op = false) : Selects op.toNat := by
  rcases assigned_cases ⟨op.toNat, op.isLt⟩ (by simpa using h) with h | h | h
  · exact selects_of_one_row _ h
  · exact selects_by_fn _ h
  · have h : op.toNat = 0x65 := h
    exact h ▸ selects_vred

/-- An unassigned OP stands for itself, with the whole of its word (R75). -/
theorem selects_of_unassigned (op : BitVec 8) (h : opUnassigned op = true) : Selects op.toNat := by
  intro e
  dsimp only
  rw [instrOf_unassigned _ _ _ h]
  refine ⟨?_, rfl⟩
  show opUnassigned ((packWord _ e).extractLsb' 88 8) = true
  rw [opOf_packWord, BitVec.ofNat_toNat, BitVec.setWidth_eq, h]

/-- What a word decodes to is well formed, and the word is its own. -/
theorem decodeWord_encodes (w : BitVec 96) : (decodeWord w).wf = true ∧ encodeWord (decodeWord w) = some w := by
  have hs : Selects (w.extractLsb' 88 8).toNat := by
    cases h : opUnassigned (w.extractLsb' 88 8)
    · exact selects_of_assigned _ h
    · exact selects_of_unassigned _ h
  have h := hs (fieldsOf w)
  rw [BitVec.ofNat_toNat, BitVec.setWidth_eq, packWord_fieldsOf] at h
  exact h

/-- Fewer than twelve bytes are no instruction (R56). -/
theorem decode_short (l : List Byte) (h : l.length < 12) : decode l = .error .tooShort := by
  unfold decode
  split
  · simp only [List.length_cons] at h
    omega
  · rfl

/-- Settles O55: the twelve bytes of each word are evaluated. -/
theorem sampleWords : Obligations.SampleWords := by
  unfold Obligations.SampleWords
  exact ⟨rfl, rfl, rfl, rfl, rfl, rfl, rfl, rfl⟩

/-- Settles O56: an instruction by its constructor's round trip, a word by the row that its OP selects. -/
theorem encodeDecodeAgree : Obligations.EncodeDecodeAgree := by
  refine ⟨fun i => (statement i).1, fun i => (statement i).2, fun w rest => ?_, decode_short⟩
  obtain ⟨hwf, hw⟩ := decodeWord_encodes w
  exact ⟨decodeWord w, decode_bytesOfWord w rest, hwf, by rw [encode, hw]; rfl⟩

end Sys2Proof.Laws.RoundTrip
end

section
/-! PROOFS. Names, hard-wired registers, the order of the checks and what a step runs (R10, R18, R34, R56, R60, R62, R63, R69, R82,
R290, R393), with O50 to O54 and O57. -/

namespace Sys2Proof.Machine

/-! ### The thread's name (R10) -/

/-- A field of a thread's packed name, right-aligned and zero-extended. -/
theorem nameField {t : Nat} (h : t < 2 ^ 24) (i k : Nat) :
    ((wordOf t).extractLsb' i k).setWidth 64 = wordOf (t / 2 ^ i % 2 ^ k) := by
  have ht : (wordOf t).toNat = t := by
    simp only [wordOf, BitVec.toNat_ofNat]
    omega
  apply BitVec.eq_of_toNat_eq
  simp only [BitVec.toNat_setWidth, BitVec.extractLsb'_toNat, ht, Nat.shiftRight_eq_div_pow]
  simp only [wordOf, BitVec.toNat_ofNat]

/-- Settles O50: each field's register is the field's number. -/
theorem threadName : Obligations.ThreadName := by
  unfold Obligations.ThreadName
  intro s h
  have hname : (s.special 0).toNat = s.curT := by
    show (wordOf s.curT).toNat = _
    simp only [wordOf, BitVec.toNat_ofNat]
    omega
  have hdev : s.curT / 2 ^ 13 % 2 ^ 11 = s.curT / 8192 := by omega
  refine ⟨hname, ?_, (nameField h 0 3).symm ▸ ?_, (nameField h 3 3).symm, (nameField h 6 5).symm, (nameField h 11 2).symm, ?_⟩
  · apply BitVec.eq_of_toNat_eq
    rw [BitVec.extractLsb'_toNat, hname, Nat.shiftRight_eq_div_pow, Nat.div_eq_of_lt h]
    rfl
  · show wordOf (s.curT % 8) = wordOf (s.curT / 2 ^ 0 % 2 ^ 3)
    rw [Nat.pow_zero, Nat.div_one, show 2 ^ 3 = 8 from rfl]
  · show wordOf (s.curT / 8192) = ((wordOf s.curT).extractLsb' 13 11).setWidth 64
    rw [nameField h, hdev]

/-! ### Hard-wired registers (R60) -/

theorem Thread.setStrand_strand (th : Thread) (x : Side) : th.setStrand x (th.strand x) = th := by
  cases x <;> rfl

/-- A short row whose one write is discarded only goes on. -/
theorem State.retire_discarded (s : State) (la : BitVec 4) {w : RegWrite} (h : s.me.write s.curX w = s.me) :
    s.retire la false [w] = s.updMy Strand.advance := by
  show s.setThread s.curT ((s.me.write s.curX w).setStrand s.curX ((s.me.write s.curX w).strand s.curX).advance) = _
  rw [h]
  rfl

/-- Settles O51: the register file's own laws, and the two rows by the write that they discard. -/
theorem hardWiredRegisters : Obligations.HardWiredRegisters := by
  unfold Obligations.HardWiredRegisters
  refine ⟨fun st => ⟨st.getS_zero, st.getP_zero⟩, fun st v g => ⟨st.setS_zero v, st.setP_zero g⟩,
    fun st n v h0 h => ⟨st.getS_setS_self v (Nat.ne_of_gt h0) h, fun m hm => st.getS_setS_ne v hm⟩,
    fun st n v h0 h => ⟨st.getP_setP_self v (Nat.ne_of_gt h0) h, fun m hm => st.getP_setP_ne v hm⟩,
    fun e s s1 hacc h0 => issue_accept_ok rfl hacc ?ldi, fun e s s1 hacc h0 => issue_accept_ok rfl hacc ?plog⟩
  case ldi | plog =>
    rw [h0]
    exact congrArg Except.ok (State.retire_discarded _ _ (Thread.setStrand_strand ..))

/-! ### The order of the checks (R62, R63, R69, R290) -/

section CheckOrder

variable {d : Desc} {e : Enc} {th : Thread} {x : Side}

/-- The checks of steps 1 to 5, the first that fails naming the cause (R69). -/
theorem Desc.check_order (d : Desc) (e : Enc) (th : Thread) (x : Side) :
    ((d.legal = false ∨ d.gs.illegal e.gs.toNat = true) → d.check e th x = some .illegal) ∧
    (d.legal = true → d.gs.illegal e.gs.toNat = false →
      (d.reserved e = true → d.check e th x = some .reservedField) ∧
      (d.reserved e = false →
        (d.operandClass e th.acc = true → d.check e th x = some .operandClass) ∧
        (d.operandClass e th.acc = false →
          (d.wrongStrand e th x = true → d.check e th x = some .strand) ∧
          (d.wrongStrand e th x = false → d.needsSupervisor e = true → (th.strand x).sup = false →
            d.check e th x = some .privileged)))) := by
  unfold Desc.check
  refine ⟨fun h => if_pos ?_, fun hl hg => ⟨fun hr => ?_, fun hr => ⟨fun ho => ?_, fun ho => ⟨fun hw => ?_, fun hw hp hs => ?_⟩⟩⟩⟩
  · rcases h with h | h <;> simp [h]
  all_goals simp only [*, Bool.not_true, Bool.not_false, Bool.or_self, Bool.and_self, Bool.false_eq_true, if_true, if_false]

/-- The wait mask with a FAULTED token in it traps with the lowest one's record. -/
theorem waitMask_of_faulted {s : State} {wm : BitVec 8} {n : Nat} {f : FaultRec} (h : s.me.faultedToken wm = some (n, f)) :
    s.waitMask wm = .error (.trap (f.tokenTrap n)) := by
  have h0 : wm ≠ 0 := by rintro rfl; cases h
  simp only [State.waitMask, if_neg h0, h]

/-- The wait mask with a busy token in it, and none FAULTED, waits. -/
theorem waitMask_of_busy {s : State} {wm : BitVec 8} (h : s.me.faultedToken wm = none) (hb : s.me.tokensBusy wm = true) :
    s.waitMask wm = .error (.wait (.tokens wm)) := by
  have h0 : wm ≠ 0 := by rintro rfl; cases hb
  simp only [State.waitMask, if_neg h0, h, hb, if_true]

/-- A record that its token still has is held. -/
theorem Thread.recordHeld_of_fault {n : Nat} {f : FaultRec} (h : (th.getTok n).fault = some f) :
    th.recordHeld (f.tokenTrap n) = true := by
  show ((th.getTok n).fault.map (·.tokenTrap n) == some (f.tokenTrap n)) = true
  rw [h]
  exact beq_self_eq_true _

/-- A token's record taken leaves the other tokens. -/
theorem Thread.moveRecord_getTok_ne {n m : Nat} {i : TrapInfo} (th : Thread) (h : i.origin = some (.token n)) (hm : m ≠ n) :
    (th.moveRecord i).getTok m = th.getTok m := by
  simp [Thread.moveRecord, h, Thread.getTok, Thread.setTok, Vector.getElem?_setIfInBounds_ne (Ne.symm hm)]

/-- Delivery of a trap whose record is held leaves the tokens as taking the record does. -/
theorem State.deliver_getTok {s : State} {t : Nat} {p : PendTrap} (h : (s.thread t).recordHeld p.info = true) (m : Nat) :
    ((s.deliver t x p).thread t).getTok m = ((s.thread t).moveRecord p.info).getTok m := by
  have hs (u : State) (f : Strand → Strand) : ((u.updStrand t x f).thread t).getTok m = (u.thread t).getTok m := by
    simp [State.updStrand, State.setStrand, Thread.setStrand_getTok]
  have hd (u : State) (f : Strand → Strand) (g : Device → Device) :
      (((u.updStrand t x f).updDevice (deviceOf t) g).thread t).getTok m = (u.thread t).getTok m := hs u f
  rw [← State.recordTaken_thread, State.deliver_of_held h]
  split
  · exact hs ..
  · unfold State.enterSupervisor
    dsimp only
    split
    · exact hd ..
    · exact hs ..

end CheckOrder

/-- Settles O52: the checks by their order, the tokens by the wait mask, the guard by `issue`, and delivery by the record that it
takes. -/
theorem checkOrder : Obligations.CheckOrder := by
  unfold Obligations.CheckOrder
  refine ⟨Desc.check_order, fun i s e d hd hs => ?issue, fun s t x p n f _ hp hf => ?deliver⟩
  case issue =>
    obtain ⟨th, ht⟩ := Option.isSome_iff_exists.mp hs
    obtain ⟨body, hx⟩ := exec_row hd
    rw [hx]
    refine ⟨fun c hc => issue_check ht hc, fun hc => ⟨fun n f h => ?_, fun h hb => ?_, fun s1 hw hv hg => issue_guard ht hc hw hv hg⟩⟩
    · rw [issue_mask ht hc (waitMask_of_faulted h)]; rfl
    · rw [issue_mask ht hc (waitMask_of_busy h hb)]; rfl
  case deliver =>
    have ho : p.info.origin = some (.token n) := by rw [hp]; rfl
    have hh : (s.thread t).recordHeld p.info = true := by rw [hp]; exact Thread.recordHeld_of_fault hf
    refine ⟨?_, fun m _ hm => ?_⟩
    · rw [State.deliver_getTok hh, Thread.moveRecord_fault _ ho]
    · rw [State.deliver_getTok hh, Thread.moveRecord_getTok_ne _ ho hm]

/-! ### No row is refused (R68, R69) -/

/-- A step or input of the table answers in every state; an unassigned OP only where its strand is. -/
theorem exec_of_undescribed {i : Instr} {s : State} (h : describe s.me.acc i = none) :
    (∃ w, i = .illegalOpcode w) ∨ ∃ t, exec i s = .next t := by
  cases i with
  | illegalOpcode w => exact .inl ⟨w, rfl⟩
  | _ => first | exact .inr ⟨_, rfl⟩ | exact nomatch h

/-- Settles O53: a row by `issue`, an unassigned OP by its strand, and the events by their meanings. -/
theorem everyRowAnswers : Obligations.EveryRowAnswers := by
  have strand (i : Instr) (s : State) (hs : (s.thread? s.curT).isSome = true) : ∃ t, exec i s = .next t := by
    obtain ⟨th, ht⟩ := Option.isSome_iff_exists.mp hs
    cases hd : describe s.me.acc i with
    | some p =>
      obtain ⟨body, hx⟩ := exec_row hd
      rw [hx]
      exact issue_next _ _ body ht
    | none =>
      rcases exec_of_undescribed hd with ⟨w, rfl⟩ | h
      · exact ⟨_, exec_illegalOpcode_of_strand hs⟩
      · exact h
  refine ⟨fun i s => ?_, strand⟩
  cases ht : s.thread? s.curT with
  | some th => exact .inl (strand i s (by rw [ht]; rfl))
  | none =>
    cases hd : describe s.me.acc i with
    | some p =>
      obtain ⟨body, hx⟩ := exec_row hd
      rw [hx]
      exact .inr (issue_noStrand _ _ body ht)
    | none =>
      rcases exec_of_undescribed hd with ⟨w, rfl⟩ | h
      · right
        show execIllegalOpcode w s = _
        simp only [execIllegalOpcode, ht]
      · exact .inl h

/-! ### What a step runs (R34, R56, R82) -/

section Steps

variable {s s' : State} {t : Nat} {x : Side}

/-- A strand whose turn it is runs the word that it fetches. -/
theorem issueNext_of_fetched {w : BitVec 96} (ht : s.turn t x = true) (hf : (s.charge t x).fetch t x = .ok (w, s')) :
    s.issueNext t x = exec (decodeWord w) s' := by
  simp only [State.issueNext, ht, if_true, hf]

theorem issueNext_of_unfetched {c : TrapInfo} (ht : s.turn t x = true) (hf : (s.charge t x).fetch t x = .error (.trap c)) :
    s.issueNext t x = .next ((s.charge t x).raise t x c) := by
  simp only [State.issueNext, ht, if_true, hf]
  rfl

theorem issueNext_of_no_turn (ht : s.turn t x = false) : s.issueNext t x = .next s := by
  simp only [State.issueNext, ht, Bool.false_eq_true, if_false]

/-- A word's bytes decode to its own instruction and no other. -/
theorem decodeWord_of_decode {w : BitVec 96} {rest : List Byte} {i : Instr} (h : decode (bytesOfWord w ++ rest) = .ok (i, rest)) :
    decodeWord w = i := by
  rw [decode_bytesOfWord] at h
  cases h
  rfl

theorem step_of_agenda {m : Move} {r : List Move} (h : s.agenda = m :: r) : step s = ({ s with agenda := r } : State).move m := by
  simp only [step, h]

theorem step_of_no_agenda (h : s.agenda = []) : step s = s.move s.choose := by
  simp only [step, h]

end Steps

/-- Settles O54: an issue by whose turn it is and what is fetched; the default mover names no strand out of turn. -/
theorem stepRunsDecoded : Obligations.StepRunsDecoded := by
  unfold Obligations.StepRunsDecoded
  refine ⟨fun s s' t x r w rest i ha ht hf hd => ?_, fun s s' t x w rest i ha hc hf hd => ?_, fun s t x r c ha ht hf => ?_,
    fun s t x r ha ht => ?_⟩
  · rw [step_of_agenda ha, ← decodeWord_of_decode hd]
    exact issueNext_of_fetched ht hf
  · rw [step_of_no_agenda ha, hc, ← decodeWord_of_decode hd]
    exact issueNext_of_fetched (State.turn_of_choose hc) hf
  · rw [step_of_agenda ha]
    exact issueNext_of_unfetched ht hf
  · rw [step_of_agenda ha]
    exact issueNext_of_no_turn ht

/-- Settles O57: memory is empty after reset, no thread is placed and no word is listed as empty. -/
theorem resetMemoryForm : Obligations.ResetMemoryForm :=
  ⟨memOk_reset, rfl, fun _ => rfl⟩

end Sys2Proof.Machine
end

section
/-! PROOFS. Barriers, the rows of the matrix unit, spawning and reaping, and the completion of long operations (R38 to R40, R48 to
R51, R54, R55, R157, R158, R258, R289 to R301), with O25, O30, O33 and O38. -/

namespace Sys2Proof.Machine

theorem bind_of_ok {α β : Type} {r : Except Stop α} {a : α} (h : r = .ok a) (f : α → Except Stop β) : (r >>= f) = f a := by
  rw [h]
  rfl

/-! ### Barriers (R55, R258) -/

section Barrier

variable {s : State} {key count : Nat}

/-- What an arrival brings to a barrier's generation: the arrivals that it counts to, and the releases that those bring. -/
def Barrier.expects (b : Barrier) (count : Nat) : Nat := if b.arrived = 0 then count else b.count

def State.barrierAt (s : State) (key : Nat) : Barrier := (tget s.barriers key).getD Barrier.zero

theorem barArrive_of_last (h : (s.barrierAt key).arrived + 1 ≥ (s.barrierAt key).expects count) :
    let b := s.barrierAt key
    let rel := b.rel ++ s.my.fenceRel
    let done := if s.savedWaits key b.gen then b.relDone ++ [(b.gen, rel)] else b.relDone
    s.barArrive key count =
      .ok (((({ s with barriers := tset s.barriers key ⟨b.gen + 1, 0, 0, [], done⟩ } : State).updMy
        fun st => { st with obs := st.obs ++ rel }).updMy Strand.advance).releaseBarrier key b.gen rel) :=
  if_pos h

theorem barArrive_of_earlier (h : ¬(s.barrierAt key).arrived + 1 ≥ (s.barrierAt key).expects count) :
    let b := s.barrierAt key
    let b' : Barrier := { b with count := b.expects count, arrived := b.arrived + 1, rel := b.rel ++ s.my.fenceRel }
    s.barArrive key count = .error (.waitIn (.barrier key b.gen) { s with barriers := tset s.barriers key b' }) :=
  if_neg h

end Barrier

/-- Settles O25: whether there is anything to wait for, and then whether the arrival is the last, decides. -/
theorem barrierArrival : Obligations.BarrierArrival := by
  unfold Obligations.BarrierArrival
  refine ⟨fun e s s1 hacc h => issue_accept_ok rfl hacc (if_pos h), fun e s s1 hacc => ?_⟩
  intro count hcount hgs key b cnt rel done
  have hbody : ¬(count = 0 ∨ e.gs = 0) := not_or.2 ⟨hcount, hgs⟩
  split
  next hlast => exact issue_accept_ok rfl hacc ((if_neg hbody).trans (barArrive_of_last hlast))
  next hlast => exact issue_waitIn rfl hacc ((if_neg hbody).trans (barArrive_of_earlier hlast))

/-! ### Completion of a long operation (R39, R40) -/

/-- Settles O38: the operation is found by its number, and its fault decides what its completion is. -/
theorem longCompletion : Obligations.LongCompletion := by
  unfold Obligations.LongCompletion
  intro t x id s o ho hr rest th
  show execLongOpComplete t x id s = _
  cases hw : pushWaits (s.strand t x).pend id
  · simp only [execLongOpComplete, ho, hr, hw, Bool.not_false, Bool.and_self, if_true, Bool.false_eq_true, if_false]
    simp only [State.complete, ho]
    rfl
  · simp only [execLongOpComplete, ho, hw, Bool.not_true, Bool.and_false, Bool.false_eq_true, if_false, if_true]

/-! ### The rows of the matrix unit (R38, R289, R291 to R294, R299 to R301) -/

section Matrix

variable {e : Enc} {s : State} {m : Multiply} {op : MatOp} {join : Nat → State → State}

/-- A multiply whose ranges pass their checks enters a queue with room, and its strand waits for it (R38). -/
theorem multiplyBody_of_room (ha : operandRange m.a (64 * m.rowBytes) = .ok ()) (hb : operandRange m.b (64 * m.rowBytes) = .ok ())
    (hf : s.matFull = false) :
    multiplyBody s m op join =
      .error (.waitIn (.matrix (s.enqueueMat op).1) (join (s.enqueueMat op).1 (s.enqueueMat op).2)) := by
  simp only [multiplyBody, ha, hb, ok_bind, hf, Bool.false_eq_true, if_false]

theorem multiplyBody_of_full (ha : operandRange m.a (64 * m.rowBytes) = .ok ()) (hb : operandRange m.b (64 * m.rowBytes) = .ok ())
    (hf : s.matFull = true) : multiplyBody s m op join = .error (.wait .matrixSpace) := by
  simp only [multiplyBody, ha, hb, ok_bind, hf, if_true]

theorem tileBody_of_full (h : s.matFull = true) : tileBody e s op = .error (.wait .matrixSpace) := if_pos h

end Matrix

/-- Settles O30: the operands' checks and then the queue's room decide for the rows that enter it. -/
theorem matrixRows : Obligations.MatrixRows := by
  unfold Obligations.MatrixRows
  simp only [List.forall_mem_cons, List.not_mem_nil, false_implies, implies_true, and_true]
  refine ⟨fun e s s1 hacc ha hb hf => issue_waitIn rfl hacc (multiplyBody_of_room ha hb hf),
    fun e s s1 hacc ha hb hf => issue_waitIn rfl hacc (multiplyBody_of_room ha hb hf), fun row op store hrow => ?tile,
    ⟨fun e s s1 hacc hf => issue_wait rfl hacc (tileBody_of_full hf), fun e s s1 hacc hf => issue_wait rfl hacc (tileBody_of_full hf)⟩,
    ⟨fun e s s1 hacc ha hb hf => issue_wait rfl hacc (multiplyBody_of_full ha hb hf),
      fun e s s1 hacc ha hb hf => issue_wait rfl hacc (multiplyBody_of_full ha hb hf)⟩, fun row store hrow => ?full,
    writesResult_of_exec (D := fun e => cstatDesc e 0) (fun _ _ => rfl) fun _ _ => rfl, fun e s s1 hacc => issue_accept_ok rfl hacc rfl,
    fun e s s1 hacc ha hi => issue_accept_ok rfl hacc (if_neg (not_or.2 ⟨Classical.not_not.2 ha, Classical.not_not.2 hi⟩))⟩
  case tile =>
    simp only [List.mem_cons, Prod.mk.injEq, List.not_mem_nil, or_false] at hrow
    rcases hrow with ⟨rfl, rfl, rfl⟩ | ⟨rfl, rfl, rfl⟩ | ⟨rfl, rfl, rfl⟩ | ⟨rfl, rfl, rfl⟩ <;> intro e s s1 hacc hrows hf
    · exact issue_accept_ok rfl hacc (tileBody_ok hf)
    · exact issue_accept_ok rfl hacc ((bind_of_ok (hrows false rfl) _).trans (tileBody_ok hf))
    · exact issue_accept_ok rfl hacc ((bind_of_ok (hrows true rfl) _).trans (tileBody_ok hf))
    · exact issue_accept_ok rfl hacc (tileBody_ok hf)
  case full =>
    simp only [List.mem_cons, Prod.mk.injEq, List.not_mem_nil, or_false] at hrow
    rcases hrow with ⟨rfl, rfl⟩ | ⟨rfl, rfl⟩ <;> intro e s s1 hacc hrows hf <;>
      exact issue_wait rfl hacc ((bind_of_ok hrows _).trans (tileBody_of_full hf))

/-! ### Spawning (R48 to R51, R157) -/

section Spawn

variable {e : Enc} {s s1 s2 : State} {l : List Word} {r : SpawnRec} {bad : Bool}

/-- The cluster that a record names. -/
def State.spawnTarget (s : State) (r : SpawnRec) : Nat := deviceOf s.curT * 128 + r.pcl

/-- A record of a target that the thread may reach is answered BADREC, or presented there. -/
theorem exec_spawn_of_record (hacc : accept (.spawn e) s = some s1) (hctx : (s1.cluster (clusterOf s1.curT)).ctxReg.getLsbD 17 = true)
    (hload : s1.recordLoad (effAddr s1 e) e.sw.toNat = .ok (l, s2)) (hrec : spawnRecord l = (r, bad))
    (hpart : (s2.cluster (s1.spawnTarget r)).part = (s2.cluster (clusterOf s1.curT)).part)
    (hfence : s2.fencedCluster (s1.spawnTarget r) = false) :
    exec (.spawn e) s = .next (s.settle s.curT s.curX
      (if bad || s2.targetOut (s1.spawnTarget r) r then .ok (s2.retire e.la false [.s e.da.idx.toNat 0, .s e.sb.idx.toNat 2])
      else s2.present (s1.spawnTarget r / 32) 0 (.spawn r e.da.idx.toNat e.sb.idx.toNat e.la))) := by
  refine (issue_accept rfl hacc).trans ?_
  unfold State.spawnTarget at *
  simp only [hctx, hload, ok_bind, hrec, hpart, hfence, ne_eq, not_true, Bool.not_true, Bool.false_eq_true, if_false]

/-- What the arrival of a record at its cluster comes to (R49 steps 6 to 8). -/
theorem exec_spawnRecordAdmit_of_arrived {f : Flight} {da sb : Nat} {la : BitVec 4}
    (hf : (s.strand s.curT s.curX).flight = some f) (hp : f.phase = .arrived) (hr : f.req = some (.spawn r da sb la)) :
    exec .spawnRecordAdmit s = .next (
      if s.otherCtx (s.spawnTarget r) (s.threadCtx s.curT) then s.replyTo s.curT s.curX (.done [.s da 0, .s sb 3])
      else if (s.cluster (s.spawnTarget r)).spawnQ.length ≥ 64 then s.replyTo s.curT s.curX (.done [.s da 0, .s sb 1])
      else
        let c := s.spawnTarget r
        let ctx := s.threadCtx s.curT
        let q : QueuedSpawn := ⟨s.nextId, r, s.curT, some (s.curX, (s.strand s.curT s.curX).order), ctx,
          (s.cluster c).part.toNat, s.cycleOf (c / 128), 0, none⟩
        let s2 := ({ s with nextId := s.nextId + 1 } : State).updCluster c fun cl =>
          { cl with spawnQ := cl.spawnQ ++ [q], claim := if cl.run == .empty then some ctx else cl.claim }
        s2.updStrand s.curT s.curX fun st =>
          st.acceptFar la (.spawn da sb) ((s2.strand s.curT s.curX).flight.bind (s2.farOf s.curT))) := by
  show execSpawnRecordAdmit s = _
  simp only [execSpawnRecordAdmit, hf, Option.bind_some, Flight.here_of_arrived hp, hr]
  rfl

theorem exec_spawnPlacement_of_next {q : QueuedSpawn} {t : Nat} (h : s.nextPlacement s.actor = some (q, t)) (hq : q.id = s.item)
    (hc : (s.cluster s.actor).sramCtx = none ∨ (s.cluster s.actor).sramCtx = some q.ctx) :
    exec .spawnPlacement s = .next (((s.placeChild s.actor q t).placed q t).endClaim s.actor) := by
  show execSpawnPlacement s = _
  simp only [execSpawnPlacement, h]
  rw [if_pos ⟨hq, hc⟩]

theorem exec_clusterScrub_of_next {q : QueuedSpawn} {t : Nat} (h : s.nextPlacement s.actor = some (q, t)) (hq : q.ctx = s.item)
    (hn : (s.cluster s.actor).sramCtx ≠ none) (hc : (s.cluster s.actor).sramCtx ≠ some s.item)
    (he : (s.userThreads s.actor).isEmpty = true) :
    exec .clusterScrub s = .next ((s.scrub s.actor).updCluster s.actor fun cl => { cl with sramCtx := some s.item }) := by
  show execClusterScrub s = _
  have hw : ((s.nextPlacement s.actor).any fun p => p.1.ctx == s.item) = true := by rw [h]; exact beq_iff_eq.2 hq
  simp only [execClusterScrub]
  rw [if_pos ⟨hw, hn, hc, he⟩]

end Spawn

/-! ### Reaping (R54, R158) -/

section Reap

variable {e : Enc} {s s1 : State}

/-- The thread that a `reap` names, and the results of one that ends. -/
def State.reaped (s : State) (e : Enc) : Nat := ((s.my.getS e.sa.idx.toNat).extractLsb' 0 24).toNat
def State.reapResult (s : State) (e : Enc) (v : Word) : State := s.retire e.la true [.s e.da.idx.toNat v]

/-- SA names no thread of the device. -/
def State.reapsStranger (s : State) (e : Enc) : Prop :=
  (s.my.getS e.sa.idx.toNat).extractLsb' 24 40 ≠ 0 ∨ deviceOf (s.reaped e) ≠ deviceOf s.curT

theorem exec_reap_of_stranger (hacc : accept (.reap e) s = some s1) (h : s1.reapsStranger e) :
    exec (.reap e) s = .next (s1.reapResult e 1) :=
  issue_accept_ok rfl hacc (if_pos h)

/-- A thread of the device, once its request is granted: whether the slot holds a child of the strand's, and a drained one. -/
theorem exec_reap_of_granted (hacc : accept (.reap e) s = some s1) (h : ¬s1.reapsStranger e)
    (hadmit : s1.admitReq (dieOf (s1.reaped e)) 0 = .ok s1) :
    exec (.reap e) s = .next (s.settle s.curT s.curX (match s1.thread? (s1.reaped e) with
      | none => .ok (s1.reapResult e 2)
      | some th =>
        if !s1.childOf s1.curT th then .ok (s1.reapResult e 1)
        else if th.drained then .ok ((s1.freeSlot (s1.reaped e)).reapResult e 0)
        else .error (.wait (.drained (s1.reaped e))))) := by
  refine (issue_accept rfl hacc).trans ?_
  unfold State.reapsStranger State.reaped at *
  simp only [if_neg h, hadmit]
  rfl

theorem exec_reap_of_ungranted (hacc : accept (.reap e) s = some s1) (h : ¬s1.reapsStranger e)
    (hx : crossesLink s1.curT (dieOf (s1.reaped e)) = true) (hf : s1.my.flight = none) :
    exec (.reap e) s = .next ((s1.updMy fun st =>
      { st with flight := some (newFlight s1 s1.curT s1.curX (dieOf (s1.reaped e)) 0 none) }).block s.curT s.curX .answer) := by
  refine issue_waitIn rfl hacc ?_
  have hadmit := admitReq_of_ungranted (cls := 0) (fetch := false) hx (by rw [hf]; rfl)
  unfold State.reapsStranger State.reaped at *
  simp only [if_neg h, hadmit]

end Reap

/-- Settles O33: the record and the target decide for `spawn`, what the target holds for its arrival, the scheduler's choice for a
placement, and the slot that SA names for `reap`. -/
theorem threadRows : Obligations.ThreadRows := by
  unfold Obligations.ThreadRows
  refine ⟨fun e s s1 s2 l r hacc hctx hload hrec => ?presented, fun e s s1 s2 l r bad hacc hctx hload hrec => ?badRecord,
    fun e s s1 hacc hctx => ?forbidden, fun s f r da sb la hf hp hr => ?queued, fun s f r da sb la hf hp hr => ?refused,
    fun s => rfl, fun s q t => exec_spawnPlacement_of_next, fun s q t => exec_clusterScrub_of_next, fun e s s1 hacc => ?reap⟩
  case presented =>
    intro c hpart hfence hout
    rw [exec_spawn_of_record hacc hctx hload hrec hpart hfence, Bool.false_or,
      if_neg (show ¬s2.targetOut (s1.spawnTarget r) r = true from ne_true_of_eq_false hout)]
    rfl
  case badRecord =>
    intro c hpart hfence hbad
    rw [exec_spawn_of_record hacc hctx hload hrec hpart hfence,
      if_pos (show (bad || s2.targetOut (s1.spawnTarget r) r) = true from Bool.or_eq_true_iff.2 hbad)]
    rfl
  case forbidden => exact issue_trap rfl hacc (if_pos (by rw [hctx]; rfl))
  case queued =>
    intro c ctx hctx hlen
    rw [exec_spawnRecordAdmit_of_arrived hf hp hr,
      if_neg (show ¬s.otherCtx (s.spawnTarget r) (s.threadCtx s.curT) = true from ne_true_of_eq_false hctx),
      if_neg (show ¬(s.cluster (s.spawnTarget r)).spawnQ.length ≥ 64 from Nat.not_le.2 hlen)]
    rfl
  case refused =>
    rw [exec_spawnRecordAdmit_of_arrived hf hp hr]
    refine ⟨fun h => congrArg _ (if_pos h), fun h hlen => congrArg _ ((if_neg (ne_true_of_eq_false h)).trans (if_pos hlen))⟩
  case reap =>
    intro a n bad put
    refine ⟨exec_reap_of_stranger hacc, fun hb ha ht => ?free, fun th hb ha ht hc => ?notChild, fun th hb ha ht hc hd => ?reaped,
      fun th hb ha ht hc hd => ?waits, fun hb hx hf => exec_reap_of_ungranted hacc hb hx hf⟩
    all_goals
      rw [exec_reap_of_granted hacc hb ha]
      unfold State.reaped
      rw [ht]
    case free => rfl
    case notChild => dsimp only; rw [hc]; rfl
    case reaped => dsimp only; rw [hc, hd]; rfl
    case waits => dsimp only; rw [hc, hd]; rfl

end Sys2Proof.Machine
end

section
/-! PROOFS. What the scalar, vector and special-register rows leave unchanged (R39, R60, R71, R73, R113, R131, R132, R137, R160, R162,
R180, R181, R185), with O59. A row's body reads its sources, which changes at most the queues that they name, and retires with writes
that its fields allow. -/

namespace Sys2Proof.Machine

/-! ### Scalar rows -/

section Scalar

variable {row : Enc → Instr} {long fl : Bool} {f : Enc → Strand → Word → Word → Word × List RegWrite} {D : Enc → Desc}

/-- A scalar row whose DA is a scalar register or a queue, and which raises no flag. -/
theorem scalarFramed_of_dst (hres : ScalarResult row long f)
    (hd : ∀ e acc, describe acc (row e) = some (e, D e) := by exact fun _ _ => rfl)
    (hda : ∀ e, (D e).da = dstSlot := by exact fun _ => rfl)
    (hf : ∀ e st a b, (f e st a b).2 = [] := by exact fun _ _ _ _ => rfl) : ScalarFramed row long false :=
  scalarFramed_of D hd (fun e => .inl (hda e)) (fun e st a b => .inl (hf e st a b)) hres

/-- One whose DA is a scalar register, read before it is written. -/
theorem scalarFramed_of_reg (hres : ScalarResult row long f)
    (hd : ∀ e acc, describe acc (row e) = some (e, D e) := by exact fun _ _ => rfl)
    (hda : ∀ e, (D e).da = sReg := by exact fun _ => rfl)
    (hf : ∀ e st a b, (f e st a b).2 = [] := by exact fun _ _ _ _ => rfl) : ScalarFramed row long false :=
  scalarFramed_of D hd (fun e => .inr (hda e)) (fun e st a b => .inl (hf e st a b)) hres

/-- One that raises flags. -/
theorem scalarFramed_of_float (hda : ∀ e, (D e).da = dstSlot ∨ (D e).da = sReg) (hres : ScalarResult row long f)
    (hd : ∀ e acc, describe acc (row e) = some (e, D e) := by exact fun _ _ => rfl)
    (hf : ∀ e st a b, ∃ g, (f e st a b).2 = [.fps g] := by exact fun _ _ _ _ => ⟨_, rfl⟩) : ScalarFramed row long true :=
  scalarFramed_of D hd hda (fun e st a b => .inr ⟨rfl, hf e st a b⟩) hres

end Scalar

theorem integerRowsFramed : ∀ p ∈ [(Instr.add, false), (.sub, false), (.mul, false), (.mulh, false), (.mad, false), (.div, true), (.rem, true),
      (.min, false), (.max, false), (.abs, false), (.and, false), (.or, false), (.xor, false), (.andn, false),
      (.shl, false), (.shr, false), (.sar, false), (.rotl, false), (.clz, false), (.ctz, false), (.popc, false),
      (.bfx, false), (.bfi, false), (.sel, false), (.fsgn, false), (.fclass, false)],
    ScalarFramed p.1 p.2 false := by
  obtain ⟨hadd, hsub, hmul, hmulh, hmad, hdiv, hrem, hmin, hmax, habs, hsel, -, -⟩ := scalarIntegerResults
  obtain ⟨hand, hor, hxor, handn, hshl, hshr, hsar, hrotl, hclz, hctz, hpopc, hbfx, hbfi⟩ := bitAndShiftResults
  obtain ⟨-, -, -, -, -, -, -, -, -, hfsgn, hfclass⟩ := scalarFloatResults
  simp only [List.forall_mem_cons, List.not_mem_nil, false_implies, implies_true, and_true]
  exact ⟨scalarFramed_of_dst hadd, scalarFramed_of_dst hsub, scalarFramed_of_dst hmul, scalarFramed_of_dst hmulh,
    scalarFramed_of_reg hmad, scalarFramed_of_dst hdiv, scalarFramed_of_dst hrem, scalarFramed_of_dst hmin, scalarFramed_of_dst hmax,
    scalarFramed_of_dst habs, scalarFramed_of_dst hand, scalarFramed_of_dst hor, scalarFramed_of_dst hxor, scalarFramed_of_dst handn,
    scalarFramed_of_dst hshl, scalarFramed_of_dst hshr, scalarFramed_of_dst hsar, scalarFramed_of_dst hrotl, scalarFramed_of_dst hclz,
    scalarFramed_of_dst hctz, scalarFramed_of_dst hpopc, scalarFramed_of_dst hbfx, scalarFramed_of_reg hbfi, scalarFramed_of_dst hsel,
    scalarFramed_of_dst hfsgn, scalarFramed_of_dst hfclass⟩

theorem floatRowsFramed : ∀ p ∈ [(Instr.fadd, false), (.fsub, false), (.fmul, false), (.fdiv, true), (.fmin, false), (.fmax, false),
      (.ffma, false), (.fsqrt, true), (.fcvt, false)], ScalarFramed p.1 p.2 true := by
  obtain ⟨hadd, hsub, hmul, hdiv, hmin, hmax, hfma, hsqrt, hcvt, -, -⟩ := scalarFloatResults
  simp only [List.forall_mem_cons, List.not_mem_nil, false_implies, implies_true, and_true]
  have hdst {D : Enc → Desc} (h : ∀ e, (D e).da = dstSlot) (e : Enc) : (D e).da = dstSlot ∨ (D e).da = sReg := .inl (h e)
  exact ⟨scalarFramed_of_float (hdst fun _ => rfl) hadd, scalarFramed_of_float (hdst fun _ => rfl) hsub,
    scalarFramed_of_float (hdst fun _ => rfl) hmul, scalarFramed_of_float (hdst fun _ => rfl) hdiv,
    scalarFramed_of_float (hdst fun _ => rfl) hmin, scalarFramed_of_float (hdst fun _ => rfl) hmax,
    scalarFramed_of_float (fun _ => .inr rfl) hfma, scalarFramed_of_float (hdst fun _ => rfl) hsqrt,
    scalarFramed_of_float (hdst fun _ => rfl) hcvt⟩

/-! ### Rows that write a predicate or one register -/

section Plain

variable {row : Enc → Instr} {D : Enc → Desc} {fl : Bool}

/-- A comparison whose flags are none, or may be raised, has the frame of a scalar row. -/
theorem compareResult_framed {f : Enc → Word → Word → Bool × BitVec 5} (hres : CompareResult row f)
    (hd : ∀ e acc, describe acc (row e) = some (e, D e)) (hda : ∀ e, (D e).da = pRegSlot)
    (hf : ∀ e a b, fl = true ∨ (f e a b).2 = 0) {e : Enc} {s s1 s2 : State} {a b : Word} {ws : List RegWrite}
    (hacc : accept (row e) s = some s1) (hread : s1.readPair e = .ok ((a, b), ws, s2)) :
    ∃ t, exec (row e) s = .next t ∧ ScalarFrame e fl s t := by
  refine ⟨_, hres e s s1 s2 a b ws hacc hread, ?_⟩
  obtain ⟨hk, hws⟩ := State.readPair_kept hread
  refine (accept_kept hacc (hd ..)).before e [] [] fl (fun _ hn => hn.elim) (hk.before e [] [] fl (sources_named e) ?_)
  cases hq : popsQueue e
  · refine State.retire_short_frame _ _ _ ?_
    have hp : e.da.cls = .predicate := pRegSlot_cls (hda e ▸ accept_da hacc (hd ..))
    simp only [hws hq, List.nil_append, List.forall_mem_cons, List.not_mem_nil, false_implies, implies_true, and_true]
    exact ⟨hf e a b, hp, rfl⟩
  · exact (State.retire_long_kept _ _ _ fun _ => False).rowFrame e [] [] fl fun _ hn => hn.elim

/-- A row that retires at once with a write that its DA allows has the frame of a scalar row. -/
theorem writesResult_framed {f : Enc → State → RegWrite} (hres : WritesResult row false fun e s => [f e s])
    (hd : ∀ e acc, describe acc (row e) = some (e, D e))
    (hf : ∀ e s, (D e).da.misused e.da = false → writeAllowed e [] false (f e s)) {e : Enc} {s s1 : State}
    (hacc : accept (row e) s = some s1) : ∃ t, exec (row e) s = .next t ∧ ScalarFrame e false s t := by
  refine ⟨_, hres e s s1 hacc, (accept_kept hacc (hd ..)).before e [] [] false (fun _ hn => hn.elim) ?_⟩
  refine State.retire_short_frame _ _ _ fun w hw => ?_
  rw [List.mem_singleton.mp hw]
  exact hf e s1 (accept_da hacc (hd ..))

end Plain

/-! ### What a vector row's body comes to -/

/-- A stop that carries no effect. -/
def Stop.plain : Stop → Prop
  | .trap _ | .wait _ => True
  | .trapIn .. | .waitIn .. => False

/-- A body's outcome: a state that keeps the row's frame, or a stop with no effect. -/
def RowOutcome (e : Enc) (vs : List Nat) (fl : Bool) (s : State) : Except Stop State → Prop
  | .ok t => RowFrame e vs [] fl s t
  | .error x => x.plain

/-- A queue that a source names. -/
def sourceQueue (e : Enc) (n : Nat) : Prop := (e.sa.cls = .queue ∧ e.sa.idx.toNat = n) ∨ (e.sb.cls = .queue ∧ e.sb.idx.toNat = n)

/-- A source's outcome: at most the queues that the sources name have changed, and without one there is nothing to write; or a stop
with no effect. -/
def SourceOutcome {α : Type} (e : Enc) (s : State) : Read α → Prop
  | .ok (_, ws, t) => Kept (sourceQueue e) s t ∧ (popsQueue e = false → ws = [])
  | .error x => x.plain

section Bodies

variable {α : Type} {e : Enc} {vs : List Nat} {fl : Bool} {s : State}

theorem RowOutcome.of_source {r : Read α} {k : α × List RegWrite × State → Except Stop State} (hr : SourceOutcome e s r)
    (hk : ∀ a ws t, (popsQueue e = false → ws = []) → RowOutcome e vs fl t (k (a, ws, t))) : RowOutcome e vs fl s (r >>= k) := by
  match r, hr with
  | .error x, hx => exact hx
  | .ok (a, ws, t), ⟨hkept, hws⟩ =>
    show RowOutcome e vs fl s (k (a, ws, t))
    have h := hk a ws t hws
    generalize k (a, ws, t) = o at h ⊢
    cases o with
    | error x => exact h
    | ok u => exact hkept.before e vs [] fl (sources_named e) h

theorem RowOutcome.of_room {o : Operand} {n : Nat} {long : Bool} {k : Unit → Except Stop State} (hk : RowOutcome e vs fl s (k ())) :
    RowOutcome e vs fl s (s.needRoom o n long >>= k) := by
  unfold State.needRoom
  split
  · split
    · exact hk
    · trivial
  · exact hk

/-- A row retires with writes that its fields allow, or as a long operation. -/
theorem RowOutcome.retire {la : BitVec 4} {long : Bool} {ws : List RegWrite}
    (h : long = false → ∀ w ∈ ws, writeAllowed e vs fl w) : RowOutcome e vs fl s (.ok (s.retire la long ws)) := by
  cases long
  · exact State.retire_short_frame s la ws (h rfl)
  · exact (s.retire_long_kept la ws fun _ => False).rowFrame e vs [] fl fun _ hn => hn.elim

theorem SourceOutcome.popVector {q : Nat} (h : sourceQueue e q) : SourceOutcome e s (s.popVector q) := by
  have hp : popsQueue e = true := by
    rcases h with ⟨h, -⟩ | ⟨h, -⟩ <;> simp [popsQueue, h]
  cases hr : s.popVector q with
  | error x =>
    unfold State.popVector at hr
    split at hr
    · cases hr; trivial
    · split at hr <;> cases hr
  | ok v => exact ⟨(State.popVector_kept hr).mono fun n hn => hn ▸ h, fun hf => absurd hf (ne_false_of_eq_true hp)⟩

theorem SourceOutcome.readVecSrc {w : Nat} {o : Operand} (ho : o = e.sa ∨ o = e.sb) : SourceOutcome e s (s.readVecSrc e w o) := by
  unfold State.readVecSrc
  split
  case h_4 hq =>
    refine SourceOutcome.popVector ?_
    rcases ho with rfl | rfl
    · exact .inl ⟨hq, rfl⟩
    · exact .inr ⟨hq, rfl⟩
  all_goals exact ⟨Kept.refl _ _, fun _ => rfl⟩

theorem SourceOutcome.readScalar {o : Operand} (ho : o = e.sa ∨ o = e.sb) : SourceOutcome e s (s.readScalar e.ty e.imm o) := by
  cases hr : s.readScalar e.ty e.imm o with
  | error x =>
    unfold State.readScalar State.popWord at hr
    split at hr <;> first | cases hr | skip
    split at hr
    · cases hr; trivial
    · split at hr <;> cases hr
  | ok v =>
    obtain ⟨hk, hws⟩ := State.readScalar_kept hr
    refine ⟨hk.mono fun n hn => ?_, fun hp => hws fun hq => ?_⟩
    · rcases ho with rfl | rfl
      · exact .inl hn
      · exact .inr hn
    · simp only [popsQueue, Bool.or_eq_false_iff, beq_eq_false_iff_ne] at hp
      rcases ho with rfl | rfl
      · exact hp.1 hq
      · exact hp.2 hq

theorem SourceOutcome.after {r : Read α} (o : Operand) (hr : SourceOutcome e s r) : SourceOutcome e s (r.after o) := by
  unfold Read.after
  split
  · trivial
  · exact hr

/-- The write of a vector result that DA allows. -/
theorem destWriteV_allowed {st : Strand} {mask v : VReg} (h : vDst.misused e.da = false) :
    writeAllowed e (daVectors 1 e) fl (destWriteV st e.da mask v) := by
  have hc : e.da.cls = .vector ∨ e.da.cls = .queue := by
    revert h
    cases hcls : e.da.cls <;> simp [Slot.misused, vDst, hcls]
  rcases hc with hc | hc
  · have : destWriteV st e.da mask v = .v e.da.idx.toNat mask v := by unfold destWriteV; rw [hc]
    rw [this]
    simp [writeAllowed, daVectors, hc]
  · have : destWriteV st e.da mask v = .push e.da.idx.toNat { QEntry.vector v with rel := st.pushRel } := by unfold destWriteV; rw [hc]
    rw [this]
    exact ⟨hc, rfl⟩

/-- What a row without queue sources writes beside what its sources write. -/
theorem allowed_of_sources {wa wb ws : List RegWrite} (hp : popsQueue e = false) (ha : popsQueue e = false → wa = [])
    (hb : popsQueue e = false → wb = []) (h : ∀ w ∈ ws, writeAllowed e vs fl w) : ∀ w ∈ wa ++ wb ++ ws, writeAllowed e vs fl w := by
  rw [ha hp, hb hp]
  exact h

theorem orFlags_of_flagless {l : List FRes} (h : ∀ r ∈ l, r.2 = 0) : orFlags l = 0 := by
  unfold orFlags
  induction l with
  | nil => rfl
  | cons r l ih =>
    rw [List.foldl_cons, h r List.mem_cons_self]
    exact ih fun q hq => h q (List.mem_cons_of_mem _ hq)

/-- The flags and the vector of an element-wise row. -/
theorem flags_and_vector_allowed {g : BitVec 5} {st : Strand} {mask v : VReg} (hda : vDst.misused e.da = false)
    (hg : fl = true ∨ g = 0) : ∀ w ∈ [RegWrite.fps g, destWriteV st e.da mask v], writeAllowed e (daVectors 1 e) fl w := by
  simp only [List.forall_mem_cons, List.not_mem_nil, false_implies, implies_true, and_true]
  exact ⟨hg, destWriteV_allowed hda⟩

theorem vectorOp_outcome {long : Bool} {f : Nat → Nat → Nat → FRes} (hda : vDst.misused e.da = false)
    (hf : fl = true ∨ ∀ d a b, (f d a b).2 = 0) : RowOutcome e (daVectors 1 e) fl s (vectorOp long e f s) := by
  refine .of_room (.of_source (.readVecSrc (.inl rfl)) fun a wa t ha => .of_source (.after _ (.readVecSrc (.inr rfl)))
    fun b wb u hb => .retire fun hl => ?_)
  obtain ⟨-, hp⟩ := Bool.or_eq_false_iff.mp hl
  refine allowed_of_sources hp ha hb (flags_and_vector_allowed hda (hf.imp id fun h => orFlags_of_flagless fun r hr => ?_))
  obtain ⟨_, hq, rfl⟩ := List.mem_map.mp hr
  obtain ⟨_, -, rfl⟩ := List.mem_map.mp hq
  exact h ..

theorem vectorCompare_outcome {f : Nat → Nat → Bool × BitVec 5} (hda : pRegSlot.misused e.da = false)
    (hf : fl = true ∨ ∀ a b, (f a b).2 = 0) : RowOutcome e (daVectors 1 e) fl s (vectorCompare e f s) := by
  refine .of_source (.readVecSrc (.inl rfl)) fun a wa t ha => .of_source (.after _ (.readVecSrc (.inr rfl)))
    fun b wb u hb => .retire fun hp => allowed_of_sources hp ha hb ?_
  simp only [List.forall_mem_cons, List.not_mem_nil, false_implies, implies_true, and_true]
  refine ⟨hf.imp id fun h => ?_, pRegSlot_cls hda, rfl⟩
  generalize enabledElems u.my e (tyWidth true e.ty) = l
  induction l with
  | nil => rfl
  | cons i l ih =>
    rw [List.map_cons, List.foldl_cons, h]
    exact ih

/-- A move retires with one vector. -/
theorem moveOp_outcome {long : Bool} {ws : List RegWrite} {f : Nat → Nat} (hda : vDst.misused e.da = false)
    (hws : long = false → ws = []) : RowOutcome e (daVectors 1 e) fl s (.ok (moveOp e long ws f s)) := by
  refine .retire fun hl => ?_
  rw [hws hl]
  simp only [List.nil_append, List.forall_mem_cons, List.not_mem_nil, false_implies, implies_true, and_true]
  exact destWriteV_allowed hda

end Bodies

/-! ### The vector rows -/

/-- The fields of a row whose SB has been read. -/
def withoutSB (e : Enc) : Enc := { e with sb := ⟨.absent, 0⟩ }

theorem RowFrame.of_withoutSB {e : Enc} {vs ks : List Nat} {fl : Bool} {s t : State} (h : RowFrame (withoutSB e) vs ks fl s t) :
    RowFrame e vs ks fl s t := by
  have hmem : ∀ o ∈ [(withoutSB e).da, (withoutSB e).sa, (withoutSB e).sb], o.cls = .queue → o ∈ [e.da, e.sa, e.sb] := by
    simp [withoutSB]
  obtain ⟨a1, a2, a3, a4, a5, a6, a7, a8, a9, a10, a11, a12, a13, a14, a15, a16, a17, a18⟩ := h
  refine ⟨a1, a2, a3, a4, a5, fun x hx => (a6 x hx).mono fun ⟨o, ho, hq⟩ => ⟨o, hmem o ho hq, hq⟩, a7, a8, a9, a10, a11, a12,
    fun q hq => a13 q fun o ho hc => hq o (hmem o ho hc) hc, fun k h0 h9 h11 => a14 k h0 h9 (h11.imp id fun hp => ?_), a15, a16, a17, a18⟩
  have hsa : (e.sa.cls == .queue) = false := (Bool.or_eq_false_iff.mp hp).1
  simp [popsQueue, withoutSB, hsa]

theorem RowOutcome.of_withoutSB {e : Enc} {vs : List Nat} {fl : Bool} {s : State} {o : Except Stop State}
    (h : RowOutcome (withoutSB e) vs fl s o) : RowOutcome e vs fl s o := by
  cases o with
  | ok t => exact RowFrame.of_withoutSB h
  | error x => exact h

/-- An instruction that completes has passed steps 1 to 5 of R69. -/
theorem issue_checked {d : Desc} {e : Enc} {s t : State} {body : State → Except Stop State} (h : issue d e s body = .next t)
    (hc : completed s t) : d.check e s.me s.curX = none := by
  cases ht : s.thread? s.curT with
  | none => rw [issue_noStrand d e body ht] at h; cases h
  | some th =>
    cases hk : d.check e s.me s.curX with
    | none => rfl
    | some c =>
      rw [issue_check ht hk] at h
      cases h
      have ho := s.raise_order s.curT s.curX (TrapInfo.plain c)
      unfold completed at hc
      rw [ho] at hc
      exact absurd hc (Nat.ne_of_lt (Nat.lt_succ_self _))

theorem Desc.da_of_check {d : Desc} {e : Enc} {th : Thread} {x : Side} (h : d.check e th x = none) : d.da.misused e.da = false := by
  unfold Desc.check Desc.operandClass at h
  cases hm : d.da.misused e.da
  · rfl
  · simp only [hm, Bool.true_or, if_true] at h
    split at h
    · cases h
    · split at h <;> cases h

/-- A row whose body keeps the frame or stops with no effect leaves the frame as it was wherever it completes. -/
theorem rowFramed_of_outcome {row : Enc → Instr} {n : Nat} {fl : Bool} (D : Enc → Desc) (body : Enc → State → Except Stop State)
    (hx : ∀ e s, exec (row e) s = issue (D e) e s (body e))
    (hb : ∀ e s, (D e).da.misused e.da = false → RowOutcome e (daVectors n e) fl s (body e s)) : RowFramed row n fl := by
  intro e s t h hc
  rw [hx] at h
  have hda := Desc.da_of_check (issue_checked h hc)
  obtain ⟨-, s1, hw, ht⟩ := issue_completed h hc fun s1 x _ hbody => by
    have ho := hb e s1 hda
    rw [hbody] at ho
    cases x with
    | trap | wait => rfl
    | trapIn | waitIn => exact ho.elim
  refine (State.waitMask_kept hw).before e _ [] fl (fun _ hn => hn.elim) ?_
  rcases ht with rfl | hbody
  · exact (s1.retire_nil_kept e.la fun _ => False).rowFrame e _ [] fl fun _ hn => hn.elim
  · have ho := hb e s1 hda
    rw [hbody] at ho
    exact ho

theorem vReg_cls {o : Operand} (h : vReg.misused o = false) : o.cls = .vector := by
  obtain ⟨c, n⟩ := o
  cases c <;> simp_all [Slot.misused, vReg]

theorem vReg_dst {o : Operand} (h : vReg.misused o = false) : vDst.misused o = false := by
  obtain ⟨c, n⟩ := o
  cases c <;> simp_all [Slot.misused, vReg, vDst]

/-- An element-wise row. -/
theorem elementRow_framed {row : Enc → Instr} {long fl : Bool} {D : Enc → Desc} {f : Enc → Nat → Nat → Nat → FRes}
    (hf : fl = true ∨ ∀ e d a b, (f e d a b).2 = 0) (hda : ∀ e, (D e).da.misused e.da = false → vDst.misused e.da = false)
    (hx : ∀ e s, exec (row e) s = issue (D e) e s (vectorOp long e (f e))) : RowFramed row 1 fl :=
  rowFramed_of_outcome D _ hx fun e _ h => vectorOp_outcome (hda e h) (hf.imp id fun h => h e)

theorem comparisonRow_framed {row : Enc → Instr} {fl : Bool} {D : Enc → Desc} {f : Enc → Nat → Nat → Bool × BitVec 5}
    (hf : fl = true ∨ ∀ e a b, (f e a b).2 = 0) (hda : ∀ e, (D e).da = pRegSlot)
    (hx : ∀ e s, exec (row e) s = issue (D e) e s (vectorCompare e (f e))) : RowFramed row 1 fl :=
  rowFramed_of_outcome D _ hx fun e _ h => vectorCompare_outcome (hda e ▸ h) (hf.imp id fun h => h e)

/-- A row that retires at once with one write of its DA. -/
theorem oneWriteRow_framed {row : Enc → Instr} {D : Enc → Desc} {f : Enc → State → RegWrite}
    (hx : ∀ e s, exec (row e) s = issue (D e) e s fun s1 => .ok (s1.retire e.la false [f e s1]))
    (hf : ∀ e s, (D e).da.misused e.da = false → writeAllowed e (daVectors 1 e) false (f e s)) : RowFramed row 1 false :=
  rowFramed_of_outcome D _ hx fun e s h => .retire fun _ _ hw => List.mem_singleton.mp hw ▸ hf e s h

theorem flaglessRowsFramed :
    ∀ row ∈ [Instr.vadd, .vsub, .vmul, .vmulh, .vmin, .vmax, .vmad, .vabs, .vand, .vor, .vxor, .vshl, .vshr, .vsar, .vcmp,
      .vsel, .vfsgn, .vfclass, .bmaxe, .malign, .vbcast, .vbcastEl, .vperm, .vshuf, .vext, .vextEl, .vins, .vcomp, .lbc, .vlq,
      .pcnt, .pfirst, .pset], RowFramed row 1 false := by
  simp only [List.forall_mem_cons, List.not_mem_nil, false_implies, implies_true, and_true]
  refine ⟨?vadd, ?vsub, ?vmul, ?vmulh, ?vmin, ?vmax, ?vmad, ?vabs, ?vand, ?vor, ?vxor, ?vshl, ?vshr, ?vsar, ?vcmp, ?vsel, ?vfsgn,
    ?vfclass, ?bmaxe, ?malign, ?vbcast, ?vbcastEl, ?vperm, ?vshuf, ?vext, ?vextEl, ?vins, ?vcomp, ?lbc, ?vlq, ?pcnt, ?pfirst, ?pset⟩
  case vadd | vsub | vmul | vmulh | vmin | vmax | vabs | vand | vor | vxor | vshl | vshr | vsar | vfsgn | vfclass =>
    exact elementRow_framed (.inr fun _ _ _ _ => rfl) (fun _ h => h) fun _ _ => rfl
  case vmad => exact elementRow_framed (.inr fun _ _ _ _ => rfl) (fun _ h => vReg_dst h) fun _ _ => rfl
  case vcmp => exact comparisonRow_framed (.inr fun _ _ _ => rfl) (fun _ => rfl) fun _ _ => rfl
  case bmaxe | vlq | pcnt | pfirst => exact oneWriteRow_framed (fun _ _ => rfl) fun e _ h => ⟨sReg_cls h, rfl⟩
  case lbc | pset => exact oneWriteRow_framed (fun _ _ => rfl) fun e _ h => ⟨pRegSlot_cls h, rfl⟩
  case vsel =>
    refine rowFramed_of_outcome vselDesc _ (fun _ _ => rfl) fun e s h => ?_
    exact .of_room (.of_source (.readVecSrc (.inl rfl)) fun a wa t ha => .of_source (.after _ (.readVecSrc (.inr rfl)))
      fun b wb u hb => .retire fun hp => allowed_of_sources hp ha hb (List.forall_mem_singleton.2 (destWriteV_allowed h)))
  case malign =>
    refine rowFramed_of_outcome malignDesc _ (fun _ _ => rfl) fun e s h => ?_
    exact .of_source (.readScalar (.inr rfl)) fun b wb t hb =>
      (vectorOp_outcome (e := withoutSB e) (s := t) h (.inr fun _ _ _ => rfl)).of_withoutSB
  case vbcast =>
    refine rowFramed_of_outcome vbcastDesc _ (fun _ _ => rfl) fun e s h => ?_
    exact .of_room (.of_source (.readScalar (.inl rfl)) fun a wa t ha => moveOp_outcome h fun _ => rfl)
  case vbcastEl =>
    refine rowFramed_of_outcome vbcastElDesc _ (fun _ _ => rfl) fun e s h => ?_
    exact .of_room (.of_source (.readScalar (.inr rfl)) fun a wa t ha => moveOp_outcome h fun _ => rfl)
  case vperm =>
    refine rowFramed_of_outcome vpermDesc _ (fun _ _ => rfl) fun e s h => ?_
    exact .of_room (.of_source (.readVecSrc (.inl rfl)) fun a wa t ha => moveOp_outcome h ha)
  case vshuf =>
    refine rowFramed_of_outcome vshufDesc _ (fun _ _ => rfl) fun e s h => ?_
    exact .of_room (.of_source (.readVecSrc (.inl rfl)) fun a wa t ha => .of_source (.after _ (.readVecSrc (.inr rfl)))
      fun b wb u hb => moveOp_outcome h fun hp => by rw [ha hp, hb hp]; rfl)
  case vext =>
    refine rowFramed_of_outcome vextDesc _ (fun _ _ => rfl) fun e s h => ?_
    exact .of_room (moveOp_outcome h fun _ => rfl)
  case vextEl =>
    refine rowFramed_of_outcome vextElDesc _ (fun _ _ => rfl) fun e s h => ?_
    exact .of_source (.readScalar (.inr rfl)) fun b wb t hb => .retire fun _ => List.forall_mem_singleton.2 ⟨sReg_cls h, rfl⟩
  case vins =>
    refine rowFramed_of_outcome vinsDesc _ (fun _ _ => rfl) fun e s h => ?_
    refine .of_source (.readScalar (.inl rfl)) fun a wa t ha => .of_source (.readScalar (.inr rfl))
      fun b wb u hb => .retire fun _ => List.forall_mem_singleton.2 ?_
    have hc : e.da.cls = .vector := vReg_cls h
    simp [writeAllowed, daVectors, hc]
  case vcomp =>
    refine rowFramed_of_outcome vcompDesc _ (fun _ _ => rfl) fun e s h => ?_
    exact .of_room (.of_source (.readVecSrc (.inl rfl)) fun a wa t ha => .retire fun hp => by
      rw [ha hp]
      exact List.forall_mem_singleton.2 (destWriteV_allowed h))

theorem floatVectorRowsFramed :
    ∀ row ∈ [Instr.vfadd, .vfsub, .vfmul, .vffma, .vfdiv, .vfsqrt, .vfmin, .vfmax, .vfcmp, .vfcvt, .vred, .vscan,
      .vexp2, .vlog2, .vrcp, .vrsq, .vsin, .vcos, .vtanh], RowFramed row 1 true := by
  simp only [List.forall_mem_cons, List.not_mem_nil, false_implies, implies_true, and_true]
  refine ⟨?vfadd, ?vfsub, ?vfmul, ?vffma, ?vfdiv, ?vfsqrt, ?vfmin, ?vfmax, ?vfcmp, ?vfcvt, ?vred, ?vscan, ?vexp2, ?vlog2, ?vrcp, ?vrsq,
    ?vsin, ?vcos, ?vtanh⟩
  case vfcmp => exact comparisonRow_framed (.inl rfl) (fun _ => rfl) fun _ _ => rfl
  case vffma => exact elementRow_framed (.inl rfl) (fun _ h => vReg_dst h) fun _ _ => rfl
  case vfcvt =>
    refine rowFramed_of_outcome vfcvtDesc _ (fun _ _ => rfl) fun e s h => ?_
    exact .of_room (.of_source (.readVecSrc (.inl rfl)) fun a wa t ha => .retire fun hp => by
      rw [ha hp]
      exact flags_and_vector_allowed h (.inl rfl))
  case vred =>
    refine rowFramed_of_outcome vredDesc _ (fun _ _ => rfl) fun e s h => ?_
    refine .of_room (.retire fun _ => ?_)
    simp only [List.forall_mem_cons, List.not_mem_nil, false_implies, implies_true, and_true]
    exact ⟨.inl rfl, destWrite_allowed rfl (dstSlot_cls h) _ _⟩
  case vscan =>
    refine rowFramed_of_outcome vscanDesc _ (fun _ _ => rfl) fun e s h => ?_
    exact .of_room (.of_source (.readVecSrc (.inl rfl)) fun a wa t ha => .retire fun hp => by
      rw [ha hp]
      exact flags_and_vector_allowed h (.inl rfl))
  all_goals exact elementRow_framed (.inl rfl) (fun _ h => h) fun _ _ => rfl

/-- The Welford rows are long: what they write comes when their results are known (R39, R186). -/
theorem welfordRowsFramed : RowFramed .wfin 2 true ∧ ∀ row ∈ [Instr.welf, .wmerge, .wred], RowFramed row 3 true := by
  simp only [List.forall_mem_cons, List.not_mem_nil, false_implies, implies_true, and_true]
  refine ⟨rowFramed_of_outcome wfinDesc _ (fun _ _ => rfl) fun e s _ => .of_source (.readScalar (.inr rfl)) fun b wb t hb => .retire nofun,
    rowFramed_of_outcome welfRowDesc _ (fun _ _ => rfl) fun e s _ => .retire nofun,
    rowFramed_of_outcome wmergeDesc _ (fun _ _ => rfl) fun e s _ => .retire nofun,
    rowFramed_of_outcome wredDesc _ (fun _ _ => rfl) fun e s _ => .retire nofun⟩

/-! ### The queue-fed reduction -/

theorem State.deliver_ready (s : State) (t : Nat) (x : Side) (p : PendTrap) (h : (s.strand t x).status = .ready) :
    ∀ c, ((s.deliver t x p).strand t x).status ≠ .waiting c := by
  intro c
  unfold State.deliver
  split
  · dsimp only
    split
    · simp [State.enterUser, State.updStrand]
    · unfold State.enterSupervisor
      dsimp only
      have hd : ∀ (u : State) g, (u.updDevice (deviceOf t) g).strand t x = u.strand t x := fun _ _ => rfl
      split
      · rw [hd]; simp [State.updStrand]
      · simp [State.updStrand]
  · simp [State.updStrand, h]

/-- A strand that has trapped does not wait. -/
theorem State.raise_not_waiting (s : State) (t : Nat) (x : Side) (i : TrapInfo) :
    ∀ c, ((s.raise t x i).strand t x).status ≠ .waiting c := by
  intro c
  have hd : ∀ (u : State) i, ((u.discard t i).strand t x) = u.strand t x := by
    intro u i; unfold State.discard; dsimp only; split <;> rfl
  have h0 : ((s.updStrand t x fun st => { st with status := .ready, flight := none }).strand t x).status = .ready := by
    simp [State.updStrand]
  unfold State.raise State.raiseAt
  generalize s.updStrand t x _ = u at h0 ⊢
  dsimp only
  split
  · split
    · rw [hd, h0]; nofun
    · simp [State.updStrand, hd, h0]
  · split
    · exact State.deliver_ready u t x _ h0 c
    · simp [State.updStrand, h0]

/-- The issuing strand is still the one that issues. -/
theorem State.raise_cur (s : State) (t : Nat) (x : Side) (i : TrapInfo) :
    (s.raise t x i).curT = s.curT ∧ (s.raise t x i).curX = s.curX := by
  have hr : ∀ (u : State) o, (u.regionDelivered o).curT = u.curT ∧ (u.regionDelivered o).curX = u.curX := by
    intro u o; cases o <;> exact ⟨rfl, rfl⟩
  unfold State.raise State.raiseAt
  dsimp only
  split
  · split <;> (unfold State.discard; dsimp only; split <;> exact ⟨rfl, rfl⟩)
  · split
    · unfold State.deliver
      split
      · dsimp only
        split
        · exact hr ..
        · unfold State.enterSupervisor
          dsimp only
          split <;> exact hr ..
      · exact ⟨rfl, rfl⟩
    · exact ⟨rfl, rfl⟩

/-- A stop without an effect leaves the instruction neither completed nor going on at its next issue. -/
theorem Stop.settle_not_more {s t : State} {x : Stop} (hx : x.plain) (hm : x ≠ .wait .more)
    (ht : t = s.settle s.curT s.curX (.error x)) : ¬(completed s t ∨ t.my.status = .waiting .more) := by
  subst ht
  rintro (hc | hc)
  · have ho := s.settle_order s.curT s.curX x (by cases x <;> first | rfl | exact hx.elim)
    unfold completed State.my at hc
    omega
  · cases x with
    | trap i =>
      obtain ⟨h1, h2⟩ := s.raise_cur s.curT s.curX i
      refine s.raise_not_waiting s.curT s.curX i .more ?_
      rwa [State.settle, State.my, h1, h2] at hc
    | wait c =>
      have hs : (s.block s.curT s.curX c).my.status = .waiting c := by
        rw [show s.block s.curT s.curX c = s.updMy fun st => { st with status := .waiting c } from rfl, State.my_updMy]
      exact hm (congrArg Stop.wait (Status.waiting.inj (hs.symm.trans hc)))
    | trapIn | waitIn => exact hx.elim

/-- Everything but what the queue-fed reduction writes is as it was: queue q, vector register d, the flags and `%prog` of the
issuing strand, the end-of-stream flags of its thread, and the strands' bookkeeping. -/
structure Combined (q d : Nat) (s t : State) : Prop where
  rest   : { t with threads := s.threads } = s
  other  : ∀ k, k ≠ s.curT → t.thread k = s.thread k
  side   : ∀ x, x ≠ s.curX → (s.me.strand x).keptOrResumed True (t.me.strand x)
  mine   : { t.my.visible with fps := s.my.fps, prog := s.my.prog } = s.my.visible
  fps    : s.my.fps &&& t.my.fps = s.my.fps
  shared : { t.me.shared with v := s.me.v, eos := s.me.eos } = s.me.shared
  vector : ∀ n, n ≠ d → t.me.getV n = s.me.getV n
  queue  : ∀ n, n ≠ q → t.me.getQ n = s.me.getQ n

section Combined

variable {q d : Nat} {s t u : State}

theorem Combined.field {α : Type} (h : Combined q d s t) (f : State → α)
    (hf : ∀ (u : State) (a : List (Nat × Thread)), f { u with threads := a } = f u) : f t = f s :=
  (hf t s.threads).symm.trans (congrArg f h.rest)

theorem Combined.curT (h : Combined q d s t) : t.curT = s.curT := h.field State.curT fun _ _ => rfl
theorem Combined.curX (h : Combined q d s t) : t.curX = s.curX := h.field State.curX fun _ _ => rfl

theorem Combined.trans (h : Combined q d s t) (h' : Combined q d t u) : Combined q d s u where
  rest := (congrArg (fun r : State => ({ r with threads := s.threads } : State)) h'.rest).trans h.rest
  other k hk := (h'.other k (h.curT ▸ hk)).trans (h.other k hk)
  side x hx := ((h.side x hx).trans (h'.side x (h.curX ▸ hx))).mono (or_self _).mp
  mine := (congrArg (fun st : Strand => { st with fps := s.my.fps, prog := s.my.prog }) h'.mine).trans h.mine
  fps := by rw [← h.fps, BitVec.and_assoc, h'.fps]
  shared := (congrArg (fun th : Thread => { th with v := s.me.v, eos := s.me.eos }) h'.shared).trans h.shared
  vector n hn := (h'.vector n hn).trans (h.vector n hn)
  queue n hn := (h'.queue n hn).trans (h.queue n hn)

/-- An update of the issuing strand that only sets flags, changes `%prog` and does its bookkeeping. -/
theorem Combined.updMy (q d : Nat) (s : State) (f : Strand → Strand)
    (hf : ∀ st, { (f st).visible with fps := st.fps, prog := st.prog } = st.visible)
    (hfps : ∀ st, st.fps &&& (f st).fps = st.fps) : Combined q d s (s.updMy f) := by
  have hme : (s.updMy f).me = s.me.setStrand s.curX (f s.my) := State.thread_setThread ..
  have hmy : (s.updMy f).my = f s.my := State.my_updMy ..
  refine ⟨rfl, fun k hk => State.thread_setThread_ne s _ hk, fun x hx => ?_, hmy ▸ hf _, hmy ▸ hfps _, ?_, fun n _ => ?_, fun n _ => ?_⟩
  · exact .inl (hme ▸ Thread.strand_setStrand_ne _ _ hx)
  · rw [hme, setStrand_shared]; rfl
  · rw [hme, setStrand_getV]
  · rw [hme, setStrand_getQ]

theorem Combined.advance (h : Combined q d s t) : Combined q d s (t.updMy Strand.advance) :=
  h.trans (Combined.updMy _ _ _ _ (fun _ => rfl) fun _ => BitVec.and_self)

/-- A pop, with a write of the vector register or of the end-of-stream flags beside it. -/
theorem Combined.setThread (s : State) (l : List QEntry) {th : Thread} (hx : ∀ x, th.strand x = (s.me.popTo q l).strand x)
    (hq : th.q = (s.me.popTo q l).q) (hv : ∀ n, n ≠ d → th.getV n = (s.me.popTo q l).getV n)
    (hs : { th.shared with v := s.me.v, eos := s.me.eos } = { (s.me.popTo q l).shared with v := s.me.v, eos := s.me.eos }) :
    Combined q d s (s.setThread s.curT th) := by
  have hme : (s.setThread s.curT th).me = th := State.thread_setThread ..
  obtain ⟨-, -, pside, pmine, pshared, pqueue⟩ := Kept.popTo s q l
  simp only [State.strand, State.thread_setThread] at pside pmine pshared pqueue
  have hmy : (s.setThread s.curT th).my.visible = s.my.visible := by
    show ((s.setThread s.curT th).me.strand s.curX).visible = _
    rw [hme, hx]
    exact pmine
  have hshared : (s.me.popTo q l).shared = s.me.shared := pshared
  refine ⟨rfl, fun k hk => State.thread_setThread_ne s _ hk, fun x hne => ?_, ?_, ?_, ?_, fun n hn => ?_, fun n hn => ?_⟩
  · rw [hme, hx]
    exact (pside x hne).mono fun _ => trivial
  · rw [hmy]; rfl
  · have hfps : (s.setThread s.curT th).my.visible.fps = s.my.visible.fps := congrArg Strand.fps hmy
    exact (congrArg (s.my.fps &&& ·) hfps).trans BitVec.and_self
  · rw [hme, hs, hshared]; rfl
  · rw [hme, hv n hn]
    have := congrArg (fun u : Thread => u.getV n) hshared
    exact this
  · rw [hme]
    refine Eq.trans ?_ (pqueue n hn)
    unfold Thread.getQ
    rw [hq]

end Combined

/-- The flags that an element raises are or'ed in. -/
theorem Strand.and_orFps (st : Strand) (f : BitVec 5) : st.fps &&& (st.orFps f).fps = st.fps := by
  show st.fps &&& (st.fps ||| _) = _
  refine BitVec.eq_of_getLsbD_eq fun i _ => ?_
  simp only [BitVec.getLsbD_and, BitVec.getLsbD_or]
  cases st.fps.getLsbD i <;> rfl

theorem Strand.observePop_fps (st : Strand) (q : Nat) (en : QEntry) : (st.observePop q en).fps = st.fps :=
  (congrArg Strand.fps (st.observePop_visible q en) : (st.observePop q en).visible.fps = st.visible.fps)

theorem State.combineEntry_combined (e : Enc) (q : Nat) (en : QEntry) (s : State) :
    Combined q e.da.idx.toNat s (s.combineEntry e q en) := by
  unfold State.combineEntry
  refine Combined.trans (Combined.setThread s ((s.me.getQ q).drop 1)
    (th := (s.me.popTo q ((s.me.getQ q).drop 1)).setV e.da.idx.toNat _) (fun x => by cases x <;> rfl) rfl (fun n hn => ?_) rfl)
    (Combined.updMy _ _ _ _ (fun st => ?_) fun st => ?_)
  · simp [Thread.setV, Thread.getV, Vector.getElem?_setIfInBounds_ne, Ne.symm hn]
  · exact congrArg (fun u : Strand => { u with fps := st.fps, prog := st.prog }) ((st.orFps _).observePop_visible q en)
  · show st.fps &&& (Strand.observePop _ q en).fps = st.fps
    rw [Strand.observePop_fps]
    exact st.and_orFps _

/-- What a round of the reduction comes to: a state with nothing else changed, or a stop with no effect. -/
def RoundOutcome (q d : Nat) (s : State) : Except Stop State → Prop
  | .ok t | .error (.waitIn _ t) => Combined q d s t
  | .error x => x.plain ∧ x ≠ .wait .more

theorem vredRound_outcome (e : Enc) (q : Nat) (s : State) : RoundOutcome q e.da.idx.toNat s (vredRound e q s) := by
  have hend (u : State) : Combined q e.da.idx.toNat u ((u.updMy fun st => { st with prog := 0 }).updMy Strand.advance) :=
    (Combined.updMy _ _ u (fun st => { st with prog := 0 }) (fun _ => rfl) fun _ => BitVec.and_self).advance
  by_cases hn : s.my.prog.toNat < e.imm.toNat
  · cases hq : s.me.getQ q with
    | nil =>
      rw [vredRound_of_empty hn hq]
      exact ⟨trivial, nofun⟩
    | cons en r =>
      cases ht : en.eos with
      | true =>
        rw [vredRound_of_token hn hq ht]
        refine Combined.advance (Combined.trans (Combined.setThread s r
          (th := { s.me.popTo q r with eos := s.me.eos ||| (1#16 <<< q) }) (fun x => by cases x <;> rfl) rfl (fun _ _ => rfl) rfl)
          (Combined.updMy _ _ _ _ (fun st => ?_) fun st => ?_))
        · exact congrArg (fun u : Strand => { u with fps := st.fps, prog := st.prog }) (st.observePop_visible q en)
        · exact (congrArg (st.fps &&& ·) (st.observePop_fps q en)).trans BitVec.and_self
      | false =>
        rw [vredRound_of_entry hn hq ht]
        by_cases hc : (s.combineEntry e q en).my.prog.toNat < e.imm.toNat
        · rw [if_pos hc]
          exact s.combineEntry_combined e q en
        · rw [if_neg hc]
          exact (s.combineEntry_combined e q en).trans (hend _)
  · rw [vredRound_of_counted (Nat.not_lt.mp hn)]
    exact hend s

/-- What is combined is the frame of the row, whose source is a queue and whose DA is a vector register. -/
theorem Combined.rowFrame {e : Enc} {s t : State} (h : Combined e.sa.idx.toNat e.da.idx.toNat s t) (hq : e.sa.cls = .queue) :
    RowFrame e [e.da.idx.toNat] [10] true s t := by
  have hp : popsQueue e = true := by simp [popsQueue, hq]
  have hmy {α : Type} (f : Strand → α) (h1 : ∀ (st : Strand) a b, f { st.visible with fps := a, prog := b } = f st)
      (h2 : ∀ st : Strand, f st.visible = f st) : f t.my = f s.my :=
    (h1 t.my _ _).symm.trans ((congrArg f h.mine).trans (h2 _))
  have hme {α : Type} (f : Thread → α) (h1 : ∀ (th : Thread) a b, f { th.shared with v := a, eos := b } = f th)
      (h2 : ∀ th : Thread, f th.shared = f th) : f t.me = f s.me :=
    (h1 t.me _ _).symm.trans ((congrArg f h.shared).trans (h2 _))
  refine ⟨h.curT, h.curX, fun a => h.field (fun u => memGet u.mem a) fun _ _ => rfl, h.field State.feEmpty fun _ _ => rfl, h.other,
    fun x hx => (h.side x hx).mono fun _ => ⟨e.sa, by simp, hq⟩, fun n _ => hmy (fun st => st.getS n) (fun _ _ _ => rfl) fun _ => rfl,
    fun n _ => hmy (fun st => st.getP n) (fun _ _ _ => rfl) fun _ => rfl, fun n hn => h.vector n (by simpa using hn),
    h.field State.cores fun _ _ => rfl, h.field State.clusters fun _ _ => rfl, h.field State.devices fun _ _ => rfl,
    fun q hn => h.queue q fun hc => hn e.sa (by simp) hq hc.symm, fun k h10 h9 h11 => ?_, nofun, h.fps,
    hmy Strand.sup (fun _ _ _ => rfl) fun _ => rfl, hmy Strand.uh (fun _ _ _ => rfl) fun _ => rfl⟩
  have hc : ∀ n, t.cluster n = s.cluster n := fun n => h.field (fun u => u.cluster n) fun _ _ => rfl
  have hy : ∀ n, t.now n = s.now n := fun n => h.field (fun u => u.now n) fun _ _ => rfl
  have hT : ∀ n, t.time n = s.time n := fun n => h.field (fun u => u.time n) fun _ _ => rfl
  have hl : ∀ a b, t.l2stat a b = s.l2stat a b := fun a b => h.field (fun u => u.l2stat a b) fun _ _ => rfl
  unfold State.special
  simp only [h.curT, hc, hy, hT, hl]
  split <;> first
    | rfl
    | exact absurd rfl h9
    | exact absurd List.mem_cons_self h10
    | exact absurd hp (by simpa using h11)
    | exact hmy Strand.uepc (fun _ _ _ => rfl) fun _ => rfl
    | exact hmy Strand.ucause (fun _ _ _ => rfl) fun _ => rfl
    | exact hmy Strand.uinfo (fun _ _ _ => rfl) fun _ => rfl
    | exact hmy Strand.sepc (fun _ _ _ => rfl) fun _ => rfl
    | exact hmy Strand.scause (fun _ _ _ => rfl) fun _ => rfl
    | exact hmy Strand.sinfo (fun _ _ _ => rfl) fun _ => rfl
    | exact hme (fun th => wordOf th.prio) (fun _ _ _ => rfl) fun _ => rfl
    | exact hme (fun th => th.acc.setWidth 64) (fun _ _ _ => rfl) fun _ => rfl
    | exact hme Thread.uvec (fun _ _ _ => rfl) fun _ => rfl
    | exact hme (fun th => th.syncretry.setWidth 64) (fun _ _ _ => rfl) fun _ => rfl

theorem queueSlot_cls {o : Operand} (h : (Slot.of [.queue]).misused o = false) : o.cls = .queue := by
  obtain ⟨c, n⟩ := o
  cases c <;> simp_all [Slot.misused]

theorem Desc.sa_of_check {d : Desc} {e : Enc} {th : Thread} {x : Side} (h : d.check e th x = none) : d.sa.misused e.sa = false := by
  unfold Desc.check Desc.operandClass at h
  cases hm : d.sa.misused e.sa
  · rfl
  · simp only [hm, Bool.or_true, Bool.true_or, if_true] at h
    split at h
    · cases h
    · split at h <;> cases h

/-- An instruction of a vector row that completes, or goes on at its next issue, has passed its checks and its wait mask, and comes
to what its body comes to. -/
theorem issue_of_more {d : Desc} {e : Enc} {s t : State} {body : State → Except Stop State} (h : issue d e s body = .next t)
    (hv : d.vec = true) (hc : completed s t ∨ t.my.status = .waiting .more) :
    d.check e s.me s.curX = none ∧ ∃ s1, s.waitMask e.wm = .ok s1 ∧ t = s.settle s.curT s.curX (body s1) := by
  cases ht : s.thread? s.curT with
  | none => rw [issue_noStrand d e body ht] at h; cases h
  | some th =>
    cases hk : d.check e s.me s.curX with
    | some c =>
      rw [issue_check ht hk] at h
      cases h
      exact absurd hc (Stop.settle_not_more (x := .trap (TrapInfo.plain c)) trivial nofun rfl)
    | none =>
      refine ⟨rfl, ?_⟩
      cases hw : s.waitMask e.wm with
      | error x =>
        rw [issue_mask ht hk hw] at h
        cases h
        refine absurd hc (Stop.settle_not_more (x := x) ?_ ?_ rfl)
        all_goals
          unfold State.waitMask at hw
          split at hw
          · cases hw
          · split at hw
            · cases hw; first | trivial | nofun
            · split at hw <;> cases hw; first | trivial | nofun
      | ok s1 =>
        refine ⟨s1, rfl, ?_⟩
        unfold issue runChecked at h
        simp only [ht, hk, hw, hv, Bool.not_true, Bool.false_and, Bool.false_eq_true, if_false] at h
        exact (Host.Outcome.next.inj h).symm

theorem vredQueueFramed (e : Enc) (s t : State) (h : exec (.vredQueue e) s = .next t)
    (hc : completed s t ∨ t.my.status = .waiting .more) : RowFrame e [e.da.idx.toNat] [10] true s t := by
  obtain ⟨hk, s1, hw, ht⟩ := issue_of_more (d := vredQueueDesc e) (body := vredRound e e.sa.idx.toNat) h rfl hc
  have hq : e.sa.cls = .queue := queueSlot_cls (Desc.sa_of_check hk)
  have ho := vredRound_outcome e e.sa.idx.toNat s1
  refine (State.waitMask_kept hw).before e _ _ true (fun _ hn => hn.elim) ?_
  have hmore (x : Stop) (hb : vredRound e e.sa.idx.toNat s1 = .error x) (hx : x.plain ∧ x ≠ .wait .more) :
      RowFrame e [e.da.idx.toNat] [10] true s1 t :=
    absurd hc (Stop.settle_not_more hx.1 hx.2 (hb ▸ ht))
  have hkept := State.waitMask_kept hw
  cases hb : vredRound e e.sa.idx.toNat s1 with
  | ok u =>
    rw [hb] at ho ht
    rw [ht]
    exact Combined.rowFrame ho hq
  | error x =>
    rw [hb] at ho
    cases x with
    | trap i => exact hmore _ hb ho
    | wait c => exact hmore _ hb ho
    | trapIn i u => exact hmore _ hb ho
    | waitIn c u =>
      rw [hb] at ht
      have hb : u.block s.curT s.curX c = u.updMy fun st => { st with status := .waiting c } := by
        rw [← hkept.curT, ← hkept.curX, ← Combined.curT ho, ← Combined.curX ho]
        rfl
      rw [ht, State.settle, hb]
      exact Combined.rowFrame (Combined.trans ho (Combined.updMy _ _ _ _ (fun _ => rfl) fun _ => BitVec.and_self)) hq

/-! ### The special-register rows -/

/-- The special registers that a strand holds itself (R71). -/
def Strand.specials : Nat → Option (Strand → Word)
  | 9 => some Strand.fps
  | 10 => some Strand.prog
  | 15 => some Strand.uepc
  | 16 => some Strand.ucause
  | 17 => some Strand.uinfo
  | 65 => some Strand.sepc
  | 66 => some Strand.scause
  | 67 => some Strand.sinfo
  | _ => none

/-- Those that the strands of a thread share. -/
def Thread.specials : Nat → Option (Thread → Word)
  | 11 => some fun th => th.eos.setWidth 64
  | 12 => some fun th => wordOf th.prio
  | 13 => some fun th => th.acc.setWidth 64
  | 14 => some Thread.uvec
  | 18 => some fun th => th.syncretry.setWidth 64
  | _ => none

/-- Those that a cluster holds. -/
def Cluster.specials : Nat → Option (Cluster → Word)
  | 64 => some Cluster.svec
  | 68 => some Cluster.ptroot
  | 69 => some Cluster.ownroot
  | 70 => some Cluster.ctxReg
  | 72 => some Cluster.watchdog
  | _ => none

/-- A special register is what it was where its own place is. -/
theorem State.special_of_places {s t : State} {k : Nat} (hT : t.curT = s.curT) (hd : t.devices = s.devices)
    (hpart : (t.cluster (clusterOf s.curT)).part = (s.cluster (clusterOf s.curT)).part)
    (hmy : ∀ g, Strand.specials k = some g → g t.my = g s.my) (hme : ∀ g, Thread.specials k = some g → g t.me = g s.me)
    (hcl : ∀ g, Cluster.specials k = some g → g (t.cluster (clusterOf s.curT)) = g (s.cluster (clusterOf s.curT))) :
    t.special k = s.special k := by
  have hdev : ∀ n, t.device n = s.device n := fun n => by unfold State.device; rw [hd]
  unfold State.special State.now State.cycleOf State.time State.l2stat
  simp only [hT, hpart, hdev]
  split <;> first
    | rfl
    | exact hmy _ rfl
    | exact hme _ rfl
    | exact hcl _ rfl

/-- An update of the issuing strand that keeps its registers and every special register but k0. -/
theorem updMy_specialFrame (s : State) (k0 : Nat) (f : Strand → Strand)
    (hf : ∀ k, k ≠ k0 → ∀ g, Strand.specials k = some g → g (f s.my) = g s.my)
    (hreg : (f s.my).s = s.my.s ∧ (f s.my).p = s.my.p ∧ (f s.my).sup = s.my.sup ∧ (f s.my).uh = s.my.uh) :
    SpecialFrame k0 none s (s.updMy f) := by
  have hmy : (s.updMy f).my = f s.my := State.my_updMy ..
  have hme : (s.updMy f).me = s.me.setStrand s.curX (f s.my) := State.thread_setThread ..
  have hme' {α : Type} (g : Thread → α) (hg : ∀ (th : Thread) x st, g (th.setStrand x st) = g th) : g (s.updMy f).me = g s.me := by
    rw [hme, hg]
  obtain ⟨hs, hp, hsup, huh⟩ := hreg
  refine ⟨rfl, rfl, fun _ => rfl, rfl, fun k hk => State.thread_setThread_ne s _ hk, fun x hx => ?_, fun n _ => ?_, fun n => ?_,
    fun n => hme' (fun th => th.getV n) fun th x st => setStrand_getV .., fun q => hme' (fun th => th.getQ q) fun th x st => setStrand_getQ ..,
    rfl, rfl, fun _ _ => rfl, rfl, fun k hk => ?_, by rw [hmy, hsup], by rw [hmy, huh]⟩
  · rw [hme, Thread.strand_setStrand_ne _ _ hx]
  · rw [hmy]; unfold Strand.getS; rw [hs]
  · rw [hmy]; unfold Strand.getP; rw [hp]
  · refine State.special_of_places rfl rfl rfl (fun g hg => by rw [hmy]; exact hf k hk g hg) (fun g hg => ?_) fun _ _ => rfl
    refine hme' g fun th x st => ?_
    revert hg
    unfold Thread.specials
    split <;> rintro ⟨⟩ <;> cases x <;> rfl

/-- An update of what the strands of the issuing thread share. -/
theorem updThread_specialFrame (s : State) (k0 : Nat) (f : Thread → Thread)
    (hf : ∀ k, k ≠ k0 → ∀ g, Thread.specials k = some g → g (f s.me) = g s.me)
    (hreg : (∀ x, (f s.me).strand x = s.me.strand x) ∧ (f s.me).v = s.me.v ∧ (f s.me).q = s.me.q) :
    SpecialFrame k0 none s (s.updThread s.curT f) := by
  have hme : (s.updThread s.curT f).me = f s.me := State.thread_setThread ..
  obtain ⟨hst, hv, hq⟩ := hreg
  have hmy : (s.updThread s.curT f).my = s.my := by
    show (s.updThread s.curT f).me.strand s.curX = _
    rw [hme, hst]; rfl
  refine ⟨rfl, rfl, fun _ => rfl, rfl, fun k hk => State.thread_setThread_ne s _ hk, fun x _ => by rw [hme, hst], fun n _ => by rw [hmy],
    fun n => by rw [hmy], fun n => by rw [hme]; unfold Thread.getV; rw [hv], fun q => by rw [hme]; unfold Thread.getQ; rw [hq],
    rfl, rfl, fun _ _ => rfl, rfl, fun k hk => ?_, by rw [hmy], by rw [hmy]⟩
  exact State.special_of_places rfl rfl rfl (fun g _ => by rw [hmy]) (fun g hg => by rw [hme]; exact hf k hk g hg) fun _ _ => rfl

/-- An update of the special registers of the issuing thread's cluster. -/
theorem updCluster_specialFrame (s : State) (k0 : Nat) (f : Cluster → Cluster)
    (hf : ∀ cl, ∀ k, k ≠ k0 → ∀ g, Cluster.specials k = some g → g (f cl) = g cl)
    (hoff : ∀ cl, ({ f cl with svec := 0, ptroot := 0, ownroot := 0, ctxReg := 0, watchdog := 0 } : Cluster) =
      { cl with svec := 0, ptroot := 0, ownroot := 0, ctxReg := 0, watchdog := 0 }) :
    SpecialFrame k0 none s (s.updCluster (clusterOf s.curT) f) := by
  have hcl : (s.updCluster (clusterOf s.curT) f).cluster (clusterOf s.curT) = f (s.cluster (clusterOf s.curT)) :=
    State.cluster_setCluster ..
  refine ⟨rfl, rfl, fun _ => rfl, rfl, fun _ _ => rfl, fun _ _ => rfl, fun _ _ => rfl, fun _ => rfl, fun _ => rfl, fun _ => rfl, rfl, rfl,
    fun c hc => ?_, ?_, fun k hk => ?_, rfl, rfl⟩
  · exact State.cluster_setCluster_ne s _ hc
  · rw [hcl]; exact hoff _
  · refine State.special_of_places rfl rfl ?_ (fun _ _ => rfl) (fun _ _ => rfl) fun g hg => ?_
    · rw [hcl]; exact (Cluster.mk.inj (hoff _)).2.2.2.2.2.1
    · rw [hcl]; exact hf _ k hk g hg

theorem SpecialFrame.refl (k0 : Nat) (s : State) : SpecialFrame k0 none s s :=
  ⟨rfl, rfl, fun _ => rfl, rfl, fun _ _ => rfl, fun _ _ => rfl, fun _ _ => rfl, fun _ => rfl, fun _ => rfl, fun _ => rfl, rfl, rfl,
    fun _ _ => rfl, rfl, fun _ _ => rfl, rfl, rfl⟩

/-- A write of a special register leaves the others (R73, R137). -/
theorem State.setSpecial_frame (s : State) (k0 : Nat) (v : Word) : SpecialFrame k0 none s (s.setSpecial k0 v) := by
  unfold State.setSpecial
  split
  case h_1 | h_2 | h_6 | h_7 | h_8 | h_11 | h_12 | h_13 =>
    refine updMy_specialFrame s _ _ (fun k hk g hg => ?_) ⟨rfl, rfl, rfl, rfl⟩
    revert hg
    unfold Strand.specials
    split <;> rintro ⟨⟩ <;> first | rfl | exact absurd rfl hk
  case h_3 | h_4 | h_5 | h_9 =>
    refine updThread_specialFrame s _ _ (fun k hk g hg => ?_) ⟨fun x => by cases x <;> rfl, rfl, rfl⟩
    revert hg
    unfold Thread.specials
    split <;> rintro ⟨⟩ <;> first | rfl | exact absurd rfl hk
  case h_10 | h_14 | h_15 | h_16 | h_17 =>
    refine updCluster_specialFrame s _ _ (fun cl k hk g hg => ?_) fun _ => rfl
    revert hg
    unfold Cluster.specials
    split <;> rintro ⟨⟩ <;> first | rfl | exact absurd rfl hk
  case h_18 => exact SpecialFrame.refl _ s

theorem SpecialFrame.trans {k0 : Nat} {d : Option Nat} {s t u : State} (h : SpecialFrame k0 none s t) (h' : SpecialFrame k0 d t u) :
    SpecialFrame k0 d s u := by
  obtain ⟨a1, a2, a3, a4, a5, a6, a7, a8, a9, a10, a11, a12, a13, a14, a15, a16, a17⟩ := h
  obtain ⟨b1, b2, b3, b4, b5, b6, b7, b8, b9, b10, b11, b12, b13, b14, b15, b16, b17⟩ := h'
  rw [a1] at b5 b13 b14
  rw [a2] at b6
  exact ⟨b1.trans a1, b2.trans a2, fun a => (b3 a).trans (a3 a), b4.trans a4, fun k hk => (b5 k hk).trans (a5 k hk),
    fun x hx => (b6 x hx).trans (a6 x hx), fun n hn => (b7 n hn).trans (a7 n nofun), fun n => (b8 n).trans (a8 n),
    fun n => (b9 n).trans (a9 n), fun q => (b10 q).trans (a10 q), b11.trans a11, b12.trans a12, fun c hc => (b13 c hc).trans (a13 c hc),
    b14.trans a14, fun k hk => (b15 k hk).trans (a15 k hk), b16.trans a16, b17.trans a17⟩

/-- The frame of a row without queue operands, which writes at most a scalar register, is the frame of a write of a special register. -/
theorem RowFrame.specialFrame {e : Enc} {s t : State} {k0 : Nat} {d : Option Nat} (h : RowFrame e [] [] false s t)
    (hn : ∀ o ∈ [e.da, e.sa, e.sb], o.cls ≠ .queue) (hp : e.da.cls ≠ .predicate)
    (hd : ∀ n, d ≠ some n → n ≠ e.da.idx.toNat ∨ e.da.cls ≠ .scalar) : SpecialFrame k0 d s t := by
  obtain ⟨a1, a2, a3, a4, a5, a6, a7, a8, a9, a10, a11, a12, a13, a14, a15, a16, a17, a18⟩ := h
  have hcl : ∀ n, t.cluster n = s.cluster n := fun n => by unfold State.cluster; rw [a11]
  refine ⟨a1, a2, a3, a4, a5, fun x hx => ?_, fun n h => a7 n (hd n h), fun n => a8 n (.inr hp), fun n => a9 n List.not_mem_nil,
    fun q => a13 q fun o ho hq => absurd hq (hn o ho), a10, a12, fun c _ => hcl c, by rw [hcl], fun k _ => ?_, a17, a18⟩
  · rcases a6 x hx with h | ⟨⟨o, ho, hq⟩, -⟩
    · exact h
    · exact absurd hq (hn o ho)
  · by_cases h9 : k = 9
    · subst h9; exact a15 rfl
    · refine a14 k List.not_mem_nil h9 (.inr ?_)
      simp [popsQueue, hn e.sa (by simp), hn e.sb (by simp)]

/-- The fields of a row that names no operand but DA. -/
def onlyDA (e : Enc) (o : Operand) : Enc := { e with da := o, sa := ⟨.absent, 0⟩, sb := ⟨.absent, 0⟩ }

theorem Kept.specialFrame {s t : State} (k0 : Nat) (h : Kept (fun _ => False) s t) (e : Enc) : SpecialFrame k0 none s t :=
  RowFrame.specialFrame (h.rowFrame (onlyDA e ⟨.absent, 0⟩) [] [] false fun _ hn => hn.elim) (by simp [onlyDA]) nofun
    fun _ _ => .inr nofun

theorem ksetFramed (e : Enc) (s s1 : State) (h : accept (.kset e) s = some s1) :
    ∃ t, exec (.kset e) s = .next t ∧ SpecialFrame e.da.idx.toNat none s t :=
  ⟨_, issue_accept_ok rfl h rfl, ((accept_kept h rfl).specialFrame _ e).trans
    ((s1.setSpecial_frame _ _).trans ((State.retire_nil_kept _ e.la _).specialFrame _ e))⟩

theorem kswapFramed (e : Enc) (s s1 : State) (h : accept (.kswap e) s = some s1) :
    ∃ t, exec (.kswap e) s = .next t ∧ SpecialFrame e.sa.idx.toNat (some e.da.idx.toNat) s t := by
  have hda : e.da.cls = .scalar := sReg_cls (accept_da h rfl)
  refine ⟨_, issue_accept_ok rfl h rfl, ((accept_kept h rfl).specialFrame _ e).trans (.trans (t := s1.setSpecial e.sa.idx.toNat (s1.my.getS e.sb.idx.toNat))
    (s1.setSpecial_frame _ _) ?_)⟩
  refine RowFrame.specialFrame (e := onlyDA e e.da) (State.retire_short_frame _ _ _ (List.forall_mem_singleton.2 ⟨hda, rfl⟩))
    (by simp [onlyDA, hda]) (by simp [onlyDA, hda]) fun n hn => .inl fun hc => hn (congrArg some hc.symm)

/-! ### The statement -/

/-- Settles O59: a scalar row by its result, a vector row by what its body comes to, the queue-fed reduction round by round, and a
write of a special register by where that register is held. -/
theorem registerRowFrame : Obligations.RegisterRowFrame := by
  unfold Obligations.RegisterRowFrame
  obtain ⟨hcmp, hfcmp, hplog⟩ := comparePredicateResults
  have hwrite {row : Enc → Instr} {D : Enc → Desc} {f : Enc → State → RegWrite}
      (hx : ∀ e s, exec (row e) s = issue (D e) e s fun s1 => .ok (s1.retire e.la false [f e s1]))
      (hd : ∀ e acc, describe acc (row e) = some (e, D e))
      (hf : ∀ e s, (D e).da.misused e.da = false → writeAllowed e [] false (f e s)) (e : Enc) (s s1 : State)
      (h : accept (row e) s = some s1) : ∃ t, exec (row e) s = .next t ∧ ScalarFrame e false s t :=
    writesResult_framed (writesResult_of_exec (f := fun e s => [f e s]) hx hd) hd hf h
  refine ⟨integerRowsFramed, floatRowsFramed, ?cmp, ?fcmp, ?ldi, ?ldp, ?kget, ?plog, flaglessRowsFramed, floatVectorRowsFramed,
    welfordRowsFramed.1, welfordRowsFramed.2, vredQueueFramed, ksetFramed, kswapFramed⟩
  case cmp =>
    exact fun e s s1 s2 a b ws h hread => compareResult_framed hcmp (fun _ _ => rfl) (fun _ => rfl) (fun _ _ _ => .inr rfl) h hread
  case fcmp =>
    exact fun e s s1 s2 a b ws h hread => compareResult_framed hfcmp (fun _ _ => rfl) (fun _ => rfl) (fun _ _ _ => .inl rfl) h hread
  case ldi | ldp | kget => exact hwrite (fun _ _ => rfl) (fun _ _ => rfl) fun e _ h => ⟨sReg_cls h, rfl⟩
  case plog => exact fun e s s1 h => writesResult_framed hplog (fun _ _ => rfl) (fun e _ h => ⟨pRegSlot_cls h, rfl⟩) h

end Sys2Proof.Machine
end

section
/-! PROOFS. What leaves memory as it was. Each operation of the state that writes no byte of memory, and each result that carries
such a state: a stop, an answer, a touch, an admission. The last part of the text uses them for the invariant of O58. -/

namespace Sys2Proof.Machine

@[simp] theorem State.mem_ite (c : Prop) [Decidable c] (a b : State) : (if c then a else b).mem = if c then a.mem else b.mem :=
  apply_ite State.mem c a b

/-- A fold of steps that leave memory leaves it. -/
@[simp] theorem State.mem_foldl {β : Type} {step : State → β → State} (h : ∀ s b, (step s b).mem = s.mem) (l : List β) (s : State) :
    (l.foldl step s).mem = s.mem := fold_view State.mem step h l s

end Sys2Proof.Machine

namespace Sys2Proof.Machine

variable {s : State}

@[simp] theorem State.channelFails_mem {d n} : (s.channelFails d n).mem = s.mem := by simp [State.channelFails]

@[simp] theorem State.clearPoison_mem {key n} : (s.clearPoison key n).mem = s.mem := rfl

@[simp] theorem State.setPoison_mem {key} : (s.setPoison key).mem = s.mem := rfl

@[simp] theorem State.dropRind_mem {slice line} : (s.dropRind slice line).mem = s.mem := rfl

@[simp] theorem State.releasePaste_mem {slice idx} : (s.releasePaste slice idx).mem = s.mem := rfl

@[simp] theorem State.releaseOld_mem {slice a1} : (s.releaseOld slice a1).mem = s.mem := by
  unfold State.releaseOld
  split <;> rfl

@[simp] theorem State.invalidRind_mem {slice line} : (s.invalidRind slice line).mem = s.mem := by
  unfold State.invalidRind
  split <;> simp

@[simp] theorem State.aim_mem {a0} : (s.aim a0).mem = s.mem := by
  unfold State.aim
  split <;> rfl

@[simp] theorem State.dropOwn_mem {core line} : (s.dropOwn core line).mem = s.mem := rfl

@[simp] theorem State.recordRel_mem {key rs} : (s.recordRel key rs).mem = s.mem := by
  unfold State.recordRel
  split <;> rfl

@[simp] theorem State.setFull_mem {k} : (s.setFull k).mem = s.mem := rfl

@[simp] theorem State.answerWatch_mem {k w value fenced} : (s.answerWatch k w value fenced).mem = s.mem := rfl

@[simp] theorem State.watchRange_mem {key n} : (s.watchRange key n).mem = s.mem := by simp [State.watchRange]

@[simp] theorem State.finish_mem {t x ws} : (s.finish t x ws).mem = s.mem := rfl

@[simp] theorem State.dropClean_mem {k home} : (s.dropClean k home).mem = s.mem := rfl

@[simp] theorem State.setL1_mem {l} : (s.setL1 l).mem = s.mem := rfl

@[simp] theorem State.countPage_mem {die page write} : (s.countPage die page write).mem = s.mem := by simp [State.countPage]

@[simp] theorem State.dropReplicas_mem {slice line} : (s.dropReplicas slice line).mem = s.mem := by simp [State.dropReplicas]

@[simp] theorem State.putRind_mem {r} : (s.putRind r).mem = s.mem := rfl

@[simp] theorem State.touchRind_mem {slice line} : (s.touchRind slice line).mem = s.mem := rfl

@[simp] theorem State.pageMode_mem {die page} : (s.pageMode die page).mem = s.mem := by
  unfold State.pageMode
  split <;> simp

@[simp] theorem State.acquireEngine_mem {t} : (s.acquireEngine t).mem = s.mem := rfl

@[simp] theorem State.setEmpty_mem {k} : (s.setEmpty k).mem = s.mem := by
  unfold State.setEmpty
  split <;> rfl

@[simp] theorem State.nextRequest_mem {t x die req} : (s.nextRequest t x die req).mem = s.mem := rfl

@[simp] theorem State.enterSupervisor_mem {t x p} : (s.enterSupervisor t x p).mem = s.mem := by simp [State.enterSupervisor]

@[simp] theorem State.enterUser_mem {t x p} : (s.enterUser t x p).mem = s.mem := rfl

@[simp] theorem State.regionDelivered_mem {a0} : (s.regionDelivered a0).mem = s.mem := by
  unfold State.regionDelivered
  split <;> rfl

@[simp] theorem State.deliver_mem {t x p} : (s.deliver t x p).mem = s.mem := by simp [State.deliver]

@[simp] theorem State.discard_mem {t i} : (s.discard t i).mem = s.mem := by
  unfold State.discard
  split <;> rfl

@[simp] theorem State.raiseAt_mem {t x p} : (s.raiseAt t x p).mem = s.mem := by
  unfold State.raiseAt
  dsimp only
  split <;> simp

@[simp] theorem State.raise_mem {t x i} : (s.raise t x i).mem = s.mem := by simp [State.raise]

@[simp] theorem State.setPhase_mem {t x p} : (s.setPhase t x p).mem = s.mem := rfl

@[simp] theorem State.applyReply_mem {t x a2} : (s.applyReply t x a2).mem = s.mem := by
  unfold State.applyReply
  split <;> simp

@[simp] theorem State.reply_mem {t x die r} : (s.reply t x die r).mem = s.mem := by
  unfold State.reply
  split
  · simp
  · rfl

@[simp] theorem State.tlbFill_mem {t va own w level} : (s.tlbFill t va own w level).mem = s.mem := rfl

@[simp] theorem State.setRegion_mem {c n r} : (s.setRegion c n r).mem = s.mem := rfl

@[simp] theorem State.retire_mem {la long ws} : (s.retire la long ws).mem = s.mem := by
  unfold State.retire
  split <;> rfl

@[simp] theorem State.fireArms_mem {c k} : (s.fireArms c k).mem = s.mem := by
  unfold State.fireArms
  refine State.mem_foldl (fun s p => ?_) _ _
  rfl

@[simp] theorem State.setArm_mem {c n a} : (s.setArm c n a).mem = s.mem := rfl

@[simp] theorem State.dropAction_mem {c a} : (s.dropAction c a).mem = s.mem := rfl

@[simp] theorem State.endEntry_mem {c a st} : (s.endEntry c a st).mem = s.mem := by simp [State.endEntry]

@[simp] theorem State.enqueue_mem {t q e} : (s.enqueue t q e).mem = s.mem := rfl

@[simp] theorem State.sendArrival_mem {c a} : (s.sendArrival c a).mem = s.mem := rfl

@[simp] theorem State.countSent_mem {l part} : (s.countSent l part).mem = s.mem := by
  unfold State.countSent
  split <;> rfl

@[simp] theorem State.setHeld_mem {link cls n} : (s.setHeld link cls n).mem = s.mem := rfl

@[simp] theorem State.grant_mem {link cls f} : (s.grant link cls f).mem = s.mem := rfl

@[simp] theorem State.countTaken_mem {l part} : (s.countTaken l part).mem = s.mem := by
  unfold State.countTaken
  split <;> rfl

@[simp] theorem State.dropFlits_mem {n l} : (s.dropFlits n l).mem = s.mem := rfl

@[simp] theorem State.ungrant_mem {link cls f} : (s.ungrant link cls f).mem = s.mem := rfl

@[simp] theorem State.quitLink_mem {p} : (s.quitLink p).mem = s.mem := by
  unfold State.quitLink
  split <;> rfl

@[simp] theorem State.leaveLink_mem {p} : (s.leaveLink p).mem = s.mem := by
  unfold State.leaveLink
  split <;> simp

@[simp] theorem State.sendFlits_mem {p l} : (s.sendFlits p l).mem = s.mem := rfl

@[simp] theorem State.setPacket_mem {p} : (s.setPacket p).mem = s.mem := rfl

@[simp] theorem State.enterLink_mem {p l circ} : (s.enterLink p l circ).mem = s.mem := by simp [State.enterLink]

@[simp] theorem State.dropPackets_mem {f} : (s.dropPackets f).mem = s.mem := by simp [State.dropPackets]

@[simp] theorem State.report_mem {d} : (s.report d).mem = s.mem := rfl

@[simp] theorem State.updTok_mem {t tok f} : (s.updTok t tok f).mem = s.mem := by
  unfold State.updTok
  split <;> rfl

@[simp] theorem State.acceptJob_mem {c ms j} : (s.acceptJob c ms j).mem = s.mem := by
  unfold State.acceptJob
  split
  · simp
  · split <;> simp

@[simp] theorem State.setAction_mem {c a b} : (s.setAction c a b).mem = s.mem := rfl

@[simp] theorem State.answerOp_mem {t x id ws f} : (s.answerOp t x id ws f).mem = s.mem := rfl

@[simp] theorem State.result_mem {t x die id ws f} : (s.result t x die id ws f).mem = s.mem := by
  unfold State.result
  split <;> rfl

@[simp] theorem State.releaseBarrier_mem {key gen rel} :
    (s.releaseBarrier key gen rel).mem = s.mem := by simp [State.releaseBarrier]

@[simp] theorem State.setSpdm_mem {d v} : (s.setSpdm d v).mem = s.mem := rfl

@[simp] theorem State.respond_mem {d v answer} : (s.respond d v answer).mem = s.mem := rfl

@[simp] theorem State.spdmError_mem {d} : (s.spdmError d).mem = s.mem := rfl

@[simp] theorem State.answer_mem {d status ws} : (s.answer d status ws).mem = s.mem := rfl

@[simp] theorem State.startFence_mem {d g} : (s.startFence d g).mem = s.mem := by simp [State.startFence]

@[simp] theorem State.chretire_mem {d} : (s.chretire d).mem = s.mem := by
  unfold State.chretire
  split <;> simp

@[simp] theorem State.joinCinc_mem {t x} : (s.joinCinc t x).mem = s.mem := by
  unfold State.joinCinc
  split <;> rfl

@[simp] theorem State.setCircuit_mem {die n c} : (s.setCircuit die n c).mem = s.mem := rfl

@[simp] theorem State.noteBounds_mem : s.noteBounds.mem = s.mem := rfl

@[simp] theorem State.fenceSpawns_mem {c} : (s.fenceSpawns c).mem = s.mem := by
  unfold State.fenceSpawns
  refine (State.mem_foldl (fun s q => ?_) _ _).trans rfl
  split
  · split <;> simp
  · rfl

@[simp] theorem State.replyTo_mem {t x r} : (s.replyTo t x r).mem = s.mem := by simp [State.replyTo]

@[simp] theorem State.replyCinc_mem {c a r} : (s.replyCinc c a r).mem = s.mem := by
  unfold State.replyCinc
  split
  · split
    · split <;> simp
    · rfl
  · rfl

@[simp] theorem State.fenceCluster_mem {c} : (s.fenceCluster c).mem = s.mem := by
  unfold State.fenceCluster
  simp only [State.fenceSpawns_mem]
  refine (State.mem_foldl (fun _ _ => by simp) _ _).trans ((State.mem_foldl (fun _ _ => by simp) _ _).trans ?_)
  refine (State.mem_foldl (fun _ _ => by simp) _ (State.updCluster ..)).trans ?_
  rfl

@[simp] theorem State.freePortTickets_mem {c} : (s.freePortTickets c).mem = s.mem := rfl

@[simp] theorem State.withRoots_mem {c j} : (s.withRoots c j).mem = s.mem := by
  unfold State.withRoots
  split <;> rfl

@[simp] theorem State.countSource_mem {t g} : (s.countSource t g).mem = s.mem := by simp [State.countSource]

@[simp] theorem State.touchHome_mem {slice line} : (s.touchHome slice line).mem = s.mem := by
  unfold State.touchHome
  split <;> rfl

@[simp] theorem State.observeWords_mem {t x ctx home keys} : (s.observeWords t x ctx home keys).mem = s.mem := by
  unfold State.observeWords
  split <;> rfl

@[simp] theorem State.pinRind_mem {slice line ctx lid} : (s.pinRind slice line ctx lid).mem = s.mem := rfl

@[simp] theorem State.dropArrival_mem {c a} : (s.dropArrival c a).mem = s.mem := rfl

@[simp] theorem State.setCounter_mem {c k v} : (s.setCounter c k v).mem = s.mem := rfl

@[simp] theorem State.setTile_mem {k n tl} : (s.setTile k n tl).mem = s.mem := rfl

@[simp] theorem State.barrierLoaded_mem {t x} : (s.barrierLoaded t x).mem = s.mem := by
  unfold State.barrierLoaded
  split <;> simp

@[simp] theorem State.compareAll_mem {l} : (s.compareAll l).mem = s.mem := by simp [State.compareAll]

@[simp] theorem State.trimBarriers_mem : s.trimBarriers.mem = s.mem := rfl

@[simp] theorem State.cancelWatches_mem {mine} : (s.cancelWatches mine).mem = s.mem := rfl

@[simp] theorem State.endLease_mem {die ctx lid} : (s.endLease die ctx lid).mem = s.mem := by
  unfold State.endLease
  split <;> rfl

@[simp] theorem State.setTicket_mem {k e} : (s.setTicket k e).mem = s.mem := rfl

@[simp] theorem State.freeTicket_mem {k last} : (s.freeTicket k last).mem = s.mem := by
  unfold State.freeTicket
  refine State.mem_foldl (fun s j => ?_) _ _
  rfl

@[simp] theorem State.dropContext_mem {c ctx} : (s.dropContext c ctx).mem = s.mem := by simp [State.dropContext]

@[simp] theorem State.endClaim_mem {c} : (s.endClaim c).mem = s.mem := by
  unfold State.endClaim
  dsimp only
  split <;> simp

@[simp] theorem State.forgetRange_mem {key n} : (s.forgetRange key n).mem = s.mem := rfl

@[simp] theorem State.recallResults_mem {t x} : (s.recallResults t x).mem = s.mem := by
  unfold State.recallResults
  refine (State.mem_foldl (fun _ _ => by simp) _ _).trans ?_
  simp

@[simp] theorem State.complete_mem {t x id} : (s.complete t x id).mem = s.mem := by
  unfold State.complete
  split
  · simp
  · split <;> simp

@[simp] theorem State.runResults_mem {t x} : (s.runResults t x).mem = s.mem := by simp [State.runResults]

@[simp] theorem State.clearCluster_mem {c} : (s.clearCluster c).mem = s.mem := by
  unfold State.clearCluster
  simp only [State.endClaim_mem, State.updCluster_mem]
  refine (State.mem_foldl (fun s k => ?_) _ _).trans ?_ <;> simp

@[simp] theorem State.cxcDrain_mem {die n} : (s.cxcDrain die n).mem = s.mem := by simp [State.cxcDrain]

@[simp] theorem State.cxcRelease_mem {die n} : (s.cxcRelease die n).mem = s.mem := by simp [State.cxcRelease]

@[simp] theorem State.wipePackets_mem {d} : (s.wipePackets d).mem = s.mem := by simp [State.wipePackets]

@[simp] theorem State.updRings_mem {c f} : (s.updRings c f).mem = s.mem := rfl

@[simp] theorem State.haltRings_mem {c} : (s.haltRings c).mem = s.mem := rfl

@[simp] theorem State.abandon_mem {t x} : (s.abandon t x).mem = s.mem := rfl

@[simp] theorem State.dropAllocated_mem {a0} : (s.dropAllocated a0).mem = s.mem := by
  unfold State.dropAllocated
  split <;> simp

@[simp] theorem State.forgetReply_mem {t x} : (s.forgetReply t x).mem = s.mem := by simp [State.forgetReply]

@[simp] theorem State.updQueue_mem {k id f} : (s.updQueue k id f).mem = s.mem := rfl

@[simp] theorem State.consumedArrivals_mem {k} : (s.consumedArrivals k).mem = s.mem := by
  unfold State.consumedArrivals
  refine (State.mem_foldl (fun s o => ?_) _ _).trans ((State.updCore_mem ..).trans (State.mem_foldl (fun s q => ?_) _ _))
  · rfl
  · dsimp only
    split
    · rfl
    · split <;> rfl

@[simp] theorem State.dropQueue_mem {k id} : (s.dropQueue k id).mem = s.mem := rfl

@[simp] theorem State.recordK_mem {k q} : (s.recordK k q).mem = s.mem := by
  unfold State.recordK
  refine State.mem_foldl (fun s n => ?_) _ _
  rfl

@[simp] theorem State.leaveQueue_mem {k q} : (s.leaveQueue k q).mem = s.mem := by simp [State.leaveQueue]

@[simp] theorem State.leaveRing_mem {k q} : (s.leaveRing k q).mem = s.mem := by
  unfold State.leaveRing
  split <;> rfl

@[simp] theorem State.haltMatrix_mem {t id} : (s.haltMatrix t id).mem = s.mem := by
  unfold State.haltMatrix
  split <;> simp

@[simp] theorem State.setService_mem {c v} : (s.setService c v).mem = s.mem := rfl

@[simp] theorem State.resend_mem {p} : (s.resend p).mem = s.mem := by simp [State.resend]

@[simp] theorem State.establish_mem {die n} : (s.establish die n).mem = s.mem := by simp [State.establish]

@[simp] theorem State.setFabKey_mem {d link k} : (s.setFabKey d link k).mem = s.mem := rfl

@[simp] theorem State.setFwBlock_mem {d b v} : (s.setFwBlock d b v).mem = s.mem := rfl

@[simp] theorem State.setSpecial_mem {k v} : (s.setSpecial k v).mem = s.mem := by
  unfold State.setSpecial
  split <;> rfl

@[simp] theorem State.addSharer_mem {f} : (s.addSharer f).mem = s.mem := by simp [State.addSharer]

@[simp] theorem State.replayFlits_mem {l num} : (s.replayFlits l num).mem = s.mem := rfl

@[simp] theorem State.setPort_mem {d p v} : (s.setPort d p v).mem = s.mem := rfl

@[simp] theorem State.replayLink_mem {l num} : (s.replayLink l num).mem = s.mem := by simp [State.replayLink]

@[simp] theorem State.retireLoad_mem {la ws poison} : (s.retireLoad la ws poison).mem = s.mem := by
  unfold State.retireLoad
  split <;> rfl

@[simp] theorem State.setFlight_mem {t x f} : (s.setFlight t x f).mem = s.mem := rfl

@[simp] theorem State.admitted_mem {t x f n} : (s.admitted t x f n).mem = s.mem := by
  unfold State.admitted
  dsimp only
  split <;> simp

@[simp] theorem State.unreachable_mem {t x f} : (s.unreachable t x f).mem = s.mem := by
  unfold State.unreachable
  split <;> simp

@[simp] theorem State.endLoad_mem {d status placed} : (s.endLoad d status placed).mem = s.mem := rfl

@[simp] theorem State.issueSpawn_mem {d l r bs} : (s.issueSpawn d l r bs).mem = s.mem := by
  unfold State.issueSpawn
  dsimp only
  (repeat' split) <;> simp

@[simp] theorem State.continueLoad_mem {d l} : (s.continueLoad d l).mem = s.mem := by
  unfold State.continueLoad
  split
  · simp
  · split <;> simp

@[simp] theorem State.forgetPage_mem {d va} : (s.forgetPage d va).mem = s.mem := rfl

@[simp] theorem State.oweArrival_mem {k q} : (s.oweArrival k q).mem = s.mem := by
  unfold State.oweArrival
  split <;> simp

@[simp] theorem State.doneMultiply_mem {k q} : (s.doneMultiply k q).mem = s.mem := by simp [State.doneMultiply]

@[simp] theorem State.boundary_mem {k id} : (s.boundary k id).mem = s.mem := by
  unfold State.boundary
  dsimp only
  (repeat' split) <;> simp

@[simp] theorem State.doneOp_mem {k q f} : (s.doneOp k q f).mem = s.mem := by simp [State.doneOp]

@[simp] theorem State.cldStep_mem {k q d a st} : (s.cldStep k q d a st).mem = s.mem := by simp [State.cldStep]

@[simp] theorem State.commit_mem {k q n tl f} : (s.commit k q n tl f).mem = s.mem := by simp [State.commit]

@[simp] theorem State.mmaStep_mem {k q m} : (s.mmaStep k q m).mem = s.mem := by simp [State.mmaStep]

@[simp] theorem State.ringStep_mem {k q key m} : (s.ringStep k q key m).mem = s.mem := by
  unfold State.ringStep
  split <;> simp

@[simp] theorem State.scaccStep_mem {k q rm sat ftz d i er ec} :
    (s.scaccStep k q rm sat ftz d i er ec).mem = s.mem := by simp [State.scaccStep]

@[simp] theorem State.stopMultiply_mem {k q i clear} : (s.stopMultiply k q i clear).mem = s.mem := by
  unfold State.stopMultiply
  dsimp only
  split <;> simp

@[simp] theorem State.fetchFault_mem {k q i} : (s.fetchFault k q i).mem = s.mem := by
  unfold State.fetchFault
  split <;> simp

@[simp] theorem State.refuse_mem {t x} : (s.refuse t x).mem = s.mem := by simp [State.refuse]

@[simp] theorem State.nextUse_mem {c key} : (s.nextUse c key).mem = s.mem := by
  unfold State.nextUse
  split <;> rfl

@[simp] theorem State.joinRing_mem {k t key id} : (s.joinRing k t key id).mem = s.mem := by simp [State.joinRing]

@[simp] theorem State.dropPacket_mem {n} : (s.dropPacket n).mem = s.mem := rfl

@[simp] theorem State.arriveReply_mem {p t x r} : (s.arriveReply p t x r).mem = s.mem := by simp [State.arriveReply]

@[simp] theorem State.tell_mem {o packet a} : (s.tell o packet a).mem = s.mem := by
  unfold State.tell
  split <;> rfl

@[simp] theorem State.countDrop_mem {l} : (s.countDrop l).mem = s.mem := rfl

@[simp] theorem State.loseCopy_mem {p l c} : (s.loseCopy p l c).mem = s.mem := by simp [State.loseCopy]

@[simp] theorem State.hop_mem {p} : (s.hop p).mem = s.mem := by
  unfold State.hop
  split <;> simp

@[simp] theorem State.forwardPacket_mem {p l chk} : (s.forwardPacket p l chk).mem = s.mem := by
  unfold State.forwardPacket
  split
  · rfl
  · split
    · simp
    · (repeat' split) <;> simp

@[simp] theorem State.partcreate_mem {d} : (s.partcreate d).mem = s.mem := by
  unfold State.partcreate
  dsimp only
  (repeat' split) <;> try simp
  refine (State.mem_foldl (fun s n => ?_) _ _).trans ?_ <;> rfl

@[simp] theorem State.invalidPartition_mem {n} : (s.invalidPartition n).mem = s.mem := by simp [State.invalidPartition]

@[simp] theorem State.setClock_mem {d n} : (s.setClock d n).mem = s.mem := rfl

@[simp] theorem State.cancelAnswers_mem {t ctx} : (s.cancelAnswers t ctx).mem = s.mem := rfl

@[simp] theorem State.passChildren_mem {t ctx parent} : (s.passChildren t ctx parent).mem = s.mem := rfl

@[simp] theorem State.settleRun_mem {c} : (s.settleRun c).mem = s.mem := by simp [State.settleRun]

@[simp] theorem State.freeSlot_mem {t} : (s.freeSlot t).mem = s.mem := by simp [State.freeSlot]

@[simp] theorem State.endRegion_mem {c n r} : (s.endRegion c n r).mem = s.mem := by
  unfold State.endRegion
  split
  · simp
  · refine (State.mem_foldl (fun s p => ?_) _ _).trans ?_ <;> rfl

@[simp] theorem State.faultFetches_mem {c i hit} : (s.faultFetches c i hit).mem = s.mem := by simp [State.faultFetches]

@[simp] theorem State.faultStrands_mem {c i hit} : (s.faultStrands c i hit).mem = s.mem := by simp [State.faultStrands]

@[simp] theorem State.faultTickets_mem {i hit} : (s.faultTickets i hit).mem = s.mem := rfl

@[simp] theorem State.ring_mem {d v} : (s.ring d v).mem = s.mem := by simp [State.ring]

@[simp] theorem State.writeCxc_mem {die n v} : (s.writeCxc die n v).mem = s.mem := by
  unfold State.writeCxc
  split <;> simp

@[simp] theorem State.writeCxw_mem {die n v} : (s.writeCxw die n v).mem = s.mem := by simp [State.writeCxw]

@[simp] theorem State.writeReg_mem {d ofs v} : (s.writeReg d ofs v).mem = s.mem := by simp [State.writeReg]

@[simp] theorem State.forgetResult_mem {t x id} : (s.forgetResult t x id).mem = s.mem := by simp [State.forgetResult]

@[simp] theorem State.represent_mem {t x send} : (s.represent t x send).mem = s.mem := by
  unfold State.represent
  dsimp only
  (repeat' split) <;> simp

@[simp] theorem State.retrain_mem {d} : (s.retrain d).mem = s.mem := by
  unfold State.retrain
  dsimp only
  (repeat' split) <;> simp

@[simp] theorem State.setWindow_mem {die ch r} : (s.setWindow die ch r).mem = s.mem := rfl

@[simp] theorem State.ringTimeout_mem {l} : (s.ringTimeout l).mem = s.mem := by simp [State.ringTimeout]

@[simp] theorem State.placeChild_mem {c q t} : (s.placeChild c q t).mem = s.mem := rfl

@[simp] theorem State.setTdisp_mem {part p v} : (s.setTdisp part p v).mem = s.mem := rfl

@[simp] theorem State.takeEntries_mem {t x slice ent lease lines} : (s.takeEntries t x slice ent lease lines).mem = s.mem := by
  unfold State.takeEntries
  refine State.mem_foldl (fun s j => ?_) _ _
  rfl

@[simp] theorem State.awaitTicket_mem {t x k} : (s.awaitTicket t x k).mem = s.mem := rfl

@[simp] theorem moveOp_mem {e long ws f} : (moveOp e long ws f s).mem = s.mem := by simp [moveOp]

@[simp] theorem State.combineEntry_mem {e q en} : (s.combineEntry e q en).mem = s.mem := rfl

@[simp] theorem State.dropAnswer_mem {id} : (s.dropAnswer id).mem = s.mem := rfl

@[simp] theorem State.refuseAnswer_mem {id} : (s.refuseAnswer id).mem = s.mem := rfl

@[simp] theorem State.setAnswerNet_mem {id n} : (s.setAnswerNet id n).mem = s.mem := rfl

@[simp] theorem State.answerNow_mem {die t key tag counter scope value fenced} :
    (s.answerNow die t key tag counter scope value fenced).mem = s.mem := rfl

@[simp] theorem State.charge_mem {t x} : (s.charge t x).mem = s.mem := rfl

@[simp] theorem State.leavePodStage_mem {d} : (s.leavePodStage d).mem = s.mem := by
  unfold State.leavePodStage
  split <;> rfl

@[simp] theorem State.placeSup_mem {die} : (s.placeSup die).mem = s.mem := by
  unfold State.placeSup
  split <;> rfl

@[simp] theorem State.placeSups_mem {d} : (s.placeSups d).mem = s.mem := by
  unfold State.placeSups
  refine (State.mem_foldl (fun _ _ => by simp) _ _).trans (State.mem_foldl (fun s i => ?_) _ _)
  rfl

@[simp] theorem State.nextStage_mem {d} : (s.nextStage d).mem = s.mem := by simp [State.nextStage]

@[simp] theorem State.tick_mem : s.tick.mem = s.mem := rfl

end Sys2Proof.Machine

namespace Sys2Proof.Machine

/-! ### Results that carry states -/

/-- A property of memory holds in the state that a stop carries, where it carries one. -/
def Stop.carries (P : List Host.Cell → Prop) : Stop → Prop
  | .trapIn _ s | .waitIn _ s => P s.mem
  | .trap _ | .wait _ => True

/-- It holds in the state of a result, and in what a stop carries. -/
def stopCarries {α : Type} (P : List Host.Cell → Prop) (π : α → State) : Except Stop α → Prop
  | .ok a => P (π a).mem
  | .error x => x.carries P

/-- It holds in the state of a result that another failure would not carry. -/
def okCarries {ε α : Type} (P : List Host.Cell → Prop) (π : α → State) : Except ε α → Prop
  | .ok a => P (π a).mem
  | .error _ => True

/-- It holds in the state of an answer, where there is one. -/
def optCarries {α : Type} (P : List Host.Cell → Prop) (π : α → State) : Option α → Prop
  | some a => P (π a).mem
  | none => True

def Touch.carries (P : List Host.Cell → Prop) : Touch → Prop
  | .clear s | .wait s | .fault _ _ _ s => P s.mem

def Admit.carries (P : List Host.Cell → Prop) : Admit → Prop
  | .granted _ s => P s.mem
  | .waits | .refused | .unmapped => True

def Grant.carries (P : List Host.Cell → Prop) : Grant → Prop
  | .waits _ s | .failed _ s => P s.mem
  | .granted | .refused => True

def Fetch.carries (P : List Host.Cell → Prop) : Fetch → Prop
  | .wait s | .fault _ s | .data _ s => P s.mem

def JobStep.carries (P : List Host.Cell → Prop) : JobStep → Prop
  | .hold s | .done _ s | .fault _ s => P s.mem

def RowStep.carries (P : List Host.Cell → Prop) : RowStep → Prop
  | .hold s | .done s | .fault _ s => P s.mem

section Carries

variable {ε α β : Type} {P : List Host.Cell → Prop} {π : α → State} {ρ : β → State}

theorem stopCarries.ok {r : Except Stop α} {a : α} (h : stopCarries P π r) (e : r = .ok a) : P (π a).mem := by
  rw [e] at h; exact h

theorem stopCarries.error {r : Except Stop α} {x : Stop} (h : stopCarries P π r) (e : r = .error x) : x.carries P := by
  rw [e] at h; exact h

theorem okCarries.ok {r : Except ε α} {a : α} (h : okCarries P π r) (e : r = .ok a) : P (π a).mem := by
  rw [e] at h; exact h

theorem optCarries.some {o : Option α} {a : α} (h : optCarries P π o) (e : o = some a) : P (π a).mem := by
  rw [e] at h; exact h

theorem stopCarries.bind {r : Except Stop α} {k : α → Except Stop β} (h : stopCarries P π r)
    (hk : ∀ a, P (π a).mem → stopCarries P ρ (k a)) : stopCarries P ρ (r >>= k) := by
  cases r with
  | ok a => exact hk a h
  | error x => exact h

end Carries

/-! ### Addresses, admission and touches -/

section Access

variable {P : List Host.Cell → Prop} {s : State}

@[simp] theorem State.form_mem {src dst cls part gen cargo} : (s.form src dst cls part gen cargo).2.mem = s.mem := rfl

@[simp] theorem State.post_mem {src dst cls part cargo} : (s.post src dst cls part cargo).2.mem = s.mem := rfl

theorem State.translate_carries (h : P s.mem) {t va own} : okCarries P (·.2.2) (s.translate t va own) := by
  unfold State.translate
  split
  · exact h
  · dsimp only
    split
    · exact h
    · trivial

theorem State.place_carries (h : P s.mem) {t va n sw w acc} : okCarries P (·.2) (s.place t va n sw w acc) := by
  unfold State.place
  cases w with
  | lane | core | clus | cave => exact h
  | pod =>
    dsimp only
    split
    · trivial
    · exact h
  | own | global =>
    dsimp only
    split
    · trivial
    · rename_i hr
      have h1 := (State.translate_carries h).ok hr
      split
      · trivial
      · exact h1

theorem State.resolve_carries (h : P s.mem) {t va n align sw acc st} :
    stopCarries P (·.2) (s.resolve t va n align sw acc st) := by
  unfold State.resolve
  split
  · trivial
  · split
    · trivial
    · rename_i hr
      exact (State.place_carries h).ok hr

theorem State.admitReq_carries (h : P s.mem) {die cls f} : stopCarries P id (s.admitReq die cls f) := by
  unfold State.admitReq
  split
  · exact h
  · exact h

theorem State.admitAtomic_carries (h : P s.mem) {die a} : stopCarries P id (s.admitAtomic die a) := by
  unfold State.admitAtomic
  have hr := State.admitReq_carries h (die := die) (cls := 0) (f := false)
  split
  · rename_i hx
    exact hr.error hx
  · exact hr

theorem State.present_carries (h : P s.mem) {die cls req} : stopCarries P id (s.present die cls req) := h

theorem State.touchFull_carries (h : P s.mem) {t key} : (s.touchFull t key).carries P := by
  unfold State.touchFull
  split <;> exact h

theorem State.touchWord_carries (h : P s.mem) {t key} : (s.touchWord t key).carries P := by
  unfold State.touchWord
  split
  · exact h
  · dsimp only
    split
    · split
      · exact h
      · exact State.touchFull_carries h
    · split
      · exact h
      · exact State.touchFull_carries (s := s.setRegion ..) h
    · exact State.touchFull_carries h

theorem State.touch_carries (h : P s.mem) {t key} : stopCarries P id (s.touch t key) := by
  unfold State.touch
  have hw := State.touchWord_carries h (t := t) (key := key)
  split <;> rename_i he <;> rw [he] at hw <;> exact hw

theorem State.touchRange_carries (h : P s.mem) {t g} : stopCarries P id (s.touchRange t g) := by
  unfold State.touchRange
  split
  · exact State.touch_carries h
  · exact h

theorem State.touchStart_carries (h : P s.mem) {t key} : stopCarries P id (s.touchStart t key) := by
  unfold State.touchStart
  have hr := State.touch_carries h (t := t) (key := key)
  split
  · rename_i hx
    have h1 := hr.error hx
    split <;> exact h1
  · exact hr

theorem State.touchAll_carries (h : P s.mem) {t l} : stopCarries P id (s.touchAll t l) := by
  induction l generalizing s with
  | nil => exact h
  | cons e r ih =>
    unfold State.touchAll
    split
    · rename_i hx
      exact (State.touchRange_carries h).error hx
    · rename_i hx
      exact ih ((State.touchRange_carries h).ok hx)

theorem State.admitAll_carries (h : P s.mem) {cls l} : stopCarries P id (s.admitAll cls l) := by
  induction l generalizing s with
  | nil => exact h
  | cons e r ih =>
    unfold State.admitAll
    split
    · rename_i hx
      exact (State.admitReq_carries h).error hx
    · rename_i hx
      exact ih ((State.admitReq_carries h).ok hx)

theorem State.checkElems_carries (h : P s.mem) {t n sw st l} : stopCarries P (·.2) (s.checkElems t n sw st l) := by
  induction l generalizing s with
  | nil => exact h
  | cons p r ih =>
    obtain ⟨i, va, lane⟩ := p
    unfold State.checkElems
    split
    · rename_i hx
      exact (State.resolve_carries h).error hx
    · rename_i hx
      have h1 := (State.resolve_carries h).ok hx
      generalize (ite (_ = Window.lane) _ _ : Target) = g
      dsimp only
      split
      · trivial
      · split
        · trivial
        · split
          · trivial
          · split
            · rename_i hy
              exact (ih h1).error hy
            · rename_i hy
              have h2 := (ih h1).ok hy
              exact h2

theorem State.checkPages_carries (h : P s.mem) {t w n va} : stopCarries P id (s.checkPages t w n va) := by
  induction n generalizing s va with
  | zero => exact h
  | succ n ih =>
    unfold State.checkPages
    split
    · trivial
    · rename_i hx
      exact ih ((State.place_carries h).ok hx)

theorem State.maintRange_carries (h : P s.mem) {t va n} : stopCarries P (·.2) (s.maintRange t va n) := by
  unfold State.maintRange
  split
  · trivial
  · split
    · exact h
    · split
      · split
        · rename_i hx
          exact (State.checkPages_carries h).error hx
        · rename_i hx
          exact (State.checkPages_carries h).ok hx
      · split
        · rename_i hx
          exact (State.checkPages_carries h).error hx
        · rename_i hx
          exact (State.checkPages_carries h).ok hx
      · split
        · trivial
        · exact h
      · exact h

theorem State.feRange_carries (h : P s.mem) {va n sw} : stopCarries P (·.2) (s.feRange va n sw) := by
  unfold State.feRange
  split
  · trivial
  · split
    · trivial
    · split
      · exact h
      · exact h
      · exact h
      · split
        · trivial
        · split <;> trivial

theorem State.fePlace_carries (h : P s.mem) {e take st} : stopCarries P (·.2) (s.fePlace e take st) := by
  unfold State.fePlace
  dsimp only
  split
  · trivial
  · split
    · trivial
    · refine (State.resolve_carries h).bind fun a h1 => ?_
      split
      · exact h1
      · trivial

theorem State.rangeStep_carries (h : P s.mem) {n done} : stopCarries P id (s.rangeStep n done) := by
  unfold State.rangeStep
  split <;> exact h

theorem State.slotPlace_carries (h : P s.mem) {t va sw acc} : stopCarries P (·.2) (s.slotPlace t va sw acc) := by
  unfold State.slotPlace
  split
  · rename_i hx
    exact (State.resolve_carries h).error hx
  · rename_i hx
    have h1 := (State.resolve_carries h).ok hx
    split
    · exact h1
    · trivial

theorem State.slotPages_carries (h : P s.mem) {t sw n va} : stopCarries P id (s.slotPages t sw n va) := by
  induction n generalizing s va with
  | zero => exact h
  | succ n ih =>
    unfold State.slotPages
    split
    · rename_i hx
      exact (State.slotPlace_carries h).error hx
    · rename_i hx
      exact ih ((State.slotPlace_carries h).ok hx)

theorem State.lineTargets_carries (h : P s.mem) {t va sw w l} : stopCarries P (·.2) (s.lineTargets t va sw w l) := by
  induction l generalizing s with
  | nil => exact h
  | cons i r ih =>
    unfold State.lineTargets
    split
    · trivial
    · rename_i hx
      have h1 := (State.place_carries h).ok hx
      split
      · rename_i hy
        exact (ih h1).error hy
      · rename_i hy
        have h2 := (ih h1).ok hy
        exact h2

theorem State.chunkLines_carries (h : P s.mem) {t va span sw} : stopCarries P (·.2.2) (s.chunkLines t va span sw) := by
  unfold State.chunkLines
  split
  · trivial
  · split
    · trivial
    · split
      · rename_i hx
        exact (State.lineTargets_carries h).error hx
      · rename_i hx
        have h1 := (State.lineTargets_carries h).ok hx
        split
        · trivial
        · split
          · trivial
          · split
            · trivial
            · exact h1

theorem State.allChunks_carries (h : P s.mem) {t span sw l} : stopCarries P (·.2) (s.allChunks t span sw l) := by
  induction l generalizing s with
  | nil => exact h
  | cons va r ih =>
    unfold State.allChunks
    split
    · rename_i hx
      exact (State.chunkLines_carries h).error hx
    · rename_i hx
      have h1 := (State.chunkLines_carries h).ok hx
      split
      · rename_i hy
        exact (ih h1).error hy
      · rename_i hy
        have h2 := (ih h1).ok hy
        exact h2

/-! ### Reads -/

@[simp] theorem State.readLine64_mem {t g line} : (s.readLine64 t g line).2.mem = s.mem := by
  unfold State.readLine64
  dsimp only
  (repeat' split) <;> simp

@[simp] theorem State.fetchCached_mem {t g} : (s.fetchCached t g).2.mem = s.mem := by
  unfold State.fetchCached
  dsimp only
  split
  · rfl
  · simp

theorem State.fetchUnit_carries (h : P s.mem) {t va} : stopCarries P (·.2) (s.fetchUnit t va) := by
  unfold State.fetchUnit
  split
  · rename_i hx
    exact (State.resolve_carries h).error hx
  · rename_i hx
    have h1 := (State.resolve_carries h).ok hx
    split
    · trivial
    · split
      · exact h1
      · split
        · show P (State.fetchCached _ _ _).2.mem
          rwa [State.fetchCached_mem]
        · split
          · trivial
          · split
            · rename_i hy
              exact (State.admitReq_carries h1).error hy
            · rename_i hy
              have h2 := (State.admitReq_carries h1).ok hy
              show P (State.fetchCached _ _ _).2.mem
              rwa [State.fetchCached_mem]

theorem State.fetch_carries (h : P s.mem) {t x} : stopCarries P (·.2) (s.fetch t x) := by
  unfold State.fetch
  dsimp only
  split
  case h_3 => trivial
  all_goals
    split
    · trivial
    · split
      · rename_i hx
        exact (State.fetchUnit_carries h).error hx
      · rename_i hx
        have h1 := (State.fetchUnit_carries h).ok hx
        split
        · rename_i hy
          exact (State.fetchUnit_carries h1).error hy
        · rename_i hy
          have h2 := (State.fetchUnit_carries h1).ok hy
          split
          · rename_i hz
            exact (State.fetchUnit_carries h2).error hz
          · rename_i hz
            have h3 := (State.fetchUnit_carries h2).ok hz
            exact h3

end Access

end Sys2Proof.Machine

namespace Sys2Proof.Machine

/-! ### Operands -/

section Operands

variable {P : List Host.Cell → Prop} {s : State} {e : Enc}

theorem State.popWord_carries (h : P s.mem) {q} : stopCarries P (·.2.2) (s.popWord q) := by
  unfold State.popWord
  split
  · trivial
  · dsimp only
    split <;> exact h

theorem State.popVector_carries (h : P s.mem) {q} : stopCarries P (·.2.2) (s.popVector q) := by
  unfold State.popVector
  split
  · trivial
  · dsimp only
    split <;> exact h

theorem State.readScalar_carries (h : P s.mem) {ty imm o} : stopCarries P (·.2.2) (s.readScalar ty imm o) := by
  unfold State.readScalar
  split
  · exact h
  · exact State.popWord_carries h
  · exact h
  · exact h

theorem Read.after_carries {α : Type} {r : Read α} (h : stopCarries P (·.2.2) r) {o} : stopCarries P (·.2.2) (r.after o) := by
  unfold Read.after
  split
  · trivial
  · exact h

theorem State.readPair_carries (h : P s.mem) : stopCarries P (·.2.2) (s.readPair e) := by
  unfold State.readPair
  split
  · rename_i hx
    exact (State.readScalar_carries h).error hx
  · rename_i hx
    have h1 := (State.readScalar_carries h).ok hx
    split
    · rename_i hy
      exact (Read.after_carries (State.readScalar_carries h1)).error hy
    · rename_i hy
      have h2 := (Read.after_carries (State.readScalar_carries h1)).ok hy
      exact h2

theorem State.readVecSrc_carries (h : P s.mem) {w o} : stopCarries P (·.2.2) (s.readVecSrc e w o) := by
  unfold State.readVecSrc
  split
  case h_4 => exact State.popVector_carries h
  all_goals exact h

theorem State.readVec_carries (h : P s.mem) {o} : stopCarries P (·.2.2) (s.readVec o) := by
  unfold State.readVec
  split
  · exact State.popVector_carries h
  · exact h

/-! A check yields no state: what follows it has the state before it. -/

theorem State.needRoom_carries (h : P s.mem) {t : State} {o n long} : stopCarries P (fun _ => s) (t.needRoom o n long) := by
  unfold State.needRoom
  split
  · split
    · exact h
    · trivial
  · exact h

theorem State.needEntry_carries (h : P s.mem) {t : State} {o} : stopCarries P (fun _ => s) (t.needEntry o) := by
  unfold State.needEntry
  split
  · trivial
  · exact h

theorem rangeCheck_carries (h : P s.mem) {a w l st} : stopCarries P (fun _ => s) (rangeCheck a w l st) := by
  unfold rangeCheck
  split
  · dsimp only
    split
    · trivial
    · exact h
  · exact h

theorem copyRange_carries (h : P s.mem) {va n st align} : stopCarries P (fun _ => s) (copyRange va n st align) := by
  unfold copyRange
  split
  · trivial
  · trivial
  · split
    · trivial
    · split
      · trivial
      · split
        · trivial
        · exact h

theorem l2Range_carries (h : P s.mem) {va n} : stopCarries P (fun _ => s) (l2Range va n) := by
  unfold l2Range
  split
  · trivial
  · split
    · trivial
    · split
      · trivial
      · split
        · trivial
        · exact h

theorem operandRange_carries (h : P s.mem) {va n} : stopCarries P (fun _ => s) (operandRange va n) := by
  unfold operandRange
  split
  · trivial
  · split
    · exact h
    · trivial

theorem msRange_carries (h : P s.mem) {va n align} : stopCarries P (fun _ => s) (msRange va n align) := by
  unfold msRange
  split
  · trivial
  · split
    · trivial
    · split
      · trivial
      · split
        · trivial
        · split
          · trivial
          · exact h

theorem msRanges_carries (h : P s.mem) {n align l} : stopCarries P (fun _ => s) (msRanges n align l) := by
  induction l with
  | nil => exact h
  | cons va r ih =>
    unfold msRanges
    split
    · rename_i hx
      exact (msRange_carries h).error hx
    · exact ih

theorem tileRows_carries (h : P s.mem) {a st store l} : stopCarries P (fun _ => s) (tileRows a st store l) := by
  induction l with
  | nil => exact h
  | cons i r ih =>
    unfold tileRows
    dsimp only
    split
    · trivial
    · split
      · trivial
      · split
        · exact ih
        · trivial

theorem State.waitMask_carries (h : P s.mem) {wm} : stopCarries P id (s.waitMask wm) := by
  unfold State.waitMask
  split
  · exact h
  · split
    · trivial
    · split
      · trivial
      · exact h

/-! ### Rows that work on registers -/

theorem State.retire_carries (h : P s.mem) {la long ws} : P (s.retire la long ws).mem := by rwa [State.retire_mem]

theorem scalarOp_carries (h : P s.mem) {long f} : stopCarries P id (scalarOp long e f s) := by
  unfold scalarOp
  split
  · rename_i hx
    exact (State.needRoom_carries h).error hx
  · split
    · rename_i hx
      exact (State.readPair_carries h).error hx
    · rename_i hx
      exact State.retire_carries ((State.readPair_carries h).ok hx)

theorem compareOp_carries (h : P s.mem) {f} : stopCarries P id (compareOp e f s) := by
  unfold compareOp
  split
  · rename_i hx
    exact (State.readPair_carries h).error hx
  · rename_i hx
    exact State.retire_carries ((State.readPair_carries h).ok hx)

theorem vectorOp_carries (h : P s.mem) {long f} : stopCarries P id (vectorOp long e f s) := by
  unfold vectorOp
  refine (State.needRoom_carries h).bind fun _ _ => (State.readVecSrc_carries h).bind fun a h1 => ?_
  exact (Read.after_carries (State.readVecSrc_carries h1)).bind fun b h2 => State.retire_carries h2

theorem vectorCompare_carries (h : P s.mem) {f} : stopCarries P id (vectorCompare e f s) := by
  unfold vectorCompare
  exact (State.readVecSrc_carries h).bind fun a h1 =>
    (Read.after_carries (State.readVecSrc_carries h1)).bind fun b h2 => State.retire_carries h2

theorem vredRound_carries (h : P s.mem) {q} : stopCarries P id (vredRound e q s) := by
  unfold vredRound
  dsimp only
  split
  · split
    · trivial
    · split
      · exact h
      · split <;> exact h
  · exact h

/-! ### Synchronisation -/

theorem State.barArrive_carries (h : P s.mem) {key count} : stopCarries P id (s.barArrive key count) := by
  unfold State.barArrive
  dsimp only
  generalize (ite ((_ : Nat) = 0) count _) = n
  split
  · show P (State.releaseBarrier _ _ _ _).mem
    rw [State.releaseBarrier_mem]
    exact h
  · exact h

theorem ticketBody_carries (h : P s.mem) {n} : stopCarries P id (ticketBody e s n) := by
  unfold ticketBody
  refine (State.needRoom_carries h).bind fun _ _ => (State.allChunks_carries h).bind fun p h1 => ?_
  dsimp only
  split
  · exact State.retire_carries h1
  · exact h1

theorem presentBody_carries (h : P s.mem) {w how} : stopCarries P id (presentBody s w how) := by
  unfold presentBody
  split
  · exact h
  · trivial

@[simp] theorem State.slotSum_mem {key ty rm ftz sat} : (s.slotSum key ty rm ftz sat).2.2.2.mem = s.mem := by
  unfold State.slotSum
  dsimp only
  split
  · rfl
  · split <;> rfl

@[simp] theorem State.freeValue_mem : s.freeValue.2.mem = s.mem := rfl

@[simp] theorem State.stage_mem {d b image sig} : (s.stage d b image sig).2.mem = s.mem := by
  unfold State.stage
  dsimp only
  (repeat' split) <;> simp

theorem State.countAnswer_carries (h : P s.mem) {a k} : optCarries P id (s.countAnswer a k) := by
  unfold State.countAnswer
  dsimp only
  generalize (s.portRefuses _ _ _ _ : Bool) = b
  split
  · trivial
  · show P (State.mem (if _ then _ else _))
    split <;> exact h

theorem State.readWord_carries (h : P s.mem) {t l i} : P (s.readWord t l i).2.mem := by
  unfold State.readWord
  dsimp only
  have hw : ∀ k, Touch.carries P (if l.touch then s.touchWord t k else .clear s) := fun k => by
    split
    · exact State.touchWord_carries h
    · exact h
  generalize hk : (l.keys[i]?).getD 0 = k
  have hw := hw k
  split <;> rename_i he <;> rw [he] at hw
  · exact hw
  · exact hw
  · show P (State.mem (if _ then _ else _))
    split
    · exact hw
    · rw [State.touchHome_mem]
      exact hw

theorem State.readLine_carries (h : P s.mem) {t x ctx l} : P (s.readLine t x ctx l).2.mem := by
  unfold State.readLine
  split
  · exact h
  · show P (State.observeWords _ _ _ _ _ _).mem
    rw [State.observeWords_mem]
    have hf : ∀ (is : List Nat) (p : TLine × State), P p.2.mem →
        P (is.foldl (fun p i => if p.1.todo.contains i then p.2.readWord t p.1 i else p) p).2.mem := by
      intro is
      induction is with
      | nil => exact fun _ hp => hp
      | cons i r ih =>
        intro p hp
        refine ih _ ?_
        dsimp only
        split
        · exact State.readWord_carries hp
        · exact hp
    exact hf _ _ h

end Operands

end Sys2Proof.Machine

namespace Sys2Proof.Machine

section Engines

variable {P : List Host.Cell → Prop} {s : State}

/-! ### Requests of an engine -/

theorem Admit.carries_ite {c : Prop} [Decidable c] {a b : Admit} (ha : a.carries P) (hb : b.carries P) :
    (if c then a else b).carries P := by
  split
  · exact ha
  · exact hb

set_option maxRecDepth 4000 in
theorem State.admitAt_carries (h : P s.mem) {src dst cls part since gen cargo} :
    (s.admitAt src dst cls part since gen cargo).carries P := by
  unfold State.admitAt
  refine Admit.carries_ite trivial (Admit.carries_ite trivial (Admit.carries_ite ?_ trivial))
  dsimp only
  split
  · refine Eq.subst (motive := P) ?_ h
    exact (State.enterLink_mem.trans State.form_mem).symm
  · trivial

theorem State.askAt_carries (h : P s.mem) {src dst cls part o since gen bounces first bound} :
    (s.askAt src dst cls part o since gen bounces first bound).carries P := by
  unfold State.askAt
  have hr := State.admitAt_carries h (src := src) (dst := dst) (cls := cls) (part := part) (since := since) (gen := gen) (cargo := .ask o)
  split
  · rename_i he
    rw [he] at hr
    exact hr
  · exact h
  · trivial
  · exact h

theorem State.ask_carries (h : P s.mem) {src dst cls part o n} : (s.ask src dst cls part o n).carries P := by
  unfold State.ask
  split
  · trivial
  · dsimp only
    split
    · exact State.askAt_carries h
    · exact State.askAt_carries h
    · split
      · show P (State.report _ _).mem
        simpa using h
      · exact h
    · trivial
    · trivial
    · exact State.askAt_carries h
    · exact h

/-! ### Jobs -/

theorem State.jobPlace_carries (h : P s.mem) {c j va n sw st} : okCarries P (·.2) (s.jobPlace c j va n sw st) := by
  unfold State.jobPlace
  split
  · trivial
  · split
    · exact h
    · split
      · trivial
      · rename_i hx
        have h1 := (State.place_carries (P := P) (s := s.withRoots c j) (by simpa using h)).ok hx
        split
        · trivial
        · exact h1

theorem State.msPlace_carries (h : P s.mem) {c j a st} : okCarries P (·.2) (s.msPlace c j a st) := by
  unfold State.msPlace
  split
  · trivial
  · split
    · exact h
    · split
      · trivial
      · rename_i hx
        have h1 := (State.place_carries (P := P) (s := s.withRoots c j) (by simpa using h)).ok hx
        split
        · trivial
        · exact h1

theorem State.msPlaces_carries (h : P s.mem) {c j ofs l} : okCarries P (·.2) (s.msPlaces c j ofs l) := by
  induction l generalizing s with
  | nil => exact h
  | cons a r ih =>
    unfold State.msPlaces
    split
    · trivial
    · rename_i hx
      have h1 := (State.msPlace_carries h).ok hx
      split
      · trivial
      · rename_i hy
        have h2 := (ih h1).ok hy
        exact h2

theorem State.rowPlaces_carries (h : P s.mem) {c j src l} : okCarries P (·.2) (s.rowPlaces c j src l) := by
  induction l generalizing s with
  | nil => exact h
  | cons i r ih =>
    unfold State.rowPlaces
    dsimp only
    split
    · trivial
    · rename_i hx
      have h1 := (State.jobPlace_carries h).ok hx
      split
      · trivial
      · rename_i hy
        have h2 := (ih h1).ok hy
        exact h2

theorem State.jobPairs_carries (h : P s.mem) {c j src dst l} : P (s.jobPairs c j src dst l).2.2.mem := by
  induction l generalizing s with
  | nil => exact h
  | cons i r ih =>
    unfold State.jobPairs
    dsimp only
    split
    · exact h
    · rename_i hx
      have h1 := (State.jobPlace_carries h).ok hx
      split
      · exact h1
      · rename_i hy
        exact ih ((State.jobPlace_carries h1).ok hy)

theorem State.jobTouch_carries (h : P s.mem) {c j src l} : (s.jobTouch c j src l).carries P := by
  induction l generalizing s with
  | nil => exact h
  | cons g r ih =>
    unfold State.jobTouch
    split
    · have hw := State.touchWord_carries h (t := j.t) (key := g.key)
      split <;> rename_i he <;> rw [he] at hw
      · exact ih hw
      · exact hw
      · exact hw
    · exact ih h

theorem State.enterDest_carries (h : P s.mem) {c j b g} : (s.enterDest c j b g).1.carries P := by
  unfold State.enterDest
  dsimp only
  split
  · exact h
  · have hw (l : List Target) : (s.jobTouch c j false l).carries P := State.jobTouch_carries h
    generalize hl : s.jobTouch c j false _ = o
    have ho : o.carries P := hl ▸ hw _
    cases o <;> exact ho

theorem State.refuseJob_carries (h : P s.mem) {c ms j a src} : (s.refuseJob c ms j a src).carries P := by
  unfold State.refuseJob
  split <;> exact h

theorem State.enterSource_carries (h : P s.mem) {c j a g} : (s.enterSource c j a g).1.carries P := by
  unfold State.enterSource
  split
  · exact h
  · split
    · exact h
    · have hw := State.jobTouch_carries h (c := c) (j := j) (src := true) (l := s.pageReads c j true g (a.toNat / 65536))
      split
      · rename_i n t he
        rw [he] at hw
        have hg := State.ask_carries (P := P) (s := t) hw (src := c / 32) (dst := targetDie j.t g) (cls := 0) (part := t.partOf j.t)
          (o := .job c j.id) (n := j.net)
        split <;> rename_i hk
        · exact hw
        · rw [hk] at hg
          exact hg
        · exact State.refuseJob_carries hw
        · rw [hk] at hg
          exact hg
      · exact hw

theorem State.enterPages_carries (h : P s.mem) {c j l} : (s.enterPages c j l).1.carries P := by
  induction l generalizing s j with
  | nil => exact h
  | cons p r ih =>
    unfold State.enterPages
    have h1 := State.enterSource_carries h (c := c) (j := j) (a := p.a) (g := p.g)
    split
    · rename_i s1 i he
      rw [he] at h1
      have h2 := State.enterDest_carries (P := P) h1 (c := c) (j := i) (b := p.b) (g := p.h)
      split
      · rename_i hd
        rw [hd] at h2
        exact ih h2
      · exact h2
    · exact h1

theorem State.regionPages_carries (h : P s.mem) {c n r j limit l} : (s.regionPages c n r j limit l).1.carries P := by
  induction l generalizing s r with
  | nil => exact h
  | cons p l ih =>
    obtain ⟨a, g⟩ := p
    unfold State.regionPages
    split
    · exact ih h
    · have hw := State.jobTouch_carries h (c := c) (j := j) (src := true) (l := s.pageReads c j true g (a.toNat / 65536))
      split <;> rename_i he <;> rw [he] at hw
      · exact hw
      · exact hw
      · rename_i t
        have hg := State.ask_carries (P := P) (s := t) hw (src := c / 32) (dst := targetDie r.t g) (cls := 0) (part := t.partOf r.t)
          (o := .region c n) (n := r.net)
        split <;> rename_i hk
        · exact ih hw
        · rw [hk] at hg
          exact hg
        · rw [hk] at hg
          exact hg
        · show RowStep.carries P (if _ then _ else _)
          split <;> exact hw

/-! ### Operand lines of the matrix core -/

theorem State.touchLine_carries (h : P s.mem) {t l} : P (s.touchLine t l).2.mem := by
  induction l generalizing s with
  | nil => exact h
  | cons k r ih =>
    unfold State.touchLine
    have hw := State.touchWord_carries h (t := t) (key := k)
    split <;> rename_i he <;> rw [he] at hw
    · exact hw
    · exact ih hw
    · exact ih hw

theorem State.fetchLine_carries (h : P s.mem) {t w sw line} : (s.fetchLine t w sw line).carries P := by
  unfold State.fetchLine
  dsimp only
  have hl := State.touchLine_carries h (t := t) (l := lineKeys t w sw line)
  split <;> rename_i he <;> rw [he] at hl
  · exact hl
  · split
    · exact hl
    · split <;> exact hl

theorem State.fetchFirst_carries (h : P s.mem) {k q l} : P (s.fetchFirst k q l).mem := by
  induction l generalizing s with
  | nil =>
    unfold State.fetchFirst
    dsimp only
    (repeat' split) <;> exact h
  | cons l r ih =>
    unfold State.fetchFirst
    dsimp only
    have hw := State.fetchLine_carries h (t := q.t) (w := q.op.place.1) (sw := q.op.place.2) (line := l)
    split <;> rename_i he <;> rw [he] at hw
    · exact ih hw
    · rw [State.fetchFault_mem]
      exact hw
    · rw [State.consumedArrivals_mem]
      exact hw

end Engines

end Sys2Proof.Machine

end

section
/-! PROOFS. What keeps memory canonical. Each operation of the state that writes bytes of memory writes them by `memWrite`, `memPut`,
`memCopy`, `memClear` or a filter, which keep the canonical form. -/

namespace Sys2Proof.Machine

/-! ### Canonical memory -/

/-- Memory is in its canonical form. -/
def Canon (m : List Host.Cell) : Prop := memWf m = true

@[simp] theorem Canon.memWrite {m : List Host.Cell} (h : Canon m) {k : Nat} {l : List Byte} :
    Canon (memWrite m k l) := memWf_memWrite h k l
@[simp] theorem Canon.filter {m : List Host.Cell} (h : Canon m) {f : Host.Cell → Bool} : Canon (m.filter f) := memWf_filter f h
@[simp] theorem Canon.memPut {m cells : List Host.Cell} (h : Canon m) (hc : Canon cells) {k n : Nat} :
    Canon (memPut m k n cells) :=
  memWf_memPut h hc k n
@[simp] theorem Canon.memCopy {m : List Host.Cell} (h : Canon m) {src dst n : Nat} :
    Canon (memCopy m src dst n) := memWf_memCopy h src dst n
@[simp] theorem Canon.memClear {m : List Host.Cell} (h : Canon m) {k n : Nat} : Canon (memClear m k n) := memWf_memClear h k n
@[simp] theorem canon_cellsOf {k : Nat} {l : List Byte} : Canon (cellsOf k l) := memWf_cellsOf k l

/-- A fold of updates that keep a memory canonical keeps it so. -/
theorem Canon.foldl {β : Type} {f : List Host.Cell → β → List Host.Cell} (hf : ∀ m b, Canon m → Canon (f m b)) (l : List β)
    {m : List Host.Cell} (h : Canon m) : Canon (l.foldl f m) := by
  induction l generalizing m with
  | nil => exact h
  | cons b r ih => exact ih (hf m b h)

theorem Canon.ite {c : Prop} [Decidable c] {a b : List Host.Cell} (ha : Canon a) (hb : Canon b) : Canon (if c then a else b) := by
  split
  · exact ha
  · exact hb

/-- A fold of steps that keep memory canonical keeps it so. -/
theorem canon_foldl {β : Type} {step : State → β → State} (h : ∀ s b, Canon s.mem → Canon (step s b).mem) (l : List β) {s : State}
    (hs : Canon s.mem) : Canon (l.foldl step s).mem := by
  induction l generalizing s with
  | nil => exact hs
  | cons b r ih => exact ih (h s b hs)

theorem canon_ite {c : Prop} [Decidable c] {a b : State} (ha : Canon a.mem) (hb : Canon b.mem) :
    Canon (if c then a else b).mem := by
  split
  · exact ha
  · exact hb

def ActionEnd.carries (P : List Host.Cell → Prop) : ActionEnd → Prop
  | .done s | .failed s | .refused _ s | .net _ s | .waits s => P s.mem

theorem ActionEnd.carries_ite {P : List Host.Cell → Prop} {c : Prop} [Decidable c] {s t : State} (hs : P s.mem) (ht : P t.mem) :
    (if c then ActionEnd.done s else .done t).carries P := by
  split
  · exact hs
  · exact ht

theorem stopCarries_ite {α : Type} {P : List Host.Cell → Prop} {π : α → State} {c : Prop} [Decidable c] {a b : Except Stop α}
    (ha : stopCarries P π a) (hb : stopCarries P π b) : stopCarries P π (if c then a else b) := by
  split
  · exact ha
  · exact hb

def Admission.carries (P : List Host.Cell → Prop) : Admission → Prop
  | .admitted s => P s.mem
  | .refused | .permission => True

theorem Admission.carries_admitted {P : List Host.Cell → Prop} {a : Admission} {t : State} (h : a.carries P) (e : a = .admitted t) :
    P t.mem := by
  rw [e] at h; exact h

theorem Canon.of_pair {α : Type} {p : α × State} {a : α} {t : State} (h : Canon p.2.mem) (e : p = (a, t)) : Canon t.mem := by
  rw [e] at h; exact h

section Options

variable {α β γ : Type} {P : List Host.Cell → Prop} {π : α → State} {ρ : β → State}

theorem optCarries.bind {o : Option α} {k : α → Option β} (h : optCarries P π o) (hk : ∀ a, P (π a).mem → optCarries P ρ (k a)) :
    optCarries P ρ (o.bind k) := by
  cases o with
  | none => trivial
  | some a => exact hk a h

theorem optCarries.map {o : Option α} {k : α → β} (h : optCarries P π o) (hk : ∀ a, P (π a).mem → P (ρ (k a)).mem) :
    optCarries P ρ (o.map k) := by
  cases o with
  | none => trivial
  | some a => exact hk a h

theorem optCarries_map_any {o : Option γ} {k : γ → β} (hk : ∀ a, P (ρ (k a)).mem) : optCarries P ρ (o.map k) := by
  cases o with
  | none => trivial
  | some a => exact hk a

theorem optCarries_ite {c : Prop} [Decidable c] {a b : Option α} (ha : optCarries P π a) (hb : optCarries P π b) :
    optCarries P π (if c then a else b) := by
  split
  · exact ha
  · exact hb

/-- A fold of optional steps that keep a property of memory keeps it. -/
theorem optCarries_foldl {f : Option α → γ → Option α} (hf : ∀ c a, optCarries P π a → optCarries P π (f a c)) (l : List γ)
    {a : Option α} (h : optCarries P π a) : optCarries P π (l.foldl f a) := by
  induction l generalizing a with
  | nil => exact h
  | cons c r ih => exact ih (hf c a h)

end Options

@[simp] theorem State.setPoisons_mem {s : State} {n k : Nat} :
    ((List.range n).foldl (fun s i => s.setPoison (k + 8 * i)) s).mem = s.mem :=
  State.mem_foldl (step := fun s i => s.setPoison (k + 8 * i)) (fun _ _ => rfl) _ s

theorem State.settle_canon {s : State} (h : Canon s.mem) {t : Nat} {x : Side} {r : Except Stop State} (hr : stopCarries Canon id r) :
    Canon (s.settle t x r).mem := by
  unfold State.settle
  split
  · exact hr
  · rwa [State.raise_mem]
  · rwa [State.block_mem]
  · rw [State.raise_mem]
    exact hr
  · rw [State.block_mem]
    exact hr

end Sys2Proof.Machine

namespace Sys2Proof.Machine

variable {s : State}

@[simp] theorem State.writeMemLine_canon (h : Canon s.mem) {line data poison} : Canon (s.writeMemLine line data poison).mem := by
  unfold State.writeMemLine
  dsimp only
  split
  · rw [State.setPoisons_mem]
    simp [h]
  · rw [State.clearPoison_mem]
    simp [h]

@[simp] theorem State.cleanRind_canon (h : Canon s.mem) {slice line} : Canon (s.cleanRind slice line).mem := by
  unfold State.cleanRind
  split
  · simp [h]
  · split <;> simp [h]

@[simp] theorem State.evictRind_canon (h : Canon s.mem) {slice line} : Canon (s.evictRind slice line).mem := by
  unfold State.evictRind
  simp [h]

@[simp] theorem State.putSram_canon (h : Canon s.mem) {key bytes rel} : Canon (s.putSram key bytes rel).mem := by
  unfold State.putSram
  dsimp only
  rw [State.watchRange_mem, State.recordRel_mem, State.mem_foldl (fun _ _ => State.setFull_mem)]
  exact h.memWrite

@[simp] theorem State.bypass_canon (h : Canon s.mem) {x} : Canon (s.bypass x).mem := by
  unfold State.bypass
  dsimp only
  (repeat' split) <;> simp [h]

@[simp] theorem State.roomInPaste_canon (h : Canon s.mem) {slice a1} : Canon (s.roomInPaste slice a1).mem := by
  induction a1 generalizing s with
  | zero => exact h
  | succ n ih =>
    unfold State.roomInPaste
    split
    · exact h
    · split
      · exact ih (State.evictRind_canon h)
      · exact h

@[simp] theorem State.newPaste_canon (h : Canon s.mem) {x} {hash : BitVec 32} {b base st} :
    Canon (s.newPaste x hash b base st).mem := by
  unfold State.newPaste
  have h1 := State.roomInPaste_canon h (slice := x.slice) (a1 := s.rind.length)
  dsimp only
  split
  · rw [State.touchRind_mem, State.putRind_mem, State.releaseOld_mem]
    exact h1
  · exact State.bypass_canon h1

@[simp] theorem State.roomInSet_canon (h : Canon s.mem) {slice line} : Canon (s.roomInSet slice line).mem := by
  unfold State.roomInSet
  split
  · simp [h]
  · split <;> simp [h]

@[simp] theorem State.install_canon (h : Canon s.mem) {x pin} : Canon (s.install x pin).mem := by
  unfold State.install
  dsimp only
  (repeat' split) <;> simp [h]

@[simp] theorem State.writeLine_canon (h : Canon s.mem) {home line data whole part dom ctx poison} :
    Canon (s.writeLine home line data whole part dom ctx poison).mem := by
  unfold State.writeLine
  split <;> simp [h]

@[simp] theorem State.writeBackL1_canon (h : Canon s.mem) {l} : Canon (s.writeBackL1 l).mem := by
  unfold State.writeBackL1
  split <;> simp [h]

@[simp] theorem State.writeBackMarked_canon (h : Canon s.mem) {c p} : Canon (s.writeBackMarked c p).mem := by
  unfold State.writeBackMarked
  exact canon_foldl (fun s _ h => by simp [h]) _ h

@[simp] theorem State.acquireFrom_canon (h : Canon s.mem) {t r scope} : Canon (s.acquireFrom t r scope).mem := by
  unfold State.acquireFrom
  split <;> simp [h]

@[simp] theorem State.acquireAll_canon (h : Canon s.mem) {t scope rs} : Canon (s.acquireAll t scope rs).mem := by
  unfold State.acquireAll
  exact canon_foldl (fun s _ h => by simp [h]) _ h

@[simp] theorem State.ldsyncRead_canon (h : Canon s.mem) {t x key ty take scope} :
    Canon (s.ldsyncRead t x key ty take scope).2.mem := by
  unfold State.ldsyncRead
  dsimp only
  rw [State.dropOwn_mem, State.acquireEngine_mem]
  refine State.acquireAll_canon ?_
  rw [State.updStrand_mem]
  split
  · rwa [State.setEmpty_mem]
  · exact h

@[simp] theorem State.releaseCluster_canon (h : Canon s.mem) {t scope} : Canon (s.releaseCluster t scope).2.mem := by
  unfold State.releaseCluster
  exact canon_foldl (fun _ _ h => State.writeBackL1_canon h) _ h

@[simp] theorem State.stsyncWrite_canon (h : Canon s.mem) {t x key ty v scope} :
    Canon (s.stsyncWrite t x key ty v scope).mem := by
  unfold State.stsyncWrite
  split
  rename_i he
  have h1 := (State.releaseCluster_canon h).of_pair he
  dsimp only
  exact State.putSram_canon (by rwa [State.clearPoison_mem])

@[simp] theorem State.serveOne_canon (h : Canon s.mem) {w} : Canon (s.serveOne w).mem := by
  unfold State.serveOne
  dsimp only
  (repeat' split) <;> simp [h]

@[simp] theorem State.serveWord_canon (h : Canon s.mem) {key a1} : Canon (s.serveWord key a1).mem := by
  induction a1 generalizing s with
  | zero => exact h
  | succ n ih =>
    unfold State.serveWord
    split
    · exact h
    · split
      · exact ih (State.serveOne_canon h)
      · exact h

@[simp] theorem State.served_canon (h : Canon s.mem) {key n} : Canon (s.served key n).mem := by
  unfold State.served
  exact canon_foldl (fun s _ h => by simp [h]) _ h

@[simp] theorem State.performStore_canon (h : Canon s.mem) {st} : Canon (s.performStore st).mem := by
  unfold State.performStore
  simp [h]

@[simp] theorem State.drainStores_canon (h : Canon s.mem) {t x} : Canon (s.drainStores t x).mem := by
  unfold State.drainStores
  exact canon_foldl (fun s _ h => by simp [h]) _ h

@[simp] theorem State.release_canon (h : Canon s.mem) {t x scope} : Canon (s.release t x scope).2.mem := by
  unfold State.release
  exact State.releaseCluster_canon (State.drainStores_canon h)

@[simp] theorem State.acceptAtomic_canon (h : Canon s.mem) {t x a} : Canon (s.acceptAtomic t x a).mem := by
  unfold State.acceptAtomic
  split <;> simp [h]

theorem atomicBody_canon (h : Canon s.mem) {op e} : stopCarries Canon id (atomicBody op e s) := by
  unfold atomicBody
  refine (State.resolve_carries h).bind fun p h1 => ?_
  dsimp only
  split
  · trivial
  · refine (State.touchRange_carries h1).bind fun s2 h2 => ?_
    exact (State.admitAtomic_carries h2).bind fun s3 h3 => State.acceptAtomic_canon h3

@[simp] theorem State.writeBackLine_canon (h : Canon s.mem) {c line} : Canon (s.writeBackLine c line).mem := by
  unfold State.writeBackLine
  exact canon_foldl (fun s _ h => by simp [h]) _ h

@[simp] theorem State.homeFresh_canon (h : Canon s.mem) {t x g} : Canon (s.homeFresh t x g).mem := by
  unfold State.homeFresh
  split <;> simp [h]

@[simp] theorem State.writeHome_canon (h : Canon s.mem) {home key bytes part dom ctx poison} :
    Canon (s.writeHome home key bytes part dom ctx poison).mem := by
  unfold State.writeHome
  simp [h]

@[simp] theorem State.writeSram_canon (h : Canon s.mem) {key bytes rel} : Canon (s.writeSram key bytes rel).mem := by
  unfold State.writeSram
  refine State.served_canon (State.putSram_canon ?_)
  exact h

@[simp] theorem State.homeStore_canon (h : Canon s.mem) {t g n v rel} : Canon (s.homeStore t g n v rel).mem := by
  unfold State.homeStore
  split
  · simp [h]
  · split <;> simp [h]

@[simp] theorem State.advance_canon (h : Canon s.mem) {t x g w v scope} : Canon (s.advance t x g w v scope).2.mem := by
  unfold State.advance
  dsimp only
  have h1 := State.homeFresh_canon h (t := t) (x := x) (g := g)
  split
  · exact State.homeStore_canon (State.release_canon h1)
  · exact h1

@[simp] theorem State.putL1_canon (h : Canon s.mem) {l} : Canon (s.putL1 l).mem := by
  unfold State.putL1
  dsimp only
  (repeat' split) <;> simp [h]

@[simp] theorem State.readReleased_canon (h : Canon s.mem) {key} : Canon (s.readReleased key).mem := by
  unfold State.readReleased
  exact canon_foldl (fun s _ h => by simp [h]) _ h

@[simp] theorem State.readL1_canon (h : Canon s.mem) {t g n fresh} : Canon (s.readL1 t g n fresh).2.mem := by
  unfold State.readL1
  extract_lets line ofs need old keep
  split
  · exact h
  · refine State.putL1_canon ?_
    rw [State.readLine64_mem]
    exact State.readReleased_canon h

@[simp] theorem State.readBytes_canon (h : Canon s.mem) {t x g n fresh} : Canon (s.readBytes t x g n fresh).2.2.mem := by
  unfold State.readBytes
  split
  · exact h
  · split
    · exact State.readL1_canon h
    · split <;> exact h

@[simp] theorem State.readElems_canon (h : Canon s.mem) {t x n acq l} : Canon (s.readElems t x n acq l).2.2.mem := by
  induction l generalizing s with
  | nil => exact h
  | cons e r ih =>
    unfold State.readElems
    refine ih (State.readBytes_canon ?_)
    split
    · exact State.acquireAll_canon h
    · exact h

theorem State.recordLoad_canon (h : Canon s.mem) {va sw} : stopCarries Canon (·.2) (s.recordLoad va sw) := by
  unfold State.recordLoad
  split
  · trivial
  · refine (State.checkElems_carries h).bind fun p h1 => ?_
    refine (State.touchAll_carries h1).bind fun s2 h2 => ?_
    refine (State.admitAll_carries h2).bind fun s3 h3 => ?_
    dsimp only
    split
    · trivial
    · exact State.readElems_canon h3

@[simp] theorem State.actionAcquire_canon (h : Canon s.mem) {a} : Canon (s.actionAcquire a).mem := by
  unfold State.actionAcquire
  simp [h]

@[simp] theorem State.actionRelease_canon (h : Canon s.mem) {a} : Canon (s.actionRelease a).2.mem := by
  unfold State.actionRelease
  exact State.releaseCluster_canon (t := a.t) (scope := 6) (State.actionAcquire_canon h (a := a))

theorem State.runAdvance_canon (h : Canon s.mem) {a} : (s.runAdvance a).carries Canon := by
  unfold State.runAdvance
  dsimp only
  split
  · exact h
  · rename_i g s1 hx
    have h1 := (State.resolve_carries h).ok hx
    split
    · exact h1
    · have hw : Touch.carries Canon (if isSram g.key && g.home == clusterOf a.t then s1.touchWord a.t g.key else .clear s1) := by
        split
        · exact State.touchWord_carries h1
        · exact h1
      split <;> rename_i he <;> rw [he] at hw
      · exact hw
      · exact hw
      · have h2 := State.homeFresh_canon (h := hw) (t := a.t) (x := .strandA) (g := g)
        have h3 := State.actionRelease_canon h2 (a := a)
        refine ActionEnd.carries_ite ?_ h2
        exact State.homeStore_canon h3

@[simp] theorem State.flushRange_canon (h : Canon s.mem) {key n} : Canon (s.flushRange key n).mem := by
  unfold State.flushRange
  refine canon_foldl (fun s r h => ?_) _ h
  split
  · exact State.cleanRind_canon h
  · exact State.evictRind_canon h

@[simp] theorem State.memUpdate_canon (h : Canon s.mem) {key n} {f : List Host.Cell → List Host.Cell}
    (hf : ∀ m, Canon m → Canon (f m)) : Canon (s.memUpdate key n f).mem := by
  unfold State.memUpdate
  exact canon_foldl (fun _ _ h => State.install_canon h) _ (hf _ (State.flushRange_canon h))

@[simp] theorem State.appendLog_canon (h : Canon s.mem) {i r rel a w} : Canon (s.appendLog i r rel a w).mem := by
  unfold State.appendLog
  split
  · exact h
  · dsimp only
    exact State.memUpdate_canon (State.memUpdate_canon h fun _ h => h.memWrite) fun _ h => h.memWrite

theorem State.admitMsg_canon (h : Canon s.mem) {sender m} : (s.admitMsg sender m).carries Canon := by
  unfold State.admitMsg
  dsimp only
  split
  · trivial
  · split
    · split
      · trivial
      · split
        · exact h
        · trivial
    · split
      · trivial
      · split
        · trivial
        · split
          · exact State.appendLog_canon h
          · trivial
    · trivial
    · trivial

@[simp] theorem State.actionArrives_canon (h : Canon s.mem) {c a} : Canon (s.actionArrives c a).2.mem := by
  unfold State.actionArrives
  dsimp only
  split
  · split
    · exact h
    · split
      · exact h
      · split <;> exact h
  · split
    · exact h
    · split
      · rename_i he
        exact Admission.carries_admitted (State.admitMsg_canon h) he
      · exact h
      · exact h

@[simp] theorem State.actionPresent_canon (h : Canon s.mem) {a} : Canon (s.actionPresent a).2.mem := by
  unfold State.actionPresent
  split
  · exact h
  · have h1 := State.actionRelease_canon h (a := a)
    refine canon_ite h1 (canon_foldl (fun _ _ h => State.writeBackMarked_canon h) _ h1)

theorem State.actionAsk_canon (h : Canon s.mem) {c a die cls} : (s.actionAsk c a die cls).carries Canon := by
  unfold State.actionAsk
  split
  rename_i b s1 he
  have h1 := (State.actionPresent_canon h).of_pair he
  have hg (dst part : Nat) (o : Owner) (n : Net) := State.ask_carries h1 (src := c / 32) (dst := dst) (cls := cls) (part := part) (o := o) (n := n)
  split <;> rename_i hk
  · exact (hk ▸ hg .. : Grant.carries Canon (.waits _ _))
  · exact h1
  · exact (hk ▸ hg .. : Grant.carries Canon (.failed _ _))
  · split
    · exact h1
    · split <;> rename_i hr <;> exact (State.actionArrives_canon h1).of_pair hr

theorem State.runIncrement_canon (h : Canon s.mem) {c a} : (s.runIncrement c a).carries Canon := by
  unfold State.runIncrement
  split
  · exact h
  · split
    · exact h
    · exact State.actionAsk_canon h

@[simp] theorem State.emptyWords_canon (h : Canon s.mem) {t w sw va n} : Canon (s.emptyWords t w sw va n).mem := by
  unfold State.emptyWords
  have hf : Canon ((List.range (n / 8)).foldl (fun (s : State) i =>
      (s.setEmpty (localKey t w sw (va + 8 * i))).served (localKey t w sw (va + 8 * i)) 8) s).mem := by
    refine canon_foldl (fun s i h => State.served_canon ?_) _ h
    rwa [State.setEmpty_mem]
  split
  · exact hf
  · exact hf
  · exact hf
  · exact h

theorem State.runPull_canon (h : Canon s.mem) {c a} : (s.runPull c a).carries Canon := by
  unfold State.runPull
  dsimp only
  split
  · exact h
  · split
    · show Canon (State.acceptJob _ _ _ _).mem
      rw [State.acceptJob_mem]
      exact State.actionAcquire_canon (canon_ite (State.emptyWords_canon h) h)
    · exact h

theorem State.runSend_canon (h : Canon s.mem) {c a} : (s.runSend c a).carries Canon := by
  unfold State.runSend
  split
  · exact h
  · exact State.actionAsk_canon h

theorem State.runAction_canon (h : Canon s.mem) {c a} : (s.runAction c a).carries Canon := by
  unfold State.runAction
  split
  · exact State.runPull_canon h
  · exact State.runPull_canon h
  · exact State.runIncrement_canon h
  · exact State.runAdvance_canon h
  · exact State.runSend_canon h

@[simp] theorem State.atomicFresh_canon (h : Canon s.mem) {t x r} : Canon (s.atomicFresh t x r).mem := by
  unfold State.atomicFresh
  split
  · simp [h]
  · split <;> simp [h]

@[simp] theorem State.atomicObserve_canon (h : Canon s.mem) {t x r} : Canon (s.atomicObserve t x r).mem := by
  unfold State.atomicObserve
  split <;> simp [h]

@[simp] theorem State.atomicWrite_canon (h : Canon s.mem) {r n v} : Canon (s.atomicWrite r n v).mem := by
  unfold State.atomicWrite
  split
  · simp [h]
  · split <;> simp [h]

@[simp] theorem State.atomicRun_canon (h : Canon s.mem) {t x id r} : Canon (s.atomicRun t x id r).mem := by
  unfold State.atomicRun
  extract_lets w s1 slice old s2
  have h1 : Canon s1.mem := State.atomicFresh_canon h
  have h2 : Canon s2.mem := State.atomicObserve_canon h1
  split
  · rw [State.result_mem]
    exact h1
  · rw [State.result_mem]
    show Canon (State.mem (match r.op.eval _ _ _ _ _ with | some _ => _ | none => _))
    split
    · exact State.atomicWrite_canon h2
    · exact h2

@[simp] theorem State.atomicEnd_canon (h : Canon s.mem) {t x id r} : Canon (s.atomicEnd t x id r).mem := by
  unfold State.atomicEnd
  split <;> simp [h]

@[simp] theorem State.renumber_canon (h : Canon s.mem) {d num} : Canon (s.renumber d num).mem := by
  unfold State.renumber
  simp [h]

@[simp] theorem State.outsidePod_canon (h : Canon s.mem) {d} : Canon (s.outsidePod d).mem := by
  unfold State.outsidePod
  split <;> simp [h]

@[simp] theorem State.failStage_canon (h : Canon s.mem) {d} : Canon (s.failStage d).mem := by
  unfold State.failStage
  dsimp only
  split
  · exact State.outsidePod_canon (by simpa using h)
  · exact h

@[simp] theorem State.enqueueMat_canon (h : Canon s.mem) {op} : Canon (s.enqueueMat op).2.mem := by
  unfold State.enqueueMat
  exact State.drainStores_canon h

theorem tileBody_canon (h : Canon s.mem) {e op} : stopCarries Canon id (tileBody e s op) := by
  unfold tileBody
  split
  · trivial
  · exact State.enqueueMat_canon h (op := op)

@[simp] theorem State.maintLine_canon (h : Canon s.mem) {t op die g} : Canon (s.maintLine t op die g).mem := by
  unfold State.maintLine
  dsimp only
  (repeat' split) <;> simp [h]

@[simp] theorem State.maintAt_canon (h : Canon s.mem) {t op die w va} : Canon (s.maintAt t op die w va).mem := by
  unfold State.maintAt
  split
  · rename_i hx
    have h1 := (State.place_carries h).ok hx
    split
    · exact State.maintLine_canon h1
    · exact h1
  · exact h

theorem maintBody_canon (h : Canon s.mem) {op e} : stopCarries Canon id (maintBody op e s) := by
  unfold maintBody
  extract_lets va n
  refine (State.maintRange_carries h).bind fun p h1 => ?_
  obtain ⟨w, s1⟩ := p
  have hs : stopCarries Canon id (if n ≤ s1.my.prog.toNat then s1.rangeStep 0 0
      else (s1.maintAt s1.curT op (decide (e.gs.toNat ≥ 4)) w (va.toNat + s1.my.prog.toNat)).rangeStep n
        ((va.toNat + s1.my.prog.toNat) / 64 * 64 + 64 - va.toNat)) := by
    split
    · exact State.rangeStep_carries h1
    · exact State.rangeStep_carries (State.maintAt_canon h1)
  dsimp only
  split
  · exact hs
  · exact hs
  · exact hs
  · exact State.rangeStep_carries h1

@[simp] theorem State.clearSram_canon (h : Canon s.mem) {c} : Canon (s.clearSram c).mem := by
  unfold State.clearSram
  simp [h]

@[simp] theorem State.scrub_canon (h : Canon s.mem) {c} : Canon (s.scrub c).mem := by
  unfold State.scrub
  simp [h]

@[simp] theorem State.endJob_canon (h : Canon s.mem) {c ms j f} : Canon (s.endJob c ms j f).mem := by
  unfold State.endJob
  extract_lets post gone
  have hpost : ∀ u : State, Canon u.mem → Canon (post u).mem := fun u hu => by
    show Canon (State.mem (match j.ctr, f with | some k, some r => _ | _, _ => _))
    split <;> exact hu
  have hgone : Canon gone.mem := hpost _ h
  split
  · exact h
  · split
    · exact hgone
    · dsimp only
      split
      · rw [State.updTok_mem]
        exact canon_ite (hpost _ h) hgone
      · split
        · exact hgone
        · split
          · exact State.appendLog_canon hgone
          · exact State.appendLog_canon hgone
      · exact hgone
      · exact hgone

@[simp] theorem State.jobDone_canon (h : Canon s.mem) {c ms j n} : Canon (s.jobDone c ms j n).mem := by
  unfold State.jobDone
  extract_lets j0 s1 j1 j2
  have h1 : Canon s1.mem := by
    show Canon (State.mem (match j0.ctr with | some _ => _ | none => _))
    split
    · exact canon_ite h h
    · exact h
  exact canon_ite (State.endJob_canon h1) h1

@[simp] theorem State.engineRead_canon (h : Canon s.mem) {t g n} : Canon (s.engineRead t g n).2.2.mem := by
  unfold State.engineRead
  split
  · exact h
  · split
    · exact h
    · dsimp only
      rw [State.touchHome_mem]
      exact State.writeBackLine_canon h

@[simp] theorem State.engineWrite_canon (h : Canon s.mem) {c j g n v bad} : Canon (s.engineWrite c j g n v bad).mem := by
  unfold State.engineWrite
  split
  · simp [h]
  · split <;> simp [h]

@[simp] theorem State.sourceRead_canon (h : Canon s.mem) {j g n} : Canon (s.sourceRead j g n).2.2.mem := by
  unfold State.sourceRead
  dsimp only
  rw [State.dropOwn_mem]
  refine State.engineRead_canon ?_
  rw [State.observeWords_mem]
  exact State.readReleased_canon h

@[simp] theorem State.jobWords_canon (h : Canon s.mem) {c j a2} : Canon (s.jobWords c j a2).mem := by
  induction a2 generalizing s with
  | nil => exact h
  | cons p r ih =>
    unfold State.jobWords
    have h1 := State.sourceRead_canon h (j := j) (g := p.g) (n := 8)
    dsimp only
    split
    · exact ih (State.engineWrite_canon (State.engineRead_canon h1))
    · exact ih (State.engineWrite_canon h1)

@[simp] theorem State.pinLine_canon (h : Canon s.mem) {c j lid g} : Canon (s.pinLine c j lid g).mem := by
  unfold State.pinLine
  dsimp only
  (repeat' split) <;> simp [h]

theorem State.runWords_canon (h : Canon s.mem) {c j l n} : (s.runWords c j l n).carries Canon := by
  unfold State.runWords
  have hp := State.enterPages_carries h (c := c) (j := j) (l := l)
  split
  · rename_i s1 _ he
    rw [he] at hp
    dsimp only
    have h2 (u : State) (hu : Canon u.mem) (q : Job) : Canon (((sourceLines (l.map (·.g))).foldl (fun s g => s.countSource q.t g) u).jobWords c q l).mem :=
      State.jobWords_canon (canon_foldl (fun s g h => by rwa [State.countSource_mem]) _ hu)
    split
    · exact canon_foldl (fun s p h => State.pinLine_canon h) _ (h2 (s1.updCluster ..) hp _)
    · exact h2 (s1.updCluster ..) hp _
  · rename_i he
    rwa [he] at hp

theorem State.blockStep_canon (h : Canon s.mem) {c j} : (s.blockStep c j).carries Canon := by
  unfold State.blockStep
  dsimp only
  split
  · exact State.jobPairs_carries h
  · exact State.runWords_canon (State.jobPairs_carries h)

theorem State.msStep_canon (h : Canon s.mem) {c j op ty rm sat ftz b d scalar} :
    (s.msStep c j op ty rm sat ftz b d scalar).carries Canon := by
  unfold State.msStep
  split
  · exact h
  · rename_i hx
    have h1 := (State.msPlace_carries h).ok hx
    dsimp only
    split
    · exact h1
    · rename_i hy
      have h2 := (State.msPlaces_carries h1).ok hy
      dsimp only at h2
      refine canon_ite ?_ ?_
      · rw [State.setPoisons_mem]
        simp [h2]
      · simp [h2]

theorem State.pinStep_canon (h : Canon s.mem) {c j lid} : (s.pinStep c j lid).carries Canon := by
  unfold State.pinStep
  dsimp only
  have hp := State.jobPlace_carries h (c := c) (j := j) (va := (j.src + wordOf j.ofs).toNat) (n := 8) (sw := 0) (st := false)
  split
  · exact h
  · rename_i hx
    have h1 := hp.ok hx
    split
    · exact State.pinLine_canon (s := State.updCluster ..) (by rwa [State.updCluster_mem])
    · exact h1

theorem State.rowStep_canon (h : Canon s.mem) {c j rowb sstr dstr} : (s.rowStep c j rowb sstr dstr).carries Canon := by
  unfold State.rowStep
  dsimp only
  split
  · exact State.jobPairs_carries h
  · exact State.runWords_canon (State.jobPairs_carries h)

theorem State.jobStep_canon (h : Canon s.mem) {c j} : (s.jobStep c j).carries Canon := by
  unfold State.jobStep
  split
  · exact State.blockStep_canon h
  · exact State.blockStep_canon h
  · exact State.pinStep_canon h
  · exact State.rowStep_canon h
  · exact State.msStep_canon h

theorem State.jobTry_canon (h : Canon s.mem) {c ms j} : (s.jobTry c ms j).carries Canon := by
  unfold State.jobTry
  have h1 := State.jobStep_canon h (c := c) (j := j)
  split
  · rename_i he
    split
    · exact State.refuseJob_carries h
    · rwa [he] at h1
  · exact h1

@[simp] theorem State.jobProgress_canon (h : Canon s.mem) {c n ms} : Canon (s.jobProgress c n ms).mem := by
  unfold State.jobProgress
  split
  · exact h
  · rename_i j _
    refine canon_ite (State.endJob_canon h) ?_
    have h1 := State.jobTry_canon h (c := c) (ms := ms) (j := j)
    split <;> rename_i he <;> rw [he] at h1
    · exact h1
    · exact State.jobDone_canon h1
    · exact h

@[simp] theorem State.jobFault_canon (h : Canon s.mem) {c n ms} : Canon (s.jobFault c n ms).mem := by
  unfold State.jobFault
  split
  · exact h
  · rename_i j _
    refine canon_ite h ?_
    have h1 := State.jobTry_canon h (c := c) (ms := ms) (j := j)
    split
    · rename_i he
      rw [he] at h1
      exact State.endJob_canon h1
    · exact h

@[simp] theorem State.acquireSeen_canon (h : Canon s.mem) {t x l} : Canon (s.acquireSeen t x l).mem := by
  unfold State.acquireSeen
  exact canon_foldl (fun s _ h => by simp [h]) _ h

theorem State.evalCwait_canon (h : Canon s.mem) {t x k ph a scope pd} :
    stopCarries Canon id (s.evalCwait t x k ph a scope pd) := by
  unfold State.evalCwait
  dsimp only
  split
  · exact h
  · split
    · exact h
    · refine stopCarries_ite ?_ trivial
      · show Canon (State.finish _ t x _).mem
        rw [State.finish_mem, State.acquireEngine_mem]
        exact State.acquireSeen_canon (State.acquireAll_canon h)

@[simp] theorem State.counterEvent_canon (h : Canon s.mem) {c k} : Canon (s.counterEvent c k).mem := by
  unfold State.counterEvent
  refine canon_foldl (fun s w h => ?_) _ ?_
  · split
    · exact State.settle_canon h (State.evalCwait_canon h)
    · exact h
  · rwa [State.fireArms_mem]

@[simp] theorem State.arrive_canon (h : Canon s.mem) {c k m watch rel} : Canon (s.arrive c k m watch rel).mem := by
  unfold State.arrive
  dsimp only
  refine State.counterEvent_canon ?_
  rwa [State.setCounter_mem]

@[simp] theorem State.postFault_canon (h : Canon s.mem) {c k f} : Canon (s.postFault c k f).mem := by
  unfold State.postFault
  refine State.counterEvent_canon ?_
  rwa [State.setCounter_mem]

theorem State.makeArrival_canon (h : Canon s.mem) {c a} : optCarries Canon id (s.makeArrival c a) := by
  unfold State.makeArrival
  dsimp only
  have h1 : Canon (s.dropArrival c a).mem := by rwa [State.dropArrival_mem]
  split
  · split
    · exact State.postFault_canon h1
    · exact State.arrive_canon h1
  · split
    · exact State.appendLog_canon h1
    · trivial
  · trivial
  · exact h1

theorem acceptBody_canon (h : Canon s.mem) {ms j} {empty : State → State} (he : ∀ u : State, Canon u.mem → Canon (empty u).mem) :
    stopCarries Canon id (acceptBody s ms j empty) := by
  unfold acceptBody
  dsimp only
  split
  · trivial
  · show Canon (State.next _).mem
    rw [State.next_mem, State.acceptJob_mem]
    exact he _ (State.drainStores_canon h)

theorem copyBody_canon (h : Canon s.mem) {e kind lease reduce} : stopCarries Canon id (copyBody e s kind lease reduce) := by
  unfold copyBody
  extract_lets ctl dst src n
  split
  · trivial
  · refine (copyRange_carries h).bind fun w h => (copyRange_carries h).bind fun _ h => acceptBody_canon h fun u hu => ?_
    exact canon_ite (State.emptyWords_canon hu) hu

@[simp] theorem State.loadSram_canon (h : Canon s.mem) {c area} : Canon (s.loadSram c area).mem := by
  unfold State.loadSram
  exact Canon.foldl (fun m u h => h.memCopy) _ h

@[simp] theorem State.replay_canon (h : Canon s.mem) {sv ofs} : Canon (s.replay sv ofs).mem := by
  unfold State.replay
  dsimp only
  (repeat' split) <;> simp [h]

@[simp] theorem State.replayAll_canon (h : Canon s.mem) {sv a1} : Canon (s.replayAll sv a1).mem := by
  induction a1 generalizing s with
  | zero => exact h
  | succ n ih =>
    unfold State.replayAll
    exact State.replay_canon (ih h)

@[simp] theorem State.serveAll_canon (h : Canon s.mem) {l} : Canon (s.serveAll l).mem := by
  unfold State.serveAll
  exact canon_foldl (fun s _ h => by simp [h]) _ h

@[simp] theorem State.loadArea_canon (h : Canon s.mem) {c area sv} : Canon (s.loadArea c area sv).mem := by
  unfold State.loadArea
  extract_lets base s1 s2 threads s3 s4 ms held s5 s6 s7 s8 s9 s10 s11
  have h1 : Canon s1.mem := canon_ite h (State.scrub_canon h)
  have h2 : Canon s2.mem := canon_ite (State.loadSram_canon h1) h1
  have h4 : Canon s4.mem := canon_foldl (fun s p h => by rwa [State.updCore_mem]) _
    (canon_foldl (fun s p h => by rwa [State.setThread_mem]) _ h2)
  have h7 : Canon s7.mem := State.serveAll_canon (by rwa [State.compareAll_mem])
  have h9 : Canon s9.mem := canon_foldl (fun s p h => by rwa [State.barrierLoaded_mem, State.barrierLoaded_mem]) _
    (State.replayAll_canon h7)
  rw [State.updCluster_mem]
  exact State.memUpdate_canon (s := s10) h9 fun m hm => hm.memWrite

@[simp] theorem State.runAtomics_canon (h : Canon s.mem) {t x a2} : Canon (s.runAtomics t x a2).mem := by
  induction a2 generalizing s with
  | zero => exact h
  | succ n ih =>
    unfold State.runAtomics
    split
    · exact h
    · exact ih (State.atomicEnd_canon h)

@[simp] theorem State.settleStrand_canon (h : Canon s.mem) {t x} : Canon (s.settleStrand t x).mem := by
  unfold State.settleStrand
  simp [h]

@[simp] theorem State.settleThreads_canon (h : Canon s.mem) {c} : Canon (s.settleThreads c).mem := by
  unfold State.settleThreads
  exact canon_foldl (fun s _ h => by simp [h]) _ h

/-- FE bits of eight words make a byte. -/
theorem feByte_lt {p : Nat → Bool} (n : Nat) :
    (List.range n).foldl (fun a j => if p j then a else a + 2 ^ j) 0 < 2 ^ n := by
  induction n with
  | zero => simp
  | succ n ih =>
    rw [List.range_succ, List.foldl_append, List.foldl_cons, List.foldl_nil, Nat.pow_succ]
    split <;> omega

/-- Bytes at rising keys, the empty ones left out, are in the canonical form. -/
theorem byteCells_canon {f : Nat → Nat} (hf : ∀ i, f i < 2 ^ 8) (n k : Nat) :
    Canon ((List.range n).filterMap fun i => if f i = 0 then none else some (k + i, BitVec.ofNat 8 (f i))) := by
  unfold Canon
  rw [memWf_iff]
  constructor
  · rw [List.pairwise_filterMap]
    refine List.pairwise_lt_range.imp ?_
    intro a b hab x hx y hy
    rw [Option.ite_none_left_eq_some] at hx hy
    simp only [Option.some.injEq] at hx hy
    obtain ⟨_, rfl⟩ := hx
    obtain ⟨_, rfl⟩ := hy
    exact Nat.add_lt_add_left hab k
  · intro x hx
    obtain ⟨i, _, hi⟩ := List.mem_filterMap.mp hx
    rw [Option.ite_none_left_eq_some] at hi
    simp only [Option.some.injEq] at hi
    obtain ⟨hne, rfl⟩ := hi
    intro he
    have h0 := congrArg BitVec.toNat he
    rw [BitVec.toNat_ofNat, Nat.mod_eq_of_lt (hf i)] at h0
    exact hne h0

theorem State.feCells_canon {c k} : Canon (s.feCells c k) := by
  unfold State.feCells
  extract_lets empty
  refine byteCells_canon (f := fun i => if empty.isEmpty then 255
    else (List.range 8).foldl (fun a j => if empty.contains (feWordKey c (8 * i + j)) then a else a + 2 ^ j) 0) (fun i => ?_) _ _
  split
  · decide
  · exact feByte_lt 8

theorem threadImage_canon {m : List Host.Cell} (h : Canon m) {base t th} : Canon (threadImage m base t th) := by
  unfold threadImage
  exact Canon.foldl (fun m q h => Canon.foldl (fun m p h => h.memWrite) _ h) _ (Canon.foldl (fun m n h => h.memWrite) _ h.memWrite.memWrite)

theorem tileImage_canon {m : List Host.Cell} (h : Canon m) {base k tiles} : Canon (tileImage m base k tiles) := by
  unfold tileImage
  exact Canon.foldl (fun m p h => h.memWrite) _ h

theorem State.areaImage_canon {c base logn mem} {m : List Host.Cell} (h : Canon m) : Canon (s.areaImage c base logn mem m) := by
  unfold State.areaImage
  extract_lets m1 m2 m3 m4
  have h4 : Canon m4 := Canon.foldl (fun m k h => tileImage_canon h) _
    (Canon.foldl (fun m p h => threadImage_canon h) _ (Canon.memWrite (h.memPut memWf_nil)))
  exact Canon.ite (Canon.memPut (Canon.foldl (fun m u h => h.memCopy) _ h4) State.feCells_canon) h4

@[simp] theorem State.saveArea_canon (h : Canon s.mem) {c area logn mem} : Canon (s.saveArea c area logn mem).mem := by
  unfold State.saveArea
  rw [State.endClaim_mem, State.updCluster_mem]
  refine canon_foldl (fun s k h => by rwa [State.updCore_mem]) _ ?_
  rw [State.forgetRange_mem]
  exact State.memUpdate_canon (State.settleThreads_canon h) fun m hm => State.areaImage_canon hm

@[simp] theorem State.dropLive_canon (h : Canon s.mem) {c} : Canon (s.dropLive c).mem := by
  unfold State.dropLive
  simp [h]

@[simp] theorem State.wipe_canon (h : Canon s.mem) {d dv} : Canon (s.wipe d dv).mem := by
  unfold State.wipe
  simp [h]

@[simp] theorem State.writeL1_canon (h : Canon s.mem) {t g bytes rel} : Canon (s.writeL1 t g bytes rel).mem := by
  unfold State.writeL1
  simp [h]

@[simp] theorem State.storeBytes_canon (h : Canon s.mem) {t x g bytes rel} : Canon (s.storeBytes t x g bytes rel).mem := by
  unfold State.storeBytes
  split
  · simp [h]
  · split <;> simp [h]

theorem State.redeemStore_canon (h : Canon s.mem) {t x va sw data a5} :
    stopCarries Canon id (s.redeemStore t x va sw data a5) := by
  induction a5 generalizing s with
  | nil => exact h
  | cons i r ih =>
    unfold State.redeemStore
    have hr := State.resolve_carries h (t := t) (va := va + wordOf (8 * i)) (n := 8) (align := 8) (sw := sw) (acc := .store) (st := true)
    split
    · rename_i hx
      exact hr.error hx
    · rename_i hx
      exact ih (State.storeBytes_canon (hr.ok hx))

@[simp] theorem State.storeRedeemed_canon (h : Canon s.mem) {t x va sw sb span data} :
    Canon (s.storeRedeemed t x va sw sb span data).mem := by
  unfold State.storeRedeemed
  have hr := State.redeemStore_canon h (t := t) (x := x) (va := va) (sw := sw.toNat) (data := data) (a5 := List.range (8 * span))
  split
  · rename_i hx
    rw [State.finish_mem]
    exact State.drainStores_canon (hr.ok hx)
  · rwa [State.raise_mem]
  · exact h

@[simp] theorem State.haltAnswered_canon (h : Canon s.mem) {t x f} : Canon (s.haltAnswered t x f).mem := by
  unfold State.haltAnswered
  dsimp only
  (repeat' split) <;> simp [h]

@[simp] theorem State.haltFlight_canon (h : Canon s.mem) {t x} : Canon (s.haltFlight t x).mem := by
  unfold State.haltFlight
  split
  · exact h
  · rename_i f _
    split
    · exact State.haltAnswered_canon h
    · refine canon_ite (by rwa [State.abandon_mem]) ?_
      split
      · rename_i hx
        rw [State.finish_mem]
        exact Admission.carries_admitted (State.admitMsg_canon h) hx
      · rwa [State.abandon_mem]
    · dsimp only
      refine canon_ite (by rwa [State.abandon_mem]) ?_
      split
      · rename_i hx
        rw [State.finish_mem]
        exact (State.makeArrival_canon h).some hx
      · rw [State.abandon_mem, State.dropArrival_mem]
        exact h
    · exact State.storeRedeemed_canon h
    · exact State.acceptAtomic_canon h
    · exact State.acceptAtomic_canon h
    · rw [State.abandon_mem, State.dropAllocated_mem]
      exact h

@[simp] theorem State.haltStrand_canon (h : Canon s.mem) {t x} : Canon (s.haltStrand t x).mem := by
  unfold State.haltStrand
  split <;> simp [h]

@[simp] theorem State.haltCluster_canon (h : Canon s.mem) {c} : Canon (s.haltCluster c).mem := by
  unfold State.haltCluster
  dsimp only
  rw [State.haltRings_mem]
  refine canon_foldl (fun s p h => ?_) _ (by rwa [State.updCluster_mem])
  exact canon_ite h (State.haltStrand_canon (State.haltStrand_canon h))

@[simp] theorem State.drainCluster_canon (h : Canon s.mem) {d} : Canon (s.drainCluster d).mem := by
  unfold State.drainCluster
  dsimp only
  (repeat' split) <;> simp [h]

@[simp] theorem State.performOne_canon (h : Canon s.mem) {t x} : Canon (s.performOne t x).mem := by
  unfold State.performOne
  split <;> simp [h]

@[simp] theorem State.fenceAcquire_canon (h : Canon s.mem) {t x scope} : Canon (s.fenceAcquire t x scope).mem := by
  unfold State.fenceAcquire
  simp [h]

@[simp] theorem State.fenceRelease_canon (h : Canon s.mem) {t x scope} : Canon (s.fenceRelease t x scope).mem := by
  unfold State.fenceRelease
  simp [h]

@[simp] theorem State.fenceSc_canon (h : Canon s.mem) {t scope} : Canon (s.fenceSc t scope).mem := by
  unfold State.fenceSc
  exact canon_foldl (fun s _ h => by simp [h]) _ h

@[simp] theorem State.fenceEffect_canon (h : Canon s.mem) {t x form scope mask} :
    Canon (s.fenceEffect t x form scope mask).mem := by
  unfold State.fenceEffect
  have h1 := canon_ite (c := mask.getLsbD 1 = true) (State.drainStores_canon h (t := t) (x := otherSide x)) h
  have h2 := canon_ite (c := form = 0) h1 (State.fenceRelease_canon h1 (t := t) (x := x) (scope := scope))
  have h3 := canon_ite (c := form = 1) h2 (State.fenceAcquire_canon h2 (t := t) (x := x) (scope := scope))
  exact canon_ite (State.fenceSc_canon h3) h3

@[simp] theorem State.physWrite_canon (h : Canon s.mem) {d pa bytes part dom ctx} :
    Canon (s.physWrite d pa bytes part dom ctx).mem := by
  unfold State.physWrite
  exact canon_foldl (fun s _ h => by simp [h]) _ h

theorem ldsyncBody_canon (h : Canon s.mem) {take e} : stopCarries Canon id (ldsyncBody take e s) := by
  unfold ldsyncBody
  refine (State.fePlace_carries h).bind fun p h1 => ?_
  obtain ⟨g, s1⟩ := p
  dsimp only
  split
  · exact State.present_carries h1
  · refine (State.touchStart_carries (State.drainStores_canon h1)).bind fun s2 h2 => ?_
    split
    · split
      · trivial
      · refine State.served_canon ?_
        rw [State.retire_mem]
        exact State.ldsyncRead_canon h2
    · exact h2

theorem State.placeRegion_canon (h : Canon s.mem) {f l n i c} : optCarries Canon id (s.placeRegion f l n i c) := by
  unfold State.placeRegion
  dsimp only
  split
  · trivial
  · refine optCarries_ite trivial (optCarries_ite trivial ?_)
    split
    · trivial
    · refine canon_foldl (fun s j h => State.served_canon ?_) _ (by rwa [State.setRegion_mem])
      rwa [State.setEmpty_mem]

theorem State.placeRegions_canon (h : Canon s.mem) {f l} : optCarries Canon id (s.placeRegions f l) := by
  unfold State.placeRegions
  refine optCarries_foldl (fun p a ha => optCarries_foldl (fun n a ha => ?_) _ ha) _ h
  exact ha.bind fun s h => State.placeRegion_canon h

@[simp] theorem State.recallRange_canon (h : Canon s.mem) {key n} : Canon (s.recallRange key n).mem := by
  unfold State.recallRange
  exact canon_foldl (fun s _ h => by simp [h]) _ h

@[simp] theorem State.placeSram_canon (h : Canon s.mem) {key bytes size empty} :
    Canon (s.placeSram key bytes size empty).mem := by
  unfold State.placeSram
  extract_lets s1 within s2 s3
  have h3 : Canon s3.mem := by
    rw [State.watchRange_mem]
    exact (State.recallRange_canon h).memPut canon_cellsOf
  refine canon_ite h3 (canon_ite (canon_foldl (fun s i h => State.served_canon ?_) _ h3) (State.served_canon h3))
  rwa [State.setEmpty_mem]

@[simp] theorem State.placeLocal_canon (h : Canon s.mem) {f sec c} : Canon (s.placeLocal f sec c).mem := by
  unfold State.placeLocal
  extract_lets b cores
  have hf (g : Nat → Nat → Nat) (e : Bool) : Canon (cores.foldl (fun s k => s.placeSram (g c k) b sec.size e) s).mem :=
    canon_foldl (fun s k h => State.placeSram_canon h) _ h
  refine canon_ite (hf (fun c k => sramKey c k (sec.addr - 0x100000)) _) (canon_ite (State.placeSram_canon h)
    (canon_ite (State.placeSram_canon h) (canon_ite ?_ h)))
  exact canon_foldl (fun s k h => canon_foldl (fun s k h => State.placeSram_canon h) _ h) _ h

@[simp] theorem State.setEntry_canon (h : Canon s.mem) {d pa w part} : Canon (s.setEntry d pa w part).mem := by
  unfold State.setEntry
  simp [h]

@[simp] theorem State.zeroRange_canon (h : Canon s.mem) {key n} : Canon (s.zeroRange key n).mem := by
  unfold State.zeroRange
  simp [h]

theorem State.takeHbm_canon (h : Canon s.mem) {c bytes align} : optCarries Canon (·.2) (s.takeHbm c bytes align) := by
  unfold State.takeHbm
  dsimp only
  split
  · trivial
  · exact State.zeroRange_canon (by rwa [State.updCluster_mem])

theorem State.nextTable_canon (h : Canon s.mem) {c pa part} : optCarries Canon (·.2) (s.nextTable c pa part) := by
  unfold State.nextTable
  dsimp only
  split
  · exact h
  · split
    · trivial
    · split
      · trivial
      · rename_i hx
        exact State.setEntry_canon ((State.takeHbm_canon h).some hx)

theorem State.mapPage_canon (h : Canon s.mem) {c root va leaf part} : optCarries Canon id (s.mapPage c root va leaf part) := by
  unfold State.mapPage
  split
  · trivial
  · rename_i hx
    have h1 := (State.nextTable_canon h).some hx
    split
    · trivial
    · rename_i hy
      have h2 := (State.nextTable_canon h1).some hy
      dsimp only
      split
      · trivial
      · exact State.setEntry_canon h2

theorem State.mapPages_canon (h : Canon s.mem) {c root va leaf part a5} :
    optCarries Canon id (s.mapPages c root va leaf part a5) := by
  induction a5 generalizing s with
  | zero => exact h
  | succ n ih =>
    unfold State.mapPages
    split
    · trivial
    · rename_i hx
      exact State.mapPage_canon ((ih h).some hx)

@[simp] theorem State.putPaged_canon (h : Canon s.mem) {d pa bytes kind part dom ctx} :
    Canon (s.putPaged d pa bytes kind part dom ctx).mem := by
  unfold State.putPaged
  exact canon_ite h (canon_ite (State.memUpdate_canon h fun _ h => h.memWrite) (State.physWrite_canon h))

/-- A placement of a section's pages that keeps memory canonical. It is a structure, so that the kernel compares the function with
its body before it is applied: applied, the body's match would have it evaluate `takeHbm`. -/
structure PlacesCanon (place : State → Image → LoadCtx → Section → Nat → Option (Nat × State)) : Prop where
  keeps : ∀ s f l sec c, Canon s.mem → optCarries Canon (·.2) (place s f l sec c)

theorem placesCanon_placePaged : PlacesCanon State.placePaged := by
  delta State.placePaged
  constructor
  intro s f l sec c h
  have h0 := State.takeHbm_canon h (c := c) (bytes := sec.backing) (align := sec.frameStep)
  generalize s.takeHbm c sec.backing sec.frameStep = o at h0 ⊢
  cases o with
  | none => trivial
  | some p => exact State.putPaged_canon h0

theorem State.placePaged_canon (h : Canon s.mem) {f l sec c} : optCarries Canon (·.2) (s.placePaged f l sec c) :=
  placesCanon_placePaged.keeps s f l sec c h

theorem State.rootOf_canon (h : Canon s.mem) {c own} : optCarries Canon (·.2) (s.rootOf c own) := by
  unfold State.rootOf
  extract_lets r
  refine optCarries_ite h ((State.takeHbm_canon h).map fun p hp => ?_)
  rwa [State.updCluster_mem]

theorem State.placeSection_canon (h : Canon s.mem) {f l sec} : optCarries Canon id (s.placeSection f l sec) := by
  unfold State.placeSection
  extract_lets pages leaf
  split
  · split
    · trivial
    · rename_i hx
      exact (State.rootOf_canon ((State.placePaged_canon h).some hx)).bind fun r hr => State.mapPages_canon hr
  · split
    · refine optCarries_foldl (fun p a ha => ha.bind fun s h => ?_) _ h
      split
      · trivial
      · rename_i hx
        refine (State.rootOf_canon ((State.placePaged_canon h).some hx)).bind fun r hr => ?_
        refine (State.mapPages_canon hr).bind fun s h => ?_
        exact (State.rootOf_canon h).bind fun q hq => State.mapPages_canon hq
    · exact h

@[simp] theorem State.scrubFor_canon (h : Canon s.mem) {c ctx} : Canon (s.scrubFor c ctx).mem := by
  unfold State.scrubFor
  split <;> simp [h]

theorem State.placeSections_canon (h : Canon s.mem) {f l} : optCarries Canon id (s.placeSections f l) := by
  unfold State.placeSections
  refine (optCarries_foldl (fun p a ha => ha.bind fun s h => State.placeSection_canon h) _ (a := some s) h).map fun s h => ?_
  exact canon_ite h (canon_foldl (fun s c h => canon_foldl (fun s sec h => State.placeLocal_canon h) _ (State.scrubFor_canon h)) _ h)

@[simp] theorem State.startLoad_canon (h : Canon s.mem) {d p f set result} : Canon (s.startLoad d p f set result).mem := by
  unfold State.startLoad
  extract_lets part clusters c0 sup ctx l out n s1
  have h1 : Canon s1.mem := State.physWrite_canon h
  have he (u : State) (hu : Canon u.mem) (d a b : Nat) : Canon (u.endLoad d a b).mem := by rwa [State.endLoad_mem]
  refine canon_ite (he _ h1 ..) (canon_ite (he _ h1 ..) (canon_ite (he _ h1 ..) (canon_ite (he _ h1 ..) (canon_ite (he _ h1 ..) ?_))))
  split
  · exact he _ h1 ..
  · rename_i hx
    have h2 := (State.placeSections_canon h1).some hx
    split
    · exact he _ h2 ..
    · rename_i hy
      have h3 := (State.placeRegions_canon h2).some hy
      dsimp only
      rw [State.updDevice_mem]
      exact canon_foldl (fun s c h => by rwa [State.updCluster_mem]) _ h3

@[simp] theorem State.cstStep_canon (h : Canon s.mem) {k q d a st sw} : Canon (s.cstStep k q d a st sw).mem := by
  unfold State.cstStep
  dsimp only
  rw [State.doneOp_mem]
  exact canon_foldl (fun s p h => State.writeSram_canon h) _ h

@[simp] theorem State.answerSend_canon (h : Canon s.mem) {t x m} : Canon (s.answerSend t x m).mem := by
  unfold State.answerSend
  refine canon_ite (by rwa [State.replyTo_mem]) ?_
  split
  · rename_i hx
    rw [State.replyTo_mem]
    exact Admission.carries_admitted (State.admitMsg_canon h) hx
  · rwa [State.refuse_mem]
  · rwa [State.replyTo_mem]

theorem multiplyBody_canon (h : Canon s.mem) {m op} {join : Nat → State → State}
    (hj : ∀ n (u : State), Canon u.mem → Canon (join n u).mem) : stopCarries Canon id (multiplyBody s m op join) := by
  unfold multiplyBody
  refine (operandRange_carries h).bind fun _ h => (operandRange_carries h).bind fun _ h => ?_
  split
  · trivial
  · exact hj _ _ (State.enqueueMat_canon h)

theorem msBody_canon (h : Canon s.mem) {op e} : stopCarries Canon id (msBody op e s) := by
  unfold msBody
  refine (State.recordLoad_canon h).bind fun p h1 => ?_
  obtain ⟨l, s1⟩ := p
  dsimp only
  refine stopCarries_ite trivial ?_
  · exact (msRanges_carries h1).bind fun _ h => acceptBody_canon h fun _ h => h

theorem State.offerAnswer_canon (h : Canon s.mem) {a} : optCarries Canon id (s.offerAnswer a) := by
  unfold State.offerAnswer
  dsimp only
  split
  · split
    · exact h
    · split
      · exact h
      · trivial
  · split
    · exact h
    · split
      · exact State.appendLog_canon (s := s.freeValue.2) h
      · trivial
  · exact h
  · exact h

theorem State.takeAnswer_canon (h : Canon s.mem) {a} : optCarries Canon id (s.takeAnswer a) := by
  unfold State.takeAnswer
  split
  · exact State.countAnswer_carries h
  · exact State.offerAnswer_canon h

theorem State.serveAsk_canon (h : Canon s.mem) {p o} : optCarries Canon (·.2) (s.serveAsk p o) := by
  unfold State.serveAsk
  split
  · exact h
  · exact h
  · exact optCarries_map_any fun a => State.actionArrives_canon h
  · refine optCarries_map_any fun a => ?_
    split
    · rename_i hx
      exact (State.takeAnswer_canon h).some hx
    · exact h

@[simp] theorem State.arriveAsk_canon (h : Canon s.mem) {p o} : Canon (s.arriveAsk p o).mem := by
  unfold State.arriveAsk
  extract_lets tell
  have ht (a : Told) (u : State) (hu : Canon u.mem) : Canon (tell a u).mem := hu
  refine canon_ite (ht _ _ h) (canon_ite (ht _ _ h) ?_)
  split
  · rename_i hx
    exact ht _ _ ((State.serveAsk_canon h).some hx)
  · exact h

@[simp] theorem State.arriveRequest_canon (h : Canon s.mem) {p t x} : Canon (s.arriveRequest p t x).mem := by
  unfold State.arriveRequest
  split
  · refine canon_ite h (canon_ite (by rwa [State.reply_mem]) (canon_ite (by rwa [State.reply_mem]) ?_))
    split
    · exact State.acceptAtomic_canon h
    · rwa [State.reply_mem]
    · rw [State.joinCinc_mem, State.setPhase_mem]
      exact h
  · exact h

@[simp] theorem State.consume_canon (h : Canon s.mem) {p} : Canon (s.consume p).mem := by
  unfold State.consume
  split <;> simp [h]

@[simp] theorem State.scrubPartition_canon (h : Canon s.mem) {p} : Canon (s.scrubPartition p).mem := by
  unfold State.scrubPartition
  exact canon_foldl (fun s _ h => by simp [h]) _ h

@[simp] theorem State.zeroPartition_canon (h : Canon s.mem) {p} : Canon (s.zeroPartition p).mem := by
  unfold State.zeroPartition
  exact canon_foldl (fun s _ h => by simp [h]) _ h

@[simp] theorem State.partdestroy_canon (h : Canon s.mem) {d} : Canon (s.partdestroy d).mem := by
  unfold State.partdestroy
  have ha (u : State) (hu : Canon u.mem) (a : Nat) (l : List Word) : Canon (u.answer d a l).mem := by rwa [State.answer_mem]
  split
  · exact ha _ h ..
  · refine canon_ite (ha _ h ..) (canon_ite (ha _ h ..) (ha _ ?_ ..))
    exact canon_foldl (fun s c h => by rwa [State.updCluster_mem]) _ (State.scrubPartition_canon (State.zeroPartition_canon (by rwa [State.invalidPartition_mem])))

theorem State.faultJobs_canon (h : Canon s.mem) {c n before} : Canon (s.faultJobs c n before).mem := by
  unfold State.faultJobs
  exact canon_foldl (fun s p h => State.endJob_canon h) _ h

@[simp] theorem State.faultRegion_canon (h : Canon s.mem) {c n r f} : Canon (s.faultRegion c n r f).mem := by
  unfold State.faultRegion
  dsimp only
  rw [State.endRegion_mem, State.faultFetches_mem]
  refine State.faultJobs_canon ?_
  rw [State.faultTickets_mem, State.faultStrands_mem, State.setRegion_mem]
  exact h

theorem State.regionStep_canon (h : Canon s.mem) {c n r} : (s.regionStep c n r).carries Canon := by
  unfold State.regionStep
  dsimp only
  split
  · exact h
  · rename_i l s1 hx
    have h1 := (State.rowPlaces_carries h).ok hx
    have h2 := State.regionPages_carries h1 (c := c) (n := n) (r := r) (j := s.regionJob c r) (limit := (s.regionJob c r).limit) (l := l)
    split
    · rename_i s2 r' he
      rw [he] at h2
      have hw (u : State) (p : (Word × Target) × Nat) (hu : Canon u.mem) :=
        State.writeSram_canon (State.engineRead_canon (State.readReleased_canon hu (key := p.1.2.key)) (t := r'.t) (g := p.1.2) (n := 8))
          (key := r'.win + r'.rows * r'.rowb + 8 * p.2) (bytes := leBytes 8 ((u.readReleased p.1.2.key).engineRead r'.t p.1.2 8).1) (rel := [])
      have h3 : Canon ((sourceLines (l.map (·.2))).foldl (fun s g => s.countSource r'.t g) s2).mem :=
        canon_foldl (fun s g h => by rwa [State.countSource_mem]) _ h2
      refine canon_ite ?_ ?_
      · rw [State.endRegion_mem]
        split
        · exact canon_foldl (fun s k h => by rwa [State.sendArrival_mem]) _
            (canon_foldl (fun u p hu => by split <;> exact hw u p hu) _ h3)
        · exact canon_foldl (fun u p hu => by split <;> exact hw u p hu) _ h3
      · rw [State.setRegion_mem]
        split
        · exact canon_foldl (fun s k h => by rwa [State.sendArrival_mem]) _
            (canon_foldl (fun u p hu => by split <;> exact hw u p hu) _ h3)
        · exact canon_foldl (fun u p hu => by split <;> exact hw u p hu) _ h3
    · rename_i he
      rwa [he] at h2

@[simp] theorem State.tearCluster_canon (h : Canon s.mem) {c} : Canon (s.tearCluster c).mem := by
  unfold State.tearCluster
  have h1 := canon_ite (c := (s.cluster c).run = .running) (State.haltCluster_canon h (c := c)) h
  refine canon_ite ?_ ?_
  · rwa [State.updCluster_mem]
  · exact State.dropLive_canon (by rwa [State.updCluster_mem])

@[simp] theorem State.tearPartition_canon (h : Canon s.mem) {p} : Canon (s.tearPartition p).mem := by
  unfold State.tearPartition
  exact canon_foldl (fun s v h => by rwa [State.dropContext_mem]) _ (canon_foldl (fun s c h => State.tearCluster_canon h) _ h)

@[simp] theorem State.rekey_canon (h : Canon s.mem) {d} : Canon (s.rekey d).mem := by
  unfold State.rekey
  have ha (u : State) (hu : Canon u.mem) (a : Nat) (l : List Word) : Canon (u.answer d a l).mem := by rwa [State.answer_mem]
  split
  · exact ha _ h ..
  · refine canon_ite (ha _ h ..) (ha _ ?_ ..)
    refine State.scrubPartition_canon (State.zeroPartition_canon ?_)
    rw [State.invalidPartition_mem]
    exact State.tearPartition_canon h

@[simp] theorem State.fenceOp_canon (h : Canon s.mem) {t x o} : Canon (s.fenceOp t x o).mem := by
  unfold State.fenceOp
  split <;> simp [h]

@[simp] theorem State.resetCluster_canon (h : Canon s.mem) {c} : Canon (s.resetCluster c).mem := by
  unfold State.resetCluster
  dsimp only
  rw [State.setCluster_mem, State.dropPackets_mem]
  refine canon_foldl (fun s a h => by rwa [State.replyCinc_mem]) _ ?_
  exact State.scrub_canon (canon_foldl (fun s l h => State.writeBackL1_canon h) _ h)

@[simp] theorem State.clearSlots_canon (h : Canon s.mem) {key} : Canon (s.clearSlots key).mem := by
  unfold State.clearSlots
  simp [h]

@[simp] theorem State.storeRelease_canon (h : Canon s.mem) {rel} : Canon (s.storeRelease rel).2.mem := by
  unfold State.storeRelease
  dsimp only
  split
  · exact State.release_canon h (scope := 6)
  · exact h

theorem sendBody_canon (h : Canon s.mem) {e entry} : stopCarries Canon id (sendBody e s entry) := by
  unfold sendBody
  dsimp only
  split
  · trivial
  · refine State.present_carries ?_
    exact State.writeBackMarked_canon (State.release_canon h)

@[simp] theorem State.placedSaved_canon (h : Canon s.mem) {q x id t} : Canon (s.placedSaved q x id t).mem := by
  unfold State.placedSaved
  split
  · exact h
  · split
    · exact h
    · extract_lets st
      split
      · dsimp only
        exact State.memUpdate_canon h fun m hm => Canon.ite (Canon.ite hm hm.memWrite) (Canon.memWrite (Canon.ite hm hm.memWrite))
      · exact h

@[simp] theorem State.placed_canon (h : Canon s.mem) {q t} : Canon (s.placed q t).mem := by
  unfold State.placed
  extract_lets s1
  have h1 : Canon s1.mem := by
    show Canon (State.mem (match q.strand with | some (_, _) => _ | none => _))
    split
    · refine canon_ite ?_ (State.placedSaved_canon h)
      split
      · refine canon_ite ?_ ?_
        · rwa [State.result_mem]
        · rwa [State.complete_mem, State.result_mem]
      · exact h
    · exact h
  split
  · rw [State.updDevice_mem]
    exact State.physWrite_canon h1
  · exact h1

@[simp] theorem State.storeFrom_canon (h : Canon s.mem) {t x n rel val prev a6} :
    Canon (s.storeFrom t x n rel val prev a6).mem := by
  induction a6 generalizing s prev with
  | nil => exact h
  | cons e r ih =>
    unfold State.storeFrom
    refine ih (canon_ite (a := { State.storeBytes .. with stores := _ }) ?_ ?_)
    · exact State.storeBytes_canon h
    · exact State.storeBytes_canon h

@[simp] theorem State.storeElems_canon (h : Canon s.mem) {t x n rel val l} : Canon (s.storeElems t x n rel val l).mem := by
  unfold State.storeElems
  simp [h]

@[simp] theorem State.retireChannel_canon (h : Canon s.mem) {c ch} : Canon (s.retireChannel c ch).mem := by
  unfold State.retireChannel
  simp [h]

@[simp] theorem State.flushLine_canon (h : Canon s.mem) {t x l} : Canon (s.flushLine t x l).mem := by
  unfold State.flushLine
  dsimp only
  refine canon_foldl (fun s k h => by rwa [State.dropOwn_mem]) _ ?_
  split
  · exact h
  · exact canon_ite (State.drainStores_canon h) (State.writeBackLine_canon h)

@[simp] theorem State.readLines_canon (h : Canon s.mem) {t x a2} : Canon (s.readLines t x a2).2.mem := by
  induction a2 generalizing s with
  | nil => exact h
  | cons l r ih =>
    unfold State.readLines
    exact ih (State.readLine_carries (State.flushLine_canon h))

theorem State.redeemOk_canon (h : Canon s.mem) {t x w} {f : Ticket → State → State} (hf : ∀ e (u : State), Canon u.mem → Canon (f e u).mem) :
    Canon (s.redeemOk t x w f).mem := by
  unfold State.redeemOk
  dsimp only
  split
  · rwa [State.replyTo_mem, State.freeTicket_mem]
  · exact hf _ _ (by rwa [State.freeTicket_mem])

@[simp] theorem State.presentTicket_canon (h : Canon s.mem) {t x w how} : Canon (s.presentTicket t x w how).mem := by
  unfold State.presentTicket
  have hr (r : Reply) : Canon (s.replyTo t x r).mem := by rwa [State.replyTo_mem]
  generalize s.ticketAnswer _ _ w = ans
  dsimp only
  split
  · exact hr _
  · exact hr _
  · rwa [State.awaitTicket_mem]
  · rwa [State.awaitTicket_mem]
  · exact State.redeemOk_canon h fun e u hu => by rwa [State.replyTo_mem]
  · refine State.redeemOk_canon h fun e u hu => canon_ite (by rwa [State.replyTo_mem]) (State.storeRedeemed_canon hu)
  · exact hr _
  · exact hr _
  · exact hr _

@[simp] theorem State.serveRedeems_canon (h : Canon s.mem) {k l} : Canon (s.serveRedeems k l).mem := by
  unfold State.serveRedeems
  refine canon_foldl (fun s p h => ?_) _ h
  split
  · exact canon_ite (State.presentTicket_canon h) h
  · exact h

@[simp] theorem State.lineDone_canon (h : Canon s.mem) {k l} : Canon (s.lineDone k l).mem := by
  unfold State.lineDone
  dsimp only
  refine canon_ite (State.serveRedeems_canon ?_) ?_
  · rwa [State.setTicket_mem]
  · rwa [State.setTicket_mem]

@[simp] theorem State.dropTicket_canon (h : Canon s.mem) {d part w} : Canon (s.dropTicket d part w).mem := by
  unfold State.dropTicket
  split <;> simp [h]

@[simp] theorem State.performScope_canon (h : Canon s.mem) {t gs} : Canon (s.performScope t gs).mem := by
  unfold State.performScope
  exact canon_foldl (fun s l h => State.writeBackL1_canon h) _
    (canon_foldl (fun s p h => State.runAtomics_canon (State.runAtomics_canon h)) _ h)

theorem tlbinvBody_canon (h : Canon s.mem) {own e} : stopCarries Canon id (tlbinvBody own e s) := by
  unfold tlbinvBody
  extract_lets a len t tag hit b
  split
  · trivial
  · show Canon (State.next _).mem
    rw [State.next_mem]
    exact canon_ite (a := s) h (State.performScope_canon h)

@[simp] theorem State.takeOut_canon (h : Canon s.mem) {c} : Canon (s.takeOut c).mem := by
  unfold State.takeOut
  split <;> simp [h]

theorem vectorLoad_canon (h : Canon s.mem) {e range l} (hr : stopCarries Canon (fun _ => s) range) :
    stopCarries Canon id (vectorLoad e s range l) := by
  unfold vectorLoad
  refine (State.needRoom_carries h).bind fun _ h => hr.bind fun _ h => (State.checkElems_carries h).bind fun p h1 => ?_
  obtain ⟨els, s1⟩ := p
  refine (State.touchAll_carries h1).bind fun s2 h2 => (State.admitAll_carries h2).bind fun s3 h3 => ?_
  show Canon (State.retireLoad _ _ _ _).mem
  rw [State.retireLoad_mem]
  exact State.readElems_canon h3

theorem vectorStore_canon (h : Canon s.mem) {e range l} (hr : stopCarries Canon (fun _ => s) range) :
    stopCarries Canon id (vectorStore e s range l) := by
  unfold vectorStore
  refine (State.needEntry_carries h).bind fun _ h => hr.bind fun _ h => (State.checkElems_carries h).bind fun p h1 => ?_
  obtain ⟨els, s1⟩ := p
  refine (State.readVec_carries h1).bind fun q h2 => ?_
  obtain ⟨v, ws, s2⟩ := q
  show Canon (State.retire _ _ _ _).mem
  rw [State.retire_mem]
  exact State.storeElems_canon (State.storeRelease_canon h2)

@[simp] theorem State.offer_canon (h : Canon s.mem) {n again} : Canon (s.offer n again).mem := by
  unfold State.offer
  split
  · exact h
  · refine canon_ite ?_ h
    rename_i a _
    have h1 : Canon (a.rel.foldl (fun s r => s.writeBackMarked (clusterOf r.tid) r.pos) s).mem :=
      canon_foldl (fun s r h => State.writeBackMarked_canon h) _ h
    extract_lets s1
    have h2 := State.ask_carries (s := s1) h1 (src := a.die) (dst := dieOf a.t) (cls := 2) (part := s1.partOf a.t) (o := .answer n) (n := a.net)
    split
    · refine canon_ite (by rwa [State.dropAnswer_mem]) ?_
      split
      · rename_i hx
        rw [State.dropAnswer_mem]
        exact (State.takeAnswer_canon h1).some hx
      · rwa [State.refuseAnswer_mem]
    · rename_i he
      rw [he] at h2
      rwa [State.setAnswerNet_mem]
    · rwa [State.refuseAnswer_mem]
    · rename_i he
      rw [he] at h2
      rwa [State.refuseAnswer_mem]

@[simp] theorem State.stageFails_canon (h : Canon s.mem) {d} : Canon (s.stageFails d).mem := by
  unfold State.stageFails
  dsimp only
  (repeat' split) <;> simp [h]

end Sys2Proof.Machine

end

section
/-! PROOFS. Every instruction and every move keeps memory canonical, with O58. -/

namespace Sys2Proof.Machine

/-- An outcome whose next state, where it has one, has canonical memory. -/
def KeepsCanon : Host.Outcome State Fault Refusal → Prop
  | .next t => Canon t.mem
  | .fault _ | .refused _ => True

@[simp] theorem keepsCanon_next {t : State} : KeepsCanon (.next t) ↔ Canon t.mem := Iff.rfl

@[simp] theorem stopCarries_ok {α : Type} {P : List Host.Cell → Prop} {π : α → State} {a : α} :
    stopCarries P π (.ok a) ↔ P (π a).mem := Iff.rfl

@[simp] theorem stopCarries_wait {α : Type} {P : List Host.Cell → Prop} {π : α → State} {c : Cond} :
    stopCarries P π (.error (.wait c)) ↔ True := Iff.rfl

@[simp] theorem stopCarries_cause {α : Type} {P : List Host.Cell → Prop} {π : α → State} {c : Cause} :
    stopCarries P π (.error (.cause c)) ↔ True := Iff.rfl

@[simp] theorem stopCarries_at {α : Type} {P : List Host.Cell → Prop} {π : α → State} {c : Cause} {a : Word} :
    stopCarries P π (.error (.at c a)) ↔ True := Iff.rfl

section

variable {s : State}

/-- An instruction keeps memory canonical where its meaning does. -/
theorem issue_keeps (h : Canon s.mem) {d : Desc} {e : Enc} {body : State → Except Stop State}
    (hb : ∀ u : State, Canon u.mem → stopCarries Canon id (body u)) : KeepsCanon (issue d e s body) := by
  unfold issue
  split
  · trivial
  · refine State.settle_canon h ?_
    unfold runChecked
    split
    · trivial
    · have hw := State.waitMask_carries h (wm := e.wm)
      split
      · rename_i hx
        exact hw.error hx
      · rename_i s' hx
        have h1 : Canon s'.mem := hw.ok hx
        refine stopCarries_ite ?_ (hb _ h1)
        show Canon (State.next _).mem
        rwa [State.next_mem]

theorem retire_keeps (h : Canon s.mem) {la long ws} : stopCarries Canon id (.ok (s.retire la long ws)) := by
  rwa [stopCarries_ok, id_eq, State.retire_mem]

theorem moveOp_carries {P : List Host.Cell → Prop} (h : P s.mem) {e : Enc} {long : Bool} {ws : List RegWrite} {f : Nat → Nat} :
    P (moveOp e long ws f s).mem := by
  rwa [moveOp_mem]

end

end Sys2Proof.Machine

namespace Sys2Proof.Machine

variable {s : State}

theorem execAcquireAtReleaser_keeps (h : Canon s.mem) : KeepsCanon (execAcquireAtReleaser s) := by
  unfold execAcquireAtReleaser
  dsimp only
  rw [keepsCanon_next]
  split
  · exact h
  · exact canon_foldl (fun s p h => State.acquireFrom_canon h) _ h

theorem execAdvseq_keeps (h : Canon s.mem) {e : Enc} : KeepsCanon (execAdvseq e s) := by
  unfold execAdvseq
  refine issue_keeps h fun s h => (State.resolve_carries h).bind fun p h => ?_
  refine stopCarries_ite trivial (stopCarries_ite trivial ((State.touchRange_carries h).bind fun s h => ?_))
  exact State.retire_carries (State.advance_canon h)

theorem execArm_keeps (h : Canon s.mem) {e : Enc} : KeepsCanon (execArm e s) := by
  unfold execArm
  refine issue_keeps h fun s h => (State.recordLoad_canon h).bind fun p h => ?_
  dsimp only
  split
  · exact State.retire_carries h
  · split
    · exact State.retire_carries h
    · rw [stopCarries_ok, id_eq, State.fireArms_mem]
      rw [State.retire_mem, State.setArm_mem]
      exact h

theorem execArmActionRun_keeps (h : Canon s.mem) : KeepsCanon (execArmActionRun s) := by
  unfold execArmActionRun
  dsimp only
  rw [keepsCanon_next]
  split
  · exact h
  · rename_i a _
    have h1 := State.runAction_canon h (c := s.actor) (a := a)
    split <;> rename_i he <;> rw [he] at h1
    · rwa [State.endEntry_mem, State.dropAction_mem]
    · rwa [State.endEntry_mem, State.dropAction_mem]
    · exact h1
    · rwa [State.setAction_mem]
    · refine canon_ite ?_ ?_
      · rwa [State.endEntry_mem, State.dropAction_mem]
      · rwa [State.setAction_mem]

theorem execAtomicExecute_keeps (h : Canon s.mem) {t : Nat} {x : Side} {id : Nat} : KeepsCanon (execAtomicExecute t x id s) := by
  unfold execAtomicExecute
  rw [keepsCanon_next]
  split
  · exact h
  · split
    · exact canon_ite (State.atomicEnd_canon h) h
    · exact h

theorem execBringupStageTimeout_keeps (h : Canon s.mem) : KeepsCanon (execBringupStageTimeout s) := by
  unfold execBringupStageTimeout
  dsimp only
  rw [keepsCanon_next]
  split <;> simp [h]

theorem execChallenge_keeps (h : Canon s.mem) {d slot : Nat} {nonce : BitVec 256} :
    KeepsCanon (execChallenge d slot nonce s) := by
  unfold execChallenge
  simp [h]

theorem execChretire_keeps (h : Canon s.mem) : KeepsCanon (execChretire s) := by
  unfold execChretire State.command
  dsimp only
  rw [keepsCanon_next]
  split <;> simp [h]

theorem execCinc_keeps (h : Canon s.mem) {e : Enc} : KeepsCanon (execCinc e s) := by
  unfold execCinc
  refine issue_keeps h fun s h => (State.readScalar_carries h).bind fun p h => ?_
  dsimp only
  split
  · trivial
  · split
    · trivial
    · refine stopCarries_ite ?_ ?_
      · rw [stopCarries_ok, id_eq, State.next_mem, State.sendArrival_mem]
        exact State.release_canon h
      · show Canon (State.mem (State.joinCinc _ _ _))
        rw [State.joinCinc_mem, State.updMy_mem]
        exact State.release_canon h

theorem execCircuitDrainDone_keeps (h : Canon s.mem) {die n : Nat} : KeepsCanon (execCircuitDrainDone die n s) := by
  unfold execCircuitDrainDone
  simp [h]

theorem execCircuitTuningDone_keeps (h : Canon s.mem) {die n : Nat} {ok : Bool} :
    KeepsCanon (execCircuitTuningDone die n ok s) := by
  unfold execCircuitTuningDone
  simp [h]

theorem execClusterFence_keeps (h : Canon s.mem) : KeepsCanon (execClusterFence s) := by
  unfold execClusterFence
  simp [h]

theorem execClusterScrub_keeps (h : Canon s.mem) : KeepsCanon (execClusterScrub s) := by
  unfold execClusterScrub
  dsimp only
  rw [keepsCanon_next]
  split <;> simp [h]

theorem execCopyBlockComplete_keeps (h : Canon s.mem) : KeepsCanon (execCopyBlockComplete s) := by
  unfold execCopyBlockComplete
  simp [h]

theorem execCopyJobFault_keeps (h : Canon s.mem) : KeepsCanon (execCopyJobFault s) := by
  unfold execCopyJobFault
  simp [h]

theorem execCorrectedError_keeps (h : Canon s.mem) {d blk : Nat} : KeepsCanon (execCorrectedError d blk s) := by
  unfold execCorrectedError
  simp [h]

theorem execCounterArrival_keeps (h : Canon s.mem) : KeepsCanon (execCounterArrival s) := by
  unfold execCounterArrival
  dsimp only
  rw [keepsCanon_next]
  split
  · exact h
  · split
    · rename_i hx
      rw [State.replyCinc_mem]
      exact (State.makeArrival_canon h).some hx
    · exact canon_ite (by rwa [State.replyCinc_mem, State.dropArrival_mem]) h

theorem execCpyL2_keeps (h : Canon s.mem) {e : Enc} : KeepsCanon (execCpyL2 e s) :=
  issue_keeps h fun _ h =>
    stopCarries_ite trivial ((l2Range_carries h).bind fun _ h => acceptBody_canon h fun _ h => h)

theorem execCpys_keeps (h : Canon s.mem) {e : Enc} : KeepsCanon (execCpys e s) := by
  unfold execCpys
  refine issue_keeps h fun s h => stopCarries_ite trivial ((copyRange_carries h).bind fun w h => stopCarries_ite trivial
    ((copyRange_carries h).bind fun _ h => stopCarries_ite trivial (acceptBody_canon h fun u hu => ?_)))
  exact canon_ite (canon_foldl (fun s r h => State.emptyWords_canon h) _ hu) hu

theorem execCtxload_keeps (h : Canon s.mem) {e : Enc} : KeepsCanon (execCtxload e s) := by
  unfold execCtxload
  refine issue_keeps h fun s h => stopCarries_ite trivial (stopCarries_ite (State.retire_carries h)
    (stopCarries_ite (State.retire_carries h) ?_))
  have h1 (key n : Nat) := State.memUpdate_canon h (key := key) (n := n) (f := id) fun _ h => h
  refine stopCarries_ite (State.retire_carries (h1 ..)) ?_
  split
  · exact State.retire_carries (h1 ..)
  · exact State.retire_carries (State.loadArea_canon (h1 ..))

theorem execCtxloadDrop_keeps (h : Canon s.mem) {e : Enc} : KeepsCanon (execCtxloadDrop e s) := by
  unfold execCtxloadDrop
  refine issue_keeps h fun s h => stopCarries_ite trivial (stopCarries_ite (State.retire_carries h) ?_)
  have h1 (key n : Nat) := State.memUpdate_canon h (key := key) (n := n) (f := id) fun _ h => h
  refine stopCarries_ite (State.retire_carries (h1 ..)) ?_
  split
  · exact State.retire_carries (h1 ..)
  · refine State.retire_carries (State.memUpdate_canon ?_ fun _ h => h.memWrite)
    rw [State.trimBarriers_mem]
    show Canon (State.dropContext _ _ _).mem
    rw [State.dropContext_mem]
    exact h1 ..

theorem execCtxsave_keeps (h : Canon s.mem) {e : Enc} : KeepsCanon (execCtxsave e s) := by
  unfold execCtxsave
  refine issue_keeps h fun s h => stopCarries_ite trivial (stopCarries_ite (retire_keeps h)
    (stopCarries_ite (retire_keeps h) (stopCarries_ite (retire_keeps h) (stopCarries_ite (retire_keeps h)
    (stopCarries_ite trivial (retire_keeps ?_))))))
  rw [State.acquireEngine_mem]
  exact State.saveArea_canon h

theorem execCtxsaveDrop_keeps (h : Canon s.mem) {e : Enc} : KeepsCanon (execCtxsaveDrop e s) :=
  issue_keeps h fun s h => stopCarries_ite trivial (stopCarries_ite (State.retire_carries h)
    (stopCarries_ite (State.retire_carries h) (State.retire_carries (State.dropLive_canon h))))

theorem execCxcDrain_keeps (h : Canon s.mem) {die n : Nat} : KeepsCanon (execCxcDrain die n s) := by
  unfold execCxcDrain
  simp [h]

theorem execCxcRelease_keeps (h : Canon s.mem) {die n : Nat} : KeepsCanon (execCxcRelease die n s) := by
  unfold execCxcRelease
  simp [h]

theorem execDeviceReset_keeps (h : Canon s.mem) : KeepsCanon (execDeviceReset s) := by
  unfold execDeviceReset
  simp [h]

theorem execDisarm_keeps (h : Canon s.mem) {e : Enc} : KeepsCanon (execDisarm e s) := by
  unfold execDisarm
  refine issue_keeps h fun s h => stopCarries_ite (retire_keeps h) ?_
  dsimp only
  split
  · exact retire_keeps h
  · exact retire_keeps h
  · exact retire_keeps (s := s.setArm ..) h
  · exact retire_keeps (s := s.setArm ..) h

theorem execDrain_keeps (h : Canon s.mem) : KeepsCanon (execDrain s) := by
  unfold execDrain State.command
  dsimp only
  rw [keepsCanon_next]
  split <;> simp [h]

theorem execDropNotice_keeps (h : Canon s.mem) : KeepsCanon (execDropNotice s) := by
  unfold execDropNotice
  dsimp only
  rw [keepsCanon_next]
  split <;> simp [h]

theorem execEndSession_keeps (h : Canon s.mem) : KeepsCanon (execEndSession s) := by
  unfold execEndSession
  simp [h]

theorem execEstablish_keeps (h : Canon s.mem) {die n : Nat} : KeepsCanon (execEstablish die n s) := by
  unfold execEstablish
  simp [h]

theorem execFeWordEvent_keeps (h : Canon s.mem) : KeepsCanon (execFeWordEvent s) := by
  unfold execFeWordEvent
  dsimp only
  rw [keepsCanon_next]
  split <;> simp [h]

theorem execFence_keeps (h : Canon s.mem) {e : Enc} : KeepsCanon (execFence e s) := by
  unfold execFence
  refine issue_keeps h fun s h => ?_
  dsimp only
  split <;> simp [h]

theorem execFenceComplete_keeps (h : Canon s.mem) : KeepsCanon (execFenceComplete s) := by
  unfold execFenceComplete
  dsimp only
  rw [keepsCanon_next]
  (repeat' split) <;> simp [h]

theorem execFeset_keeps (h : Canon s.mem) {e : Enc} : KeepsCanon (execFeset e s) := by
  unfold execFeset
  refine issue_keeps h fun s h => stopCarries_ite trivial ((State.feRange_carries h).bind fun p h => ?_)
  have h1 := State.drainStores_canon h (t := p.2.curT) (x := p.2.curX)
  refine stopCarries_ite (State.rangeStep_carries h1) (State.rangeStep_carries (State.served_canon (canon_ite ?_ ?_)))
  · rwa [State.setFull_mem]
  · rwa [State.setEmpty_mem]

theorem execFestat_keeps (h : Canon s.mem) {e : Enc} : KeepsCanon (execFestat e s) := by
  unfold execFestat
  refine issue_keeps h fun s h => (State.resolve_carries h).bind fun p h => stopCarries_ite trivial
    ((State.admitReq_carries h).bind fun s h => State.retire_carries (State.drainStores_canon h))

theorem execFinish_keeps (h : Canon s.mem) {d link : Nat} {mac : BitVec 256} : KeepsCanon (execFinish d link mac s) := by
  unfold execFinish
  dsimp only
  rw [keepsCanon_next]
  (repeat' split) <;> simp [h]

theorem execFirmwareActivate_keeps (h : Canon s.mem) {d blk : Nat} : KeepsCanon (execFirmwareActivate d blk s) := by
  unfold execFirmwareActivate
  dsimp only
  rw [keepsCanon_next]
  split <;> simp [h]

theorem execFwupdate_keeps (h : Canon s.mem) : KeepsCanon (execFwupdate s) := by
  unfold execFwupdate State.command
  dsimp only
  rw [keepsCanon_next]
  split <;> simp [h]

theorem execGetCapabilities_keeps (h : Canon s.mem) : KeepsCanon (execGetCapabilities s) := by
  unfold execGetCapabilities
  simp [h]

theorem execGetCertificate_keeps (h : Canon s.mem) {d slot ofs len : Nat} : KeepsCanon (execGetCertificate d slot ofs len s) := by
  unfold execGetCertificate
  simp [h]

theorem execGetDigests_keeps (h : Canon s.mem) : KeepsCanon (execGetDigests s) := by
  unfold execGetDigests
  simp [h]

theorem execGetMeasurements_keeps (h : Canon s.mem) {d idx : Nat} {nonce : BitVec 256} :
    KeepsCanon (execGetMeasurements d idx nonce s) := by
  unfold execGetMeasurements
  simp [h]

theorem execGetVersion_keeps (h : Canon s.mem) : KeepsCanon (execGetVersion s) := by
  unfold execGetVersion
  simp [h]

theorem execHostMemRead_keeps (h : Canon s.mem) {d pa len : Nat} : KeepsCanon (execHostMemRead d pa len s) := by
  unfold execHostMemRead
  simp [h]

theorem execHostMemWrite_keeps (h : Canon s.mem) {d pa : Nat} {data : List Byte} : KeepsCanon (execHostMemWrite d pa data s) := by
  unfold execHostMemWrite
  dsimp only
  rw [keepsCanon_next]
  split <;> simp [h]

theorem execHostMemoryWrite_keeps (h : Canon s.mem) {d pa : Nat} {data : List Byte} :
    KeepsCanon (execHostMemoryWrite d pa data s) := by
  unfold execHostMemoryWrite
  dsimp only
  rw [keepsCanon_next]
  split <;> simp [h]

theorem execIllegalOpcode_keeps (h : Canon s.mem) {w : BitVec 96} : KeepsCanon (execIllegalOpcode w s) := by
  unfold execIllegalOpcode
  split
  · trivial
  · rwa [keepsCanon_next, State.raise_mem]

theorem execJmp_keeps (h : Canon s.mem) {e : Enc} : KeepsCanon (execJmp e s) := by
  unfold execJmp
  refine issue_keeps h fun s h => ?_
  dsimp only
  split <;> simp [h]

theorem execJmpl_keeps (h : Canon s.mem) {e : Enc} : KeepsCanon (execJmpl e s) := by
  unfold execJmpl
  refine issue_keeps h fun s h => ?_
  dsimp only
  split <;> simp [h]

theorem execKeyExchange_keeps (h : Canon s.mem) {d link : Nat} {pub : BitVec 512} :
    KeepsCanon (execKeyExchange d link pub s) := by
  unfold execKeyExchange
  simp [h]

theorem execKeyUpdate_keeps (h : Canon s.mem) {d link : Nat} : KeepsCanon (execKeyUpdate d link s) := by
  unfold execKeyUpdate
  dsimp only
  rw [keepsCanon_next]
  (repeat' split) <;> simp [h]

theorem execL2LineInstall_keeps (h : Canon s.mem) : KeepsCanon (execL2LineInstall s) := by
  unfold execL2LineInstall
  dsimp only
  rw [keepsCanon_next]
  (repeat' split) <;> simp [h]

theorem execL2statSnapshot_keeps (h : Canon s.mem) : KeepsCanon (execL2statSnapshot s) := by
  unfold execL2statSnapshot
  simp [h]

theorem execLaneFailure_keeps (h : Canon s.mem) {d port : Nat} : KeepsCanon (execLaneFailure d port s) := by
  unfold execLaneFailure
  dsimp only
  rw [keepsCanon_next]
  split <;> simp [h]

theorem execLd_keeps (h : Canon s.mem) {e : Enc} : KeepsCanon (execLd e s) :=
  issue_keeps h fun _ h => (State.needRoom_carries h).bind fun _ h => (State.checkElems_carries h).bind fun _ h =>
    (State.touchAll_carries h).bind fun _ h => (State.admitAll_carries h).bind fun _ h => by
      show Canon (State.retireLoad _ _ _ _).mem
      rw [State.retireLoad_mem]
      exact State.readElems_canon h

theorem execLeaseExpiry_keeps (h : Canon s.mem) {die ctx lid : Nat} : KeepsCanon (execLeaseExpiry die ctx lid s) := by
  unfold execLeaseExpiry
  simp [h]

theorem execLinkAdmission_keeps (h : Canon s.mem) : KeepsCanon (execLinkAdmission s) := by
  unfold execLinkAdmission
  dsimp only
  rw [keepsCanon_next]
  split
  · rename_i f _
    split
    · rename_i since _
      have h1 := State.admitAt_carries h (src := dieOf s.curT) (dst := f.die) (cls := f.cls) (part := s.partOf s.curT)
        (since := since) (gen := f.gen) (cargo := f.cargo s.curT s.curX)
      split
      · rename_i hx
        rw [hx] at h1
        rwa [State.admitted_mem]
      · exact h
      · rwa [State.setPhase_mem]
      · rwa [State.unreachable_mem]
    · exact h
  · exact h

theorem execLinkReplay_keeps (h : Canon s.mem) : KeepsCanon (execLinkReplay s) := by
  unfold execLinkReplay
  simp [h]

theorem execLoadImage_keeps (h : Canon s.mem) : KeepsCanon (execLoadImage s) := by
  unfold execLoadImage
  dsimp only
  rw [keepsCanon_next]
  (repeat' split) <;> simp [h]

theorem execLongOpComplete_keeps (h : Canon s.mem) {t : Nat} {x : Side} {id : Nat} :
    KeepsCanon (execLongOpComplete t x id s) := by
  unfold execLongOpComplete
  rw [keepsCanon_next]
  split
  · exact canon_ite (by rwa [State.complete_mem]) h
  · exact h

theorem execMatrixKstep_keeps (h : Canon s.mem) : KeepsCanon (execMatrixKstep s) := by
  unfold execMatrixKstep
  dsimp only
  rw [keepsCanon_next]
  split
  · exact h
  · refine canon_ite h ?_
    split
    · rw [State.boundary_mem]
      exact canon_ite h (by rwa [State.mmaStep_mem])
    · refine canon_ite (by rwa [State.boundary_mem]) (canon_ite ?_ ?_)
      · rwa [State.boundary_mem, State.ringStep_mem]
      · rwa [State.boundary_mem]
    · rwa [State.scaccStep_mem]
    · rwa [State.cldStep_mem]
    · exact State.cstStep_canon h
    · rwa [State.doneOp_mem, State.setTile_mem]

theorem execMatrixOpStart_keeps (h : Canon s.mem) : KeepsCanon (execMatrixOpStart s) := by
  unfold execMatrixOpStart
  dsimp only
  rw [keepsCanon_next]
  (repeat' split) <;> simp [h]

theorem execMatrixOperandFetch_keeps (h : Canon s.mem) : KeepsCanon (execMatrixOperandFetch s) := by
  unfold execMatrixOperandFetch
  dsimp only
  rw [keepsCanon_next]
  split
  · exact h
  · exact canon_ite (State.fetchFirst_carries h) h

theorem execMatrixPriorityAge_keeps (h : Canon s.mem) : KeepsCanon (execMatrixPriorityAge s) := by
  unfold execMatrixPriorityAge
  simp [h]

theorem execMessageArrival_keeps (h : Canon s.mem) : KeepsCanon (execMessageArrival s) := by
  unfold execMessageArrival
  dsimp only
  rw [keepsCanon_next]
  split <;> simp [h]

theorem execMprio_keeps (h : Canon s.mem) {e : Enc} : KeepsCanon (execMprio e s) := by
  unfold execMprio
  refine issue_keeps h fun s h => ?_
  dsimp only
  split <;> simp [h]

theorem execMsLineComplete_keeps (h : Canon s.mem) : KeepsCanon (execMsLineComplete s) := by
  unfold execMsLineComplete
  simp [h]

theorem execNegotiateAlgorithms_keeps (h : Canon s.mem) {d alg : Nat} : KeepsCanon (execNegotiateAlgorithms d alg s) := by
  unfold execNegotiateAlgorithms
  simp [h]

theorem execOnline_keeps (h : Canon s.mem) : KeepsCanon (execOnline s) := by
  unfold execOnline State.command
  dsimp only
  rw [keepsCanon_next]
  refine canon_ite ?_ h
  split
  · rwa [State.answer_mem]
  · refine canon_ite ?_ ?_
    · rwa [State.answer_mem, State.updCluster_mem]
    · rwa [State.answer_mem]

theorem execPacketAck_keeps (h : Canon s.mem) : KeepsCanon (execPacketAck s) := by
  unfold execPacketAck
  dsimp only
  rw [keepsCanon_next]
  split <;> simp [h]

theorem execPacketDelivery_keeps (h : Canon s.mem) {n : Nat} {ok : Bool} : KeepsCanon (execPacketDelivery n ok s) := by
  unfold execPacketDelivery
  dsimp only
  rw [keepsCanon_next]
  (repeat' split) <;> simp [h]

theorem execPacketForward_keeps (h : Canon s.mem) {n chk : Nat} : KeepsCanon (execPacketForward n chk s) := by
  unfold execPacketForward
  rw [keepsCanon_next]
  split
  · refine canon_ite ?_ h
    split
    · rwa [State.hop_mem]
    · rwa [State.forwardPacket_mem]
  · exact h

theorem execPacketRetransmitTimeout_keeps (h : Canon s.mem) : KeepsCanon (execPacketRetransmitTimeout s) := by
  unfold execPacketRetransmitTimeout
  dsimp only
  rw [keepsCanon_next]
  split <;> simp [h]

theorem execPageCountPeriod_keeps (h : Canon s.mem) : KeepsCanon (execPageCountPeriod s) := by
  unfold execPageCountPeriod
  simp [h]

theorem execPartcreate_keeps (h : Canon s.mem) : KeepsCanon (execPartcreate s) := by
  unfold execPartcreate State.command
  dsimp only
  rw [keepsCanon_next]
  split <;> simp [h]

theorem execPartdestroy_keeps (h : Canon s.mem) : KeepsCanon (execPartdestroy s) := by
  unfold execPartdestroy State.command
  dsimp only
  rw [keepsCanon_next]
  split <;> simp [h]

theorem execPasteEccError_keeps (h : Canon s.mem) : KeepsCanon (execPasteEccError s) := by
  unfold execPasteEccError
  simp [h]

theorem execPermitGrantTimeout_keeps (h : Canon s.mem) : KeepsCanon (execPermitGrantTimeout s) := by
  unfold execPermitGrantTimeout
  dsimp only
  rw [keepsCanon_next]
  split
  · split <;> simp [h]
  · simp [h]

theorem execPldmFwUpdate_keeps (h : Canon s.mem) {d blk : Nat} {image sig : List Byte} :
    KeepsCanon (execPldmFwUpdate d blk image sig s) := by
  unfold execPldmFwUpdate
  simp [h]

theorem execPldmMonitor_keeps (h : Canon s.mem) : KeepsCanon (execPldmMonitor s) := by
  unfold execPldmMonitor
  simp [h]

theorem execPodMembershipSet_keeps (h : Canon s.mem) {d num q : Nat} {members : List Nat} {time : Nat} :
    KeepsCanon (execPodMembershipSet d num q members time s) := by
  unfold execPodMembershipSet
  dsimp only
  rw [keepsCanon_next]
  refine canon_ite h (canon_ite (canon_ite ?_ (canon_ite h ?_)) (canon_ite ?_ h))
  · rwa [State.setDevice_mem]
  · exact State.renumber_canon (by rwa [State.setDevice_mem])
  · rwa [State.setDevice_mem]

theorem execPortTrainingComplete_keeps (h : Canon s.mem) {d port mode : Nat} :
    KeepsCanon (execPortTrainingComplete d port mode s) := by
  unfold execPortTrainingComplete
  simp [h]

theorem execPowerClockStep_keeps (h : Canon s.mem) {d watts : Nat} : KeepsCanon (execPowerClockStep d watts s) := by
  unfold execPowerClockStep
  simp [h]

theorem execPreempt_keeps (h : Canon s.mem) {e : Enc} : KeepsCanon (execPreempt e s) :=
  issue_keeps h fun _ h => stopCarries_ite trivial
    (State.retire_carries (canon_foldl (fun _ _ h => State.haltCluster_canon h) _ h))

theorem execRdmm_keeps (h : Canon s.mem) {e : Enc} : KeepsCanon (execRdmm e s) := by
  unfold execRdmm
  refine issue_keeps h fun s h => ?_
  dsimp only
  split
  · trivial
  · exact (State.checkElems_carries h).bind fun _ h => presentBody_carries h

theorem execReap_keeps (h : Canon s.mem) {e : Enc} : KeepsCanon (execReap e s) := by
  unfold execReap
  refine issue_keeps h fun s h => stopCarries_ite (retire_keeps h) ?_
  dsimp only
  split
  · rename_i hx
    exact (State.admitReq_carries h).error hx
  · rename_i hx
    have h1 := (State.admitReq_carries h).ok hx
    split
    · exact retire_keeps h1
    · refine stopCarries_ite (retire_keeps h1) (stopCarries_ite (retire_keeps ?_) trivial)
      rwa [State.freeSlot_mem]

theorem execRefusalReceived_keeps (h : Canon s.mem) : KeepsCanon (execRefusalReceived s) := by
  unfold execRefusalReceived
  dsimp only
  rw [keepsCanon_next]
  split <;> simp [h]

theorem execRegionCopyFault_keeps (h : Canon s.mem) : KeepsCanon (execRegionCopyFault s) := by
  unfold execRegionCopyFault
  dsimp only
  rw [keepsCanon_next]
  refine canon_ite ?_ h
  have h1 := State.regionStep_canon h (c := s.actor) (n := s.item) (r := s.region s.actor s.item)
  split
  · rename_i hx
    rw [hx] at h1
    exact State.faultRegion_canon h1
  · exact h

theorem execRegionCopyRow_keeps (h : Canon s.mem) : KeepsCanon (execRegionCopyRow s) := by
  unfold execRegionCopyRow
  dsimp only
  rw [keepsCanon_next]
  refine canon_ite ?_ h
  have h1 := State.regionStep_canon h (c := s.actor) (n := s.item) (r := s.region s.actor s.item)
  split <;> rename_i hx
  · rwa [hx] at h1
  · rwa [hx] at h1
  · exact h

theorem execRegisterWrite_keeps (h : Canon s.mem) {d ofs : Nat} {v : Word} : KeepsCanon (execRegisterWrite d ofs v s) := by
  unfold execRegisterWrite
  simp [h]

theorem execRekey_keeps (h : Canon s.mem) : KeepsCanon (execRekey s) := by
  unfold execRekey State.command
  dsimp only
  rw [keepsCanon_next]
  split <;> simp [h]

theorem execRemoteLdsyncRequest_keeps (h : Canon s.mem) : KeepsCanon (execRemoteLdsyncRequest s) := by
  unfold execRemoteLdsyncRequest
  dsimp only
  rw [keepsCanon_next]
  (repeat' split) <;> simp [h]

theorem execRequestAnswerTimeout_keeps (h : Canon s.mem) : KeepsCanon (execRequestAnswerTimeout s) := by
  unfold execRequestAnswerTimeout
  dsimp only
  rw [keepsCanon_next]
  have h1 := canon_foldl (step := fun u o => (u.fenceOp s.curT s.curX o).report (deviceOf s.curT))
    (fun u o hu => by rw [State.report_mem]; exact State.fenceOp_canon hu) ((s.strand s.curT s.curX).pend.filter (s.lateOp s.curT)) h
  split
  · refine canon_ite ?_ h1
    rwa [State.raise_mem, State.report_mem, State.dropAllocated_mem, State.forgetReply_mem]
  · exact h1

theorem execRequestBounce_keeps (h : Canon s.mem) : KeepsCanon (execRequestBounce s) := by
  unfold execRequestBounce
  dsimp only
  rw [keepsCanon_next]
  split <;> simp [h]

theorem execRequestRepresent_keeps (h : Canon s.mem) : KeepsCanon (execRequestRepresent s) := by
  unfold execRequestRepresent
  simp [h]

theorem execResetCluster_keeps (h : Canon s.mem) : KeepsCanon (execResetCluster s) := by
  unfold execResetCluster State.command
  dsimp only
  rw [keepsCanon_next]
  have ha (u : State) (hu : Canon u.mem) (a : Nat) (l : List Word) : Canon (u.answer s.actor a l).mem := by rwa [State.answer_mem]
  refine canon_ite ?_ h
  split
  · exact ha _ h ..
  · refine canon_ite (ha _ h ..) (canon_ite (ha _ ?_ ..) (ha _ h ..))
    exact State.resetCluster_canon h

theorem execResumeJob_keeps (h : Canon s.mem) {e : Enc} : KeepsCanon (execResumeJob e s) := by
  unfold execResumeJob
  refine issue_keeps h fun s h => stopCarries_ite trivial ?_
  dsimp only
  split
  · exact retire_keeps h
  · refine stopCarries_ite (retire_keeps h) (stopCarries_ite (retire_keeps h) (retire_keeps ?_))
    rwa [State.updTok_mem, State.updCluster_mem]

theorem execResumeRun_keeps (h : Canon s.mem) {e : Enc} : KeepsCanon (execResumeRun e s) :=
  issue_keeps h fun s h => stopCarries_ite trivial
    (stopCarries_ite (retire_keeps (s := s.updCluster ..) h) (retire_keeps h))

theorem execRetrain_keeps (h : Canon s.mem) : KeepsCanon (execRetrain s) := by
  unfold execRetrain State.command
  dsimp only
  rw [keepsCanon_next]
  split <;> simp [h]

theorem execRetrainWindowEnd_keeps (h : Canon s.mem) {die ch : Nat} : KeepsCanon (execRetrainWindowEnd die ch s) := by
  unfold execRetrainWindowEnd
  rw [keepsCanon_next]
  split
  · exact canon_ite (by rwa [State.setWindow_mem]) h
  · exact h

theorem execRetrainWindowStart_keeps (h : Canon s.mem) {die ch : Nat} : KeepsCanon (execRetrainWindowStart die ch s) := by
  unfold execRetrainWindowStart
  dsimp only
  rw [keepsCanon_next]
  split <;> simp [h]

theorem execRgclr_keeps (h : Canon s.mem) {e : Enc} : KeepsCanon (execRgclr e s) := by
  unfold execRgclr
  refine issue_keeps h fun s h => ?_
  dsimp only
  split
  · exact retire_keeps h
  · exact stopCarries_ite trivial (retire_keeps (s := s.setRegion ..) h)

theorem execRgset_keeps (h : Canon s.mem) {e : Enc} : KeepsCanon (execRgset e s) := by
  unfold execRgset
  refine issue_keeps h fun s h => (State.recordLoad_canon h).bind fun p h => ?_
  dsimp only
  split
  · exact State.retire_carries h
  · refine stopCarries_ite (State.retire_carries h) ?_
    split
    · exact State.retire_carries h
    · refine State.retire_carries (canon_foldl (fun s i h => State.served_canon (by rwa [State.setEmpty_mem])) _ ?_)
      rw [State.setRegion_mem]
      exact State.drainStores_canon h

theorem execRingGroupForm_keeps (h : Canon s.mem) : KeepsCanon (execRingGroupForm s) := by
  unfold execRingGroupForm
  dsimp only
  rw [keepsCanon_next]
  split <;> simp [h]

theorem execRingLatchArrival_keeps (h : Canon s.mem) : KeepsCanon (execRingLatchArrival s) := by
  unfold execRingLatchArrival
  simp [h]

theorem execRingWatchdogExpiry_keeps (h : Canon s.mem) : KeepsCanon (execRingWatchdogExpiry s) := by
  unfold execRingWatchdogExpiry
  dsimp only
  rw [keepsCanon_next]
  split <;> simp [h]

theorem execRsclr_keeps (h : Canon s.mem) {e : Enc} : KeepsCanon (execRsclr e s) := by
  unfold execRsclr
  refine issue_keeps h fun s h => stopCarries_ite trivial ?_
  split
  · trivial
  · refine stopCarries_ite trivial ((State.slotPages_carries h).bind fun s h => ?_)
    refine stopCarries_ite (State.rangeStep_carries h) ((State.slotPlace_carries h).bind fun p h => ?_)
    refine (State.admitReq_carries h).bind fun s h => State.rangeStep_carries ?_
    rw [State.recordRel_mem]
    exact State.clearSlots_canon (State.storeRelease_canon h)

theorem execRsld_keeps (h : Canon s.mem) {e : Enc} : KeepsCanon (execRsld e s) := by
  unfold execRsld
  refine issue_keeps h fun s h => (State.slotPlace_carries h).bind fun p h => (State.admitReq_carries h).bind fun s h => ?_
  rw [stopCarries_ok, id_eq, State.retireLoad_mem, State.slotSum_mem]
  exact canon_ite (State.acquireAll_canon h) (by rwa [State.updMy_mem])

theorem execRsst_keeps (h : Canon s.mem) {e : Enc} : KeepsCanon (execRsst e s) := by
  unfold execRsst
  refine issue_keeps h fun s h => (State.slotPlace_carries h).bind fun p h => (State.admitReq_carries h).bind fun s h => ?_
  show Canon (State.next _).mem
  rw [State.next_mem]
  refine Canon.memWrite ?_
  rw [State.recordRel_mem]
  exact State.storeRelease_canon h

theorem execSendRepresent_keeps (h : Canon s.mem) : KeepsCanon (execSendRepresent s) := by
  unfold execSendRepresent
  simp [h]

theorem execSpawn_keeps (h : Canon s.mem) {e : Enc} : KeepsCanon (execSpawn e s) :=
  issue_keeps h fun _ h => stopCarries_ite trivial ((State.recordLoad_canon h).bind fun _ h =>
    stopCarries_ite trivial (stopCarries_ite trivial (stopCarries_ite (State.retire_carries h) (State.present_carries h))))

theorem execSpawnPlacement_keeps (h : Canon s.mem) : KeepsCanon (execSpawnPlacement s) := by
  unfold execSpawnPlacement
  dsimp only
  rw [keepsCanon_next]
  split
  · refine canon_ite ?_ h
    rw [State.endClaim_mem]
    exact State.placed_canon (by rwa [State.placeChild_mem])
  · exact h

theorem execSpawnPriorityAge_keeps (h : Canon s.mem) : KeepsCanon (execSpawnPriorityAge s) := by
  unfold execSpawnPriorityAge
  simp [h]

theorem execSpawnRecordAdmit_keeps (h : Canon s.mem) : KeepsCanon (execSpawnRecordAdmit s) := by
  unfold execSpawnRecordAdmit
  dsimp only
  rw [keepsCanon_next]
  split <;> simp [h]

theorem execSt_keeps (h : Canon s.mem) {e : Enc} : KeepsCanon (execSt e s) :=
  issue_keeps h fun _ h => (State.needEntry_carries h).bind fun _ h => (State.checkElems_carries h).bind fun _ h =>
    (State.readScalar_carries h).bind fun _ h => State.retire_carries (State.storeElems_canon (State.storeRelease_canon h))

theorem execStsync_keeps (h : Canon s.mem) {e : Enc} : KeepsCanon (execStsync e s) := by
  unfold execStsync
  refine issue_keeps h fun s h => (State.fePlace_carries h).bind fun p h => ?_
  have h1 := State.drainStores_canon h (t := p.2.curT) (x := p.2.curX)
  refine stopCarries_ite (State.served_canon ?_) h1
  rw [State.next_mem]
  exact State.stsyncWrite_canon h1

theorem execSupervisorTrapEntry_keeps (h : Canon s.mem) : KeepsCanon (execSupervisorTrapEntry s) := by
  unfold execSupervisorTrapEntry
  dsimp only
  rw [keepsCanon_next]
  split <;> simp [h]

theorem execTableFenceComplete_keeps (h : Canon s.mem) : KeepsCanon (execTableFenceComplete s) := by
  unfold execTableFenceComplete
  dsimp only
  rw [keepsCanon_next]
  refine canon_ite ?_ h
  rw [State.noteBounds_mem]
  split
  · exact State.retireChannel_canon (by rwa [State.setDevice_mem])
  · rwa [State.setDevice_mem]

theorem execTdispLock_keeps (h : Canon s.mem) {d part : Nat} : KeepsCanon (execTdispLock d part s) := by
  unfold execTdispLock
  rw [keepsCanon_next]
  split
  · exact canon_ite (by rwa [State.setTdisp_mem]) h
  · exact h

theorem execTdispStart_keeps (h : Canon s.mem) {d part : Nat} : KeepsCanon (execTdispStart d part s) := by
  unfold execTdispStart
  rw [keepsCanon_next]
  split
  · exact canon_ite (by rwa [State.setTdisp_mem]) h
  · exact h

theorem execTdispStop_keeps (h : Canon s.mem) {d part : Nat} {err : Bool} : KeepsCanon (execTdispStop d part err s) := by
  unfold execTdispStop
  rw [keepsCanon_next]
  split
  · refine canon_ite ?_ h
    rw [State.setTdisp_mem]
    exact State.tearPartition_canon h
  · exact h

theorem execTfence_keeps (h : Canon s.mem) {d : Nat} {g : BitVec 8} : KeepsCanon (execTfence d g s) := by
  unfold execTfence
  simp [h]

theorem execThermalShutdown_keeps (h : Canon s.mem) {d dieC : Nat} : KeepsCanon (execThermalShutdown d dieC s) := by
  unfold execThermalShutdown
  dsimp only
  rw [keepsCanon_next]
  split <;> simp [h]

theorem execThermalThrottle_keeps (h : Canon s.mem) {d dieC hbmC : Nat} : KeepsCanon (execThermalThrottle d dieC hbmC s) := by
  unfold execThermalThrottle
  simp [h]

theorem execTicketAllocate_keeps (h : Canon s.mem) : KeepsCanon (execTicketAllocate s) := by
  unfold execTicketAllocate
  dsimp only
  rw [keepsCanon_next]
  (repeat' split) <;> simp [h]

theorem execTicketLeaseExpiry_keeps (h : Canon s.mem) : KeepsCanon (execTicketLeaseExpiry s) := by
  unfold execTicketLeaseExpiry
  simp [h]

theorem execTicketLineFill_keeps (h : Canon s.mem) : KeepsCanon (execTicketLineFill s) := by
  unfold execTicketLineFill
  dsimp only
  rw [keepsCanon_next]
  refine canon_ite ?_ h
  split
  · exact h
  · rename_i l _
    have h1 : Canon (if l.todo.isEmpty then (l, s) else s.readLine (s.ticket s.actor).t (s.ticket s.actor).x (s.ticket s.actor).ctx l).2.mem := by
      split
      · exact h
      · exact State.readLine_carries h
    exact canon_ite (State.lineDone_canon h1) (by rwa [State.setTicket_mem])

theorem execTicketPresent_keeps (h : Canon s.mem) : KeepsCanon (execTicketPresent s) := by
  unfold execTicketPresent
  dsimp only
  rw [keepsCanon_next]
  (repeat' split) <;> simp [h]

theorem execUncorrectableError_keeps (h : Canon s.mem) : KeepsCanon (execUncorrectableError s) := by
  unfold execUncorrectableError
  dsimp only
  rw [keepsCanon_next]
  (repeat' split) <;> simp [h]

theorem execUnwatchRequest_keeps (h : Canon s.mem) : KeepsCanon (execUnwatchRequest s) := by
  unfold execUnwatchRequest
  dsimp only
  rw [keepsCanon_next]
  split
  · split <;> simp [h]
  · simp [h]

theorem execUserTrapEntry_keeps (h : Canon s.mem) : KeepsCanon (execUserTrapEntry s) := by
  unfold execUserTrapEntry
  dsimp only
  rw [keepsCanon_next]
  split <;> simp [h]

theorem execWatch_keeps (h : Canon s.mem) {e : Enc} : KeepsCanon (execWatch e s) :=
  issue_keeps h fun _ h => (State.resolve_carries h).bind fun _ h =>
    stopCarries_ite trivial (stopCarries_ite trivial (State.present_carries h))

theorem execWatchAnswerDelivery_keeps (h : Canon s.mem) : KeepsCanon (execWatchAnswerDelivery s) := by
  unfold execWatchAnswerDelivery
  simp [h]

theorem execWatchAnswerReoffer_keeps (h : Canon s.mem) : KeepsCanon (execWatchAnswerReoffer s) := by
  unfold execWatchAnswerReoffer
  simp [h]

theorem execWatchPlaceRequest_keeps (h : Canon s.mem) : KeepsCanon (execWatchPlaceRequest s) := by
  unfold execWatchPlaceRequest
  dsimp only
  rw [keepsCanon_next]
  (repeat' split) <;> simp [h]

end Sys2Proof.Machine

namespace Sys2Proof.Machine

variable {s : State}

/-- Every instruction keeps memory canonical: each of a row's meanings is one call of `issue`, and the events change the state at once. -/
theorem exec_keeps (h : Canon s.mem) (i : Instr) : KeepsCanon (exec i s) := by
  cases i with
  | nop _ | br _ | brl _ | dbnz _ | trap _ | brk _ | kset _ | kswap _ | sret _ | uret _ | pref _ | lease _ | unlease _
  | cstatClr _ => exact issue_keeps h fun _ h => by simp [h]
  | kget _ | ldi _ | ldp _ | plog _ | bmaxe _ | lbc _ | vlq _ | pcnt _ | pfirst _ | pset _ | welf _ | wmerge _ | wred _
  | cphase _ | cstat _ | rgstat _ | qstat _ | tprobeCtx _ | tprobeOwn _ => exact issue_keeps h fun _ h => retire_keeps h
  | add _ | sub _ | mul _ | mulh _ | mad _ | div _ | rem _ | min _ | max _ | abs _ | sel _ | and _ | or _ | xor _ | andn _
  | shl _ | shr _ | sar _ | rotl _ | clz _ | ctz _ | popc _ | bfx _ | bfi _ | fadd _ | fsub _ | fmul _ | ffma _ | fdiv _
  | fsqrt _ | fmin _ | fmax _ | fcvt _ | fsgn _ | fclass _ => exact issue_keeps h fun _ h => scalarOp_carries h
  | cmp _ | fcmp _ => exact issue_keeps h fun _ h => compareOp_carries h
  | vadd _ | vsub _ | vmul _ | vmulh _ | vmad _ | vmin _ | vmax _ | vabs _ | vand _ | vor _ | vxor _ | vshl _ | vshr _
  | vsar _ | vfadd _ | vfsub _ | vfmul _ | vffma _ | vfdiv _ | vfsqrt _ | vfmin _ | vfmax _ | vfsgn _ | vfclass _ | vexp2 _
  | vlog2 _ | vrcp _ | vrsq _ | vsin _ | vcos _ | vtanh _ => exact issue_keeps h fun _ h => vectorOp_carries h
  | vcmp _ | vfcmp _ => exact issue_keeps h fun _ h => vectorCompare_carries h
  | vsel _ =>
    exact issue_keeps h fun _ h => (State.needRoom_carries h).bind fun _ h => (State.readVecSrc_carries h).bind fun _ h =>
      (Read.after_carries (State.readVecSrc_carries h)).bind fun _ h => State.retire_carries h
  | vfcvt _ | vscan _ | vcomp _ =>
    exact issue_keeps h fun _ h => (State.needRoom_carries h).bind fun _ h => (State.readVecSrc_carries h).bind fun _ h => State.retire_carries h
  | malign _ => exact issue_keeps h fun _ h => (State.readScalar_carries h).bind fun _ h => vectorOp_carries h
  | vbcast _ | vbcastEl _ =>
    exact issue_keeps h fun _ h => (State.needRoom_carries h).bind fun _ h => (State.readScalar_carries h).bind fun _ h => moveOp_carries h
  | vperm _ =>
    exact issue_keeps h fun _ h => (State.needRoom_carries h).bind fun _ h => (State.readVecSrc_carries h).bind fun _ h => moveOp_carries h
  | vshuf _ =>
    exact issue_keeps h fun _ h => (State.needRoom_carries h).bind fun _ h => (State.readVecSrc_carries h).bind fun _ h =>
      (Read.after_carries (State.readVecSrc_carries h)).bind fun _ h => moveOp_carries h
  | vext _ => exact issue_keeps h fun _ h => (State.needRoom_carries h).bind fun _ h => moveOp_carries h
  | vextEl _ | wfin _ => exact issue_keeps h fun _ h => (State.readScalar_carries h).bind fun _ h => State.retire_carries h
  | vins _ =>
    exact issue_keeps h fun _ h => (State.readScalar_carries h).bind fun _ h =>
      (State.readScalar_carries h).bind fun _ h => State.retire_carries h
  | vred _ => exact issue_keeps h fun _ h => (State.needRoom_carries h).bind fun _ h => State.retire_carries h
  | vredQueue _ => exact issue_keeps h fun _ h => vredRound_carries h
  | vld _ => exact issue_keeps h fun _ h => vectorLoad_canon h (rangeCheck_carries h)
  | vst _ => exact issue_keeps h fun _ h => vectorStore_canon h (rangeCheck_carries h)
  | vlds _ | vldx _ => exact issue_keeps h fun _ h => vectorLoad_canon h h
  | vsts _ | vstx _ => exact issue_keeps h fun _ h => vectorStore_canon h h
  | tld _ => exact issue_keeps h fun _ h => ticketBody_carries h
  | vtld _ => exact issue_keeps h fun _ h => stopCarries_ite trivial (ticketBody_carries h)
  | rdm _ => exact issue_keeps h fun _ h => (State.needRoom_carries h).bind fun _ h => presentBody_carries h
  | tstat _ => exact issue_keeps h fun _ h => presentBody_carries h
  | tdrop _ =>
    exact issue_keeps h fun _ h => stopCarries_ite (by simp [h])
      (stopCarries_ite (State.present_carries h) (by simp [h]))
  | pull _ | pullr _ | cpy _ => exact issue_keeps h fun _ h => copyBody_canon h
  | clean _ | inval _ | invalI _ | discard _ => exact issue_keeps h fun _ h => maintBody_canon h
  | ldsync _ | ldsyncTake _ => exact issue_keeps h fun _ h => ldsyncBody_canon h
  | csetCount _ | csetPend _ =>
    exact issue_keeps h fun s h => State.counterEvent_canon (by rwa [State.next_mem, State.setCounter_mem])
  | cwait _ | cwaitPh _ => exact issue_keeps h fun _ h => State.evalCwait_canon h
  | bar _ => exact issue_keeps h fun s h => stopCarries_ite (by simp [h]) (State.barArrive_carries h)
  | unwatch _ => exact issue_keeps h fun _ h => stopCarries_ite (State.retire_carries h) (State.present_carries h)
  | aadd _ | aand _ | aor _ | axor _ | amin _ | amax _ | aswp _ | acas _ => exact issue_keeps h fun _ h => atomicBody_canon h
  | msadd _ | msmul _ | msfma _ | msscale _ | mscopy _ | msfill _ | msrow _ | mszero _ =>
    exact issue_keeps h fun _ h => msBody_canon h
  | mma _ => exact issue_keeps h fun _ h => multiplyBody_canon h fun _ _ h => h
  | mring _ => exact issue_keeps h fun _ h => multiplyBody_canon h fun _ _ h => by rwa [State.joinRing_mem]
  | scacc _ | czero _ => exact issue_keeps h fun _ h => tileBody_canon h
  | cld _ | cst _ => exact issue_keeps h fun _ h => (tileRows_carries h).bind fun _ h => tileBody_canon h
  | send _ | sendeos _ => exact issue_keeps h fun _ h => sendBody_canon h
  | park _ => exact issue_keeps h fun _ h => stopCarries_ite trivial (stopCarries_ite (by simp [h]) (by simp [h]))
  | tlbinvCtx _ | tlbinvOwn _ => exact issue_keeps h fun _ h => tlbinvBody_canon h
  | jmp _ => exact execJmp_keeps h
  | jmpl _ => exact execJmpl_keeps h
  | ld _ => exact execLd_keeps h
  | st _ => exact execSt_keeps h
  | rdmm _ => exact execRdmm_keeps h
  | fence _ => exact execFence_keeps h
  | stsync _ => exact execStsync_keeps h
  | feset _ => exact execFeset_keeps h
  | festat _ => exact execFestat_keeps h
  | cinc _ => exact execCinc_keeps h
  | advseq _ => exact execAdvseq_keeps h
  | watch _ => exact execWatch_keeps h
  | arm _ => exact execArm_keeps h
  | disarm _ => exact execDisarm_keeps h
  | rsst _ => exact execRsst_keeps h
  | rsld _ => exact execRsld_keeps h
  | rsclr _ => exact execRsclr_keeps h
  | mprio _ => exact execMprio_keeps h
  | rgset _ => exact execRgset_keeps h
  | rgclr _ => exact execRgclr_keeps h
  | cpyL2 _ => exact execCpyL2_keeps h
  | cpys _ => exact execCpys_keeps h
  | spawn _ => exact execSpawn_keeps h
  | reap _ => exact execReap_keeps h
  | preempt _ => exact execPreempt_keeps h
  | resumeJob _ => exact execResumeJob_keeps h
  | resumeRun _ => exact execResumeRun_keeps h
  | ctxsave _ => exact execCtxsave_keeps h
  | ctxsaveDrop _ => exact execCtxsaveDrop_keeps h
  | ctxload _ => exact execCtxload_keeps h
  | ctxloadDrop _ => exact execCtxloadDrop_keeps h
  | illegalOpcode w => exact execIllegalOpcode_keeps (w := w) h
  | longOpComplete _ _ _ => exact execLongOpComplete_keeps h
  | userTrapEntry => exact execUserTrapEntry_keeps h
  | supervisorTrapEntry => exact execSupervisorTrapEntry_keeps h
  | messageArrival => exact execMessageArrival_keeps h
  | refusalReceived => exact execRefusalReceived_keeps h
  | requestRepresent => exact execRequestRepresent_keeps h
  | sendRepresent => exact execSendRepresent_keeps h
  | spawnRecordAdmit => exact execSpawnRecordAdmit_keeps h
  | spawnPlacement => exact execSpawnPlacement_keeps h
  | spawnPriorityAge => exact execSpawnPriorityAge_keeps h
  | clusterScrub => exact execClusterScrub_keeps h
  | ticketAllocate => exact execTicketAllocate_keeps h
  | ticketLineFill => exact execTicketLineFill_keeps h
  | ticketLeaseExpiry => exact execTicketLeaseExpiry_keeps h
  | ticketPresent => exact execTicketPresent_keeps h
  | copyBlockComplete => exact execCopyBlockComplete_keeps h
  | copyJobFault => exact execCopyJobFault_keeps h
  | fenceComplete => exact execFenceComplete_keeps h
  | feWordEvent => exact execFeWordEvent_keeps h
  | remoteLdsyncRequest => exact execRemoteLdsyncRequest_keeps h
  | acquireAtReleaser => exact execAcquireAtReleaser_keeps h
  | pageCountPeriod => exact execPageCountPeriod_keeps h
  | counterArrival => exact execCounterArrival_keeps h
  | armActionRun => exact execArmActionRun_keeps h
  | watchPlaceRequest => exact execWatchPlaceRequest_keeps h
  | watchAnswerDelivery => exact execWatchAnswerDelivery_keeps h
  | watchAnswerReoffer => exact execWatchAnswerReoffer_keeps h
  | unwatchRequest => exact execUnwatchRequest_keeps h
  | atomicExecute _ _ _ => exact execAtomicExecute_keeps h
  | msLineComplete => exact execMsLineComplete_keeps h
  | matrixOpStart => exact execMatrixOpStart_keeps h
  | matrixPriorityAge => exact execMatrixPriorityAge_keeps h
  | matrixOperandFetch => exact execMatrixOperandFetch_keeps h
  | matrixKstep => exact execMatrixKstep_keeps h
  | ringGroupForm => exact execRingGroupForm_keeps h
  | ringLatchArrival => exact execRingLatchArrival_keeps h
  | ringWatchdogExpiry => exact execRingWatchdogExpiry_keeps h
  | regionCopyRow => exact execRegionCopyRow_keeps h
  | regionCopyFault => exact execRegionCopyFault_keeps h
  | l2LineInstall => exact execL2LineInstall_keeps h
  | pasteEccError => exact execPasteEccError_keeps h
  | l2statSnapshot => exact execL2statSnapshot_keeps h
  | leaseExpiry _ _ _ => exact execLeaseExpiry_keeps h
  | establish _ _ => exact execEstablish_keeps h
  | cxcDrain _ _ => exact execCxcDrain_keeps h
  | cxcRelease _ _ => exact execCxcRelease_keeps h
  | circuitTuningDone _ _ _ => exact execCircuitTuningDone_keeps h
  | circuitDrainDone _ _ => exact execCircuitDrainDone_keeps h
  | tfence _ _ => exact execTfence_keeps h
  | tableFenceComplete => exact execTableFenceComplete_keeps h
  | requestBounce => exact execRequestBounce_keeps h
  | linkAdmission => exact execLinkAdmission_keeps h
  | permitGrantTimeout => exact execPermitGrantTimeout_keeps h
  | linkReplay => exact execLinkReplay_keeps h
  | packetForward _ _ => exact execPacketForward_keeps h
  | packetDelivery _ _ => exact execPacketDelivery_keeps h
  | packetAck => exact execPacketAck_keeps h
  | dropNotice => exact execDropNotice_keeps h
  | packetRetransmitTimeout => exact execPacketRetransmitTimeout_keeps h
  | requestAnswerTimeout => exact execRequestAnswerTimeout_keeps h
  | laneFailure _ _ => exact execLaneFailure_keeps h
  | hostMemWrite _ _ _ => exact execHostMemWrite_keeps h
  | hostMemRead _ _ _ => exact execHostMemRead_keeps h
  | hostMemoryWrite _ _ _ => exact execHostMemoryWrite_keeps h
  | registerWrite _ _ _ => exact execRegisterWrite_keeps h
  | partcreate => exact execPartcreate_keeps h
  | partdestroy => exact execPartdestroy_keeps h
  | rekey => exact execRekey_keeps h
  | loadImage => exact execLoadImage_keeps h
  | drain => exact execDrain_keeps h
  | online => exact execOnline_keeps h
  | resetCluster => exact execResetCluster_keeps h
  | chretire => exact execChretire_keeps h
  | retrain => exact execRetrain_keeps h
  | retrainWindowEnd _ _ => exact execRetrainWindowEnd_keeps h
  | fwupdate => exact execFwupdate_keeps h
  | firmwareActivate _ _ => exact execFirmwareActivate_keeps h
  | getVersion => exact execGetVersion_keeps h
  | getCapabilities => exact execGetCapabilities_keeps h
  | negotiateAlgorithms _ _ => exact execNegotiateAlgorithms_keeps h
  | getDigests => exact execGetDigests_keeps h
  | getCertificate _ _ _ _ => exact execGetCertificate_keeps h
  | challenge _ _ _ => exact execChallenge_keeps h
  | getMeasurements _ _ _ => exact execGetMeasurements_keeps h
  | keyExchange _ _ _ => exact execKeyExchange_keeps h
  | finish _ _ _ => exact execFinish_keeps h
  | keyUpdate _ _ => exact execKeyUpdate_keeps h
  | endSession => exact execEndSession_keeps h
  | tdispStop _ _ _ => exact execTdispStop_keeps h
  | correctedError _ _ => exact execCorrectedError_keeps h
  | uncorrectableError => exact execUncorrectableError_keeps h
  | clusterFence => exact execClusterFence_keeps h
  | deviceReset => exact execDeviceReset_keeps h
  | bringupStageTimeout => exact execBringupStageTimeout_keeps h
  | powerClockStep _ _ => exact execPowerClockStep_keeps h
  | thermalThrottle _ _ _ => exact execThermalThrottle_keeps h
  | thermalShutdown _ _ => exact execThermalShutdown_keeps h
  | pldmMonitor => exact execPldmMonitor_keeps h
  | pldmFwUpdate _ _ _ _ => exact execPldmFwUpdate_keeps h
  | tdispLock _ _ => exact execTdispLock_keeps h
  | tdispStart _ _ => exact execTdispStart_keeps h
  | podMembershipSet _ _ _ _ _ => exact execPodMembershipSet_keeps h
  | retrainWindowStart _ _ => exact execRetrainWindowStart_keeps h
  | portTrainingComplete _ _ _ => exact execPortTrainingComplete_keeps h

theorem State.happen_keeps (h : Canon s.mem) {m : Move} {i : Instr} : KeepsCanon (s.happen m i) := by
  unfold State.happen
  split
  · exact exec_keeps (by rwa [State.aim_mem]) i
  · exact h

theorem State.issueNext_keeps (h : Canon s.mem) {t : Nat} {x : Side} : KeepsCanon (s.issueNext t x) := by
  unfold State.issueNext
  split
  · have h1 : Canon (s.charge t x).mem := by rwa [State.charge_mem]
    have h2 := State.fetch_carries h1 (t := t) (x := x)
    dsimp only
    split
    · rename_i hx
      exact State.settle_canon h1 (r := .error _) (h2.error hx)
    · rename_i hx
      exact exec_keeps (h2.ok hx) _
  · exact h

/-- Every move keeps memory canonical. -/
theorem State.move_keeps (h : Canon s.mem) (m : Move) : KeepsCanon (s.move m) := by
  cases m with
  | issue t x => exact State.issueNext_keeps h
  | strand i t x => exact State.happen_keeps h
  | unit i n m => exact State.happen_keeps h
  | event i => exact State.happen_keeps h
  | tick n =>
    unfold State.move
    dsimp only
    split
    · exact h
    · split
      · exact h
      · exact h
  | perform t x => exact State.performOne_canon h
  | evictL1 k line =>
    unfold State.move
    dsimp only
    rw [keepsCanon_next]
    split
    · exact State.writeBackL1_canon h
    · exact h
  | evictL2 slice line =>
    unfold State.move
    dsimp only
    rw [keepsCanon_next]
    split
    · exact canon_ite h (State.evictRind_canon h)
    · exact h
  | bringup d => exact (keepsCanon_next.2 (by rwa [State.nextStage_mem]))
  | bringupFails d => exact State.stageFails_canon h
  | channelFails d ch => exact (keepsCanon_next.2 (by rwa [State.channelFails_mem]))
  | cxlLink d idle => exact h

theorem step_keeps (h : Canon s.mem) : KeepsCanon (step s) := by
  unfold step
  split
  · exact State.move_keeps (by exact h) _
  · exact State.move_keeps h _

/-- Settles O58: each move is an instruction, an event or a unit's own step, and each of them changes memory by writes, copies and
clears alone. -/
theorem stepKeepsMemoryForm : Obligations.StepKeepsMemoryForm := by
  unfold Obligations.StepKeepsMemoryForm
  intro s t h hs
  have hk := step_keeps (s := s) h
  rw [hs] at hk
  exact hk

end Sys2Proof.Machine

end

section
/-! PROOFS. What the load and store rows leave unchanged (R39, R188 to R193, R222, R235), with O60. A load changes its thread's
bookkeeping, the window entries and the observed homes of clusters, and the caches and what writes their lines back; it changes memory
only where it writes a line back. -/

namespace Sys2Proof.Machine

/-! ### What a load keeps -/

/-- Every part of the state blanked that a load may change but the frame of a load does not name, and the threads and clusters, of
which it changes parts. -/
def State.offLoad (s : State) : State :=
  { s.offCache with threads := [], clusters := [], tlb := [], fills := [], packets := [], seqs := [], free := 0 }

/-- A cluster, its window entries and the homes that it has observed blanked. -/
def Cluster.offHomes (cl : Cluster) : Cluster := { cl with regions := [], homes := [] }

/-- What a load keeps of a state: the issuing thread but the bookkeeping of the issuing strand, and everything else but the parts
that `offLoad` blanks and the window entries and observed homes of clusters. -/
structure LoadKept (s t : State) : Prop where
  rest    : t.offLoad = s.offLoad
  cluster : ∀ c, (t.cluster c).offHomes = (s.cluster c).offHomes
  other   : ∀ k, k ≠ s.curT → t.thread k = s.thread k
  side    : ∀ x, x ≠ s.curX → (t.thread s.curT).strand x = (s.thread s.curT).strand x
  mine    : (t.strand s.curT s.curX).visible = (s.strand s.curT s.curX).visible
  shared  : (t.thread s.curT).shared = (s.thread s.curT).shared
  queue   : ∀ n, (t.thread s.curT).getQ n = (s.thread s.curT).getQ n

namespace LoadKept

variable {s t u : State}

/-- A part of the state that `offLoad` does not blank. -/
theorem field {α : Type} (h : LoadKept s t) (f : State → α) (hf : ∀ u : State, f u.offLoad = f u) : f t = f s :=
  (hf t).symm.trans ((congrArg f h.rest).trans (hf s))

theorem curT (h : LoadKept s t) : t.curT = s.curT := h.field State.curT fun _ => rfl
theorem curX (h : LoadKept s t) : t.curX = s.curX := h.field State.curX fun _ => rfl

theorem refl (s : State) : LoadKept s s := ⟨rfl, fun _ => rfl, fun _ _ => rfl, fun _ _ => rfl, rfl, rfl, fun _ => rfl⟩

theorem trans (h : LoadKept s t) (h' : LoadKept t u) : LoadKept s u := by
  obtain ⟨hrest, hcluster, hother, hside, hmine, hshared, hqueue⟩ := h'
  rw [h.curT] at hother hside hmine hshared hqueue
  rw [h.curX] at hside hmine
  exact ⟨hrest.trans h.rest, fun c => (hcluster c).trans (h.cluster c), fun k hk => (hother k hk).trans (h.other k hk),
    fun x hx => (hside x hx).trans (h.side x hx), hmine.trans h.mine, hshared.trans h.shared,
    fun n => (hqueue n).trans (h.queue n)⟩

/-- A change of nothing but what `offLoad` blanks beside the threads and clusters. -/
theorem of_view (hth : t.threads = s.threads) (hcl : t.clusters = s.clusters) (hrest : t.offLoad = s.offLoad) : LoadKept s t := by
  have hthread : ∀ k, t.thread k = s.thread k := fun k =>
    congrArg (fun l => ({ s with threads := l } : State).thread k) hth
  have hcluster : ∀ c, t.cluster c = s.cluster c := fun c =>
    congrArg (fun l => ({ s with clusters := l } : State).cluster c) hcl
  exact ⟨hrest, fun c => by rw [hcluster], fun k _ => hthread k, fun x _ => by rw [hthread],
    by rw [State.strand, State.strand, hthread], by rw [hthread], fun n => by rw [hthread]⟩

/-- A write of a line at its home, and what it causes. -/
theorem of_offCache (h : t.offCache = s.offCache) : LoadKept s t :=
  of_view (congrArg State.threads h :) (congrArg State.clusters h :)
    (congrArg (fun u : State => { u with threads := [], clusters := [], tlb := [], fills := [], packets := [], seqs := [], free := 0 }) h)

/-- An update of the issuing strand's bookkeeping. -/
theorem updMy (s : State) (f : Strand → Strand) (hf : ∀ st, (f st).visible = st.visible) : LoadKept s (s.updMy f) := by
  have h := Kept.updMy (fun _ => False) s f hf
  refine ⟨rfl, fun _ => rfl, h.other, fun x hx => ?_, h.mine, h.shared, fun n => h.queue n id⟩
  rcases h.side x hx with h | ⟨⟨_, hn⟩, _⟩
  · exact h
  · exact hn.elim

theorem updCluster (s : State) (c : Nat) (f : Cluster → Cluster) (hf : ∀ cl, (f cl).offHomes = cl.offHomes) :
    LoadKept s (s.updCluster c f) := by
  refine ⟨rfl, fun b => ?_, fun _ _ => rfl, fun _ _ => rfl, rfl, rfl, fun _ => rfl⟩
  unfold State.updCluster
  by_cases hb : b = c
  · subst hb
    rw [State.cluster_setCluster, hf]
  · rw [State.cluster_setCluster_ne s _ hb]

/-- A fold of steps of a load. -/
theorem foldl {β : Type} {step : State → β → State} (hs : ∀ u b, LoadKept u (step u b)) (l : List β) (s : State) :
    LoadKept s (l.foldl step s) := by
  induction l generalizing s with
  | nil => exact refl s
  | cons b r ih => exact (hs s b).trans (ih _)

/-- A register of the issuing strand. -/
theorem myField {α : Type} (h : LoadKept s t) (f : Strand → α) (hf : ∀ st : Strand, f st.visible = f st) : f t.my = f s.my := by
  rw [State.my, State.my, h.curT, h.curX]
  exact (hf _).symm.trans ((congrArg f h.mine).trans (hf _))

/-- A register that the strands of the issuing thread share. -/
theorem meField {α : Type} (h : LoadKept s t) (f : Thread → α) (hf : ∀ th : Thread, f th.shared = f th) : f t.me = f s.me := by
  rw [State.me, State.me, h.curT]
  exact (hf _).symm.trans ((congrArg f h.shared).trans (hf _))

/-- A field of a cluster. -/
theorem clusterField {α : Type} (h : LoadKept s t) (f : Cluster → α) (hf : ∀ cl : Cluster, f cl.offHomes = f cl) (c : Nat) :
    f (t.cluster c) = f (s.cluster c) :=
  (hf _).symm.trans ((congrArg f (h.cluster c)).trans (hf _))

theorem special (h : LoadKept s t) (k : Nat) : t.special k = s.special k := by
  have hnow : ∀ n, t.now n = s.now n := fun n => h.field (fun u => u.now n) fun _ => rfl
  have htime : ∀ n, t.time n = s.time n := fun n => h.field (fun u => u.time n) fun _ => rfl
  have hl2 : ∀ a b, t.l2stat a b = s.l2stat a b := fun a b => h.field (fun u => u.l2stat a b) fun _ => rfl
  unfold State.special
  simp only [h.curT, hnow, htime, hl2]
  split
  case h_10 => exact h.myField Strand.fps fun _ => rfl
  case h_11 => exact h.myField Strand.prog fun _ => rfl
  case h_12 => exact h.meField (fun th => th.eos.setWidth 64) fun _ => rfl
  case h_13 => exact h.meField (fun th => wordOf th.prio) fun _ => rfl
  case h_14 => exact h.meField (fun th => th.acc.setWidth 64) fun _ => rfl
  case h_15 => exact h.meField Thread.uvec fun _ => rfl
  case h_16 => exact h.myField Strand.uepc fun _ => rfl
  case h_17 => exact h.myField Strand.ucause fun _ => rfl
  case h_18 => exact h.myField Strand.uinfo fun _ => rfl
  case h_19 => exact h.meField (fun th => th.syncretry.setWidth 64) fun _ => rfl
  case h_20 => exact congrArg _ (h.clusterField (fun cl => cl.part.toNat) (fun _ => rfl) _)
  case h_21 => exact h.clusterField Cluster.svec (fun _ => rfl) _
  case h_22 => exact h.myField Strand.sepc fun _ => rfl
  case h_23 => exact h.myField Strand.scause fun _ => rfl
  case h_24 => exact h.myField Strand.sinfo fun _ => rfl
  case h_25 => exact h.clusterField Cluster.ptroot (fun _ => rfl) _
  case h_26 => exact h.clusterField Cluster.ownroot (fun _ => rfl) _
  case h_27 => exact h.clusterField Cluster.ctxReg (fun _ => rfl) _
  case h_28 => exact h.clusterField (fun cl => cl.part.setWidth 64) (fun _ => rfl) _
  case h_29 => exact h.clusterField Cluster.watchdog (fun _ => rfl) _
  all_goals rfl

/-- What a load keeps is its frame. -/
theorem loadFrame (h : LoadKept s t) : LoadFrame s t := by
  refine ⟨h.other, fun x hx => ?_, fun n => h.myField (fun st => st.getS n) fun _ => rfl,
    fun n => h.myField (fun st => st.getP n) fun _ => rfl, fun n => h.meField (fun th => th.getV n) fun _ => rfl, fun q => ?_,
    h.special, h.myField Strand.sup fun _ => rfl, h.myField Strand.uh fun _ => rfl, h.field State.cores fun _ => rfl,
    h.field State.feEmpty fun _ => rfl, h.field State.stores fun _ => rfl⟩
  · rw [State.me, State.me, h.curT]
    exact h.side x hx
  · rw [State.me, State.me, h.curT]
    exact h.queue q

end LoadKept

/-! ### Reads -/

section Reads

variable {s u : State}

theorem State.writeBackMarked_offCache (s : State) (c : Nat) (p : BitVec 32) : (s.writeBackMarked c p).offCache = s.offCache := by
  unfold State.writeBackMarked
  exact fold_view State.offCache (fun s l => s.writeBackL1 l) (fun _ _ => State.writeBackL1_offCache ..) _ _

theorem State.dropClean_kept (s : State) (k : Nat) (home : Nat → Bool) : LoadKept s (s.dropClean k home) :=
  .of_offCache rfl

theorem State.acquireFrom_kept (s : State) (t : Nat) (r : Release) (scope : Nat) : LoadKept s (s.acquireFrom t r scope) := by
  unfold State.acquireFrom
  split
  · exact (LoadKept.of_offCache (State.writeBackMarked_offCache ..)).trans
      ((State.dropClean_kept ..).trans (.updCluster _ _ _ fun _ => rfl))
  · exact .refl s

theorem State.acquireAll_kept (s : State) (t scope : Nat) (rs : List Release) : LoadKept s (s.acquireAll t scope rs) :=
  .foldl (fun u r => State.acquireFrom_kept u t r scope) rs s

theorem State.readReleased_offCache (s : State) (key : Nat) : (s.readReleased key).offCache = s.offCache :=
  fold_view State.offCache (fun s (r : Release) => s.writeBackMarked (clusterOf r.tid) r.pos)
    (fun _ _ => State.writeBackMarked_offCache ..) _ _

theorem State.readLine64_kept (s : State) (t : Nat) (g : Target) (line : Nat) : LoadKept s (s.readLine64 t g line).2 := by
  unfold State.readLine64
  extract_lets key c die nodup part fill
  have hfill (u : State) (sl : Nat) : LoadKept u (fill u sl) := by
    show LoadKept u (if _ then _ else _)
    split
    · exact .of_offCache (State.touchRind_offCache ..)
    · split
      · exact .refl u
      · extract_lets id away v
        split
        · exact .of_view rfl rfl rfl
        · exact .of_view rfl rfl rfl
  split
  · exact .refl s
  · split
    · exact hfill ..
    · split
      · exact hfill ..
      · have hpage (d p : Nat) : LoadKept s ((s.countPage d p false).pageMode d p) :=
          .of_offCache ((State.pageMode_offCache ..).trans (State.countPage_offCache ..))
        split
        · exact (hpage ..).trans (.of_offCache (State.touchRind_offCache ..))
        · dsimp only
          split
          · exact (hpage ..).trans (hfill ..)
          · exact (hpage ..).trans (hfill ..)

theorem State.readL1_kept (s : State) (t : Nat) (g : Target) (n : Nat) (fresh : Bool) : LoadKept s (s.readL1 t g n fresh).2 := by
  unfold State.readL1
  extract_lets line ofs need old keep
  split
  · exact .refl s
  · exact (LoadKept.of_offCache (State.readReleased_offCache ..)).trans
      ((State.readLine64_kept ..).trans (.of_offCache (State.putL1_offCache ..)))

theorem State.readBytes_kept (s : State) (t : Nat) (x : Side) (g : Target) (n : Nat) (fresh : Bool) :
    LoadKept s (s.readBytes t x g n fresh).2.2 := by
  unfold State.readBytes
  split
  · exact .refl s
  · split
    · exact State.readL1_kept ..
    · split
      · exact .refl s
      · exact .refl s

theorem State.observe_kept (s : State) (home : Nat) (rs : List Release) :
    LoadKept s (s.updStrand s.curT s.curX fun st => st.observe home rs) :=
  .updMy s (fun st => st.observe home rs) fun _ => rfl

/-- Reading elements for the issuing strand. -/
theorem State.readElems_kept (n : Nat) (acq : Bool) (l : List Elem) (s : State) :
    LoadKept s (s.readElems s.curT s.curX n acq l).2.2 := by
  induction l generalizing s with
  | nil => exact .refl s
  | cons e r ih =>
    have h1 : LoadKept s (if acq then s.acquireAll s.curT 6 (s.relOf e.g.key)
        else s.updStrand s.curT s.curX fun st => st.observe e.g.home (s.relOf e.g.key)) := by
      split
      · exact State.acquireAll_kept ..
      · exact State.observe_kept ..
    have h2 := h1.trans (State.readBytes_kept _ s.curT s.curX e.g n acq)
    refine h2.trans ?_
    have h3 := ih (State.readBytes (if acq then s.acquireAll s.curT 6 (s.relOf e.g.key)
        else s.updStrand s.curT s.curX fun st => st.observe e.g.home (s.relOf e.g.key)) s.curT s.curX e.g n acq).2.2
    rwa [h2.curT, h2.curX] at h3

theorem State.retireLoad_kept (s : State) (la : BitVec 4) (ws : List RegWrite) (bad : Option Word) :
    LoadKept s (s.retireLoad la ws bad) := by
  unfold State.retireLoad
  split
  · exact .updMy s (fun st => st.accept la .plain true ws) fun _ => rfl
  · rename_i va
    exact (LoadKept.updMy s (fun st => st.accept la .plain true []) fun _ => rfl).trans
      (.updMy (s.updMy fun st => st.accept la .plain true []) (fun st => { st with pend := st.pend.map fun o =>
        if o.id = s.my.order then { o with ready := true, kind := .plain, writes := o.writes ++ [],
                                           fault := some (TrapInfo.at .poison va) } else o }) fun _ => rfl)

end Reads

/-! ### Checks, touches and admissions -/

/-- What comes before a load's reads: it changes no thread, no byte of memory and no release, and a core's L1 gains no line. -/
structure Untouched (s u : State) : Prop where
  kept    : LoadKept s u
  threads : u.threads = s.threads
  mem     : u.mem = s.mem
  rel     : u.rel = s.rel
  lines   : ∀ k, (u.l1.filter fun q => q.core == k).length ≤ (s.l1.filter fun q => q.core == k).length

namespace Untouched

variable {s t u : State}

theorem refl (s : State) : Untouched s s := ⟨.refl s, rfl, rfl, rfl, fun _ => Nat.le_refl _⟩

theorem trans (h : Untouched s t) (h' : Untouched t u) : Untouched s u :=
  ⟨h.kept.trans h'.kept, h'.threads.trans h.threads, h'.mem.trans h.mem, h'.rel.trans h.rel,
    fun k => Nat.le_trans (h'.lines k) (h.lines k)⟩

theorem dropClean (s : State) (k : Nat) (home : Nat → Bool) : Untouched s (s.dropClean k home) := by
  refine ⟨State.dropClean_kept .., rfl, rfl, rfl, fun c => ?_⟩
  have hmap (f : L1Line → L1Line) (hf : ∀ l, (f l).core = l.core) :
      ((s.l1.map f).filter fun q => q.core == c).length = (s.l1.filter fun q => q.core == c).length := by
    rw [List.filter_map, List.length_map]
    exact congrArg List.length (List.filter_congr fun l _ => by rw [Function.comp_apply, hf])
  refine Nat.le_trans (List.filter_sublist.filter _).length_le (Nat.le_of_eq (hmap _ fun l => ?_))
  split <;> rfl

theorem tlbFill (s : State) (t va : Nat) (own : Bool) (w : Word) (level : Nat) : Untouched s (s.tlbFill t va own w level) :=
  ⟨.of_view rfl rfl rfl, rfl, rfl, rfl, fun _ => Nat.le_refl _⟩

theorem setRegion (s : State) (c n : Nat) (r : Region) : Untouched s (s.setRegion c n r) :=
  ⟨.updCluster _ _ _ fun _ => rfl, rfl, rfl, rfl, fun _ => Nat.le_refl _⟩

theorem relOf (h : Untouched s u) (key : Nat) : u.relOf key = s.relOf key := by
  unfold State.relOf
  rw [h.rel]

theorem l1Room (h : Untouched s u) {n : Nat} (hn : s.l1Room n) : u.l1Room n := by
  unfold State.l1Room at hn ⊢
  rw [h.kept.curT]
  exact Nat.le_trans (Nat.add_le_add_right (h.lines _) n) hn

end Untouched

/-- A stop carries no state in which the issuing strand has completed an instruction more. -/
def Stop.sameOrder (s : State) : Stop → Prop
  | .trapIn _ u | .waitIn _ u => (u.strand s.curT s.curX).order = s.my.order
  | .trap _ | .wait _ => True

theorem Stop.sameOrder.carried {s : State} {x : Stop} (h : x.sameOrder s) :
    ((x.carried s).strand s.curT s.curX).order = s.my.order := by
  cases x with
  | trap i => rfl
  | wait c => rfl
  | trapIn i u => exact h
  | waitIn c u => exact h

/-- The state of what a touch finds is what comes before a load's reads. -/
def Touch.untouched (s : State) : Touch → Prop
  | .clear u | .wait u | .fault _ _ _ u => Untouched s u

/-- A result whose state meets p, or a stop with which the issuing strand has completed nothing. -/
def comesTo {α : Type} (s : State) (p : α → Prop) : Except Stop α → Prop
  | .ok a => p a
  | .error x => x.sameOrder s

section Before

variable {α β : Type} {s u : State} {p : α → Prop} {q : β → Prop}

theorem comesTo.bind {r : Except Stop α} {k : α → Except Stop β} (h : comesTo s p r) (hk : ∀ a, p a → comesTo s q (k a)) :
    comesTo s q (r >>= k) := by
  cases r with
  | ok a => exact hk a h
  | error x => exact h

theorem comesTo.ok {r : Except Stop α} {a : α} (h : comesTo s p r) (e : r = .ok a) : p a := by
  rw [e] at h; exact h

theorem comesTo.error {r : Except Stop α} {x : Stop} (h : comesTo s p r) (e : r = .error x) : x.sameOrder s := by
  rw [e] at h; exact h

theorem comesTo_ite {c : Prop} [Decidable c] {r r' : Except Stop α} (h : comesTo s p r) (h' : comesTo s p r') :
    comesTo s p (if c then r else r') := by
  split
  · exact h
  · exact h'

theorem Untouched.order (h : Untouched s u) : (u.strand s.curT s.curX).order = s.my.order := by
  have hth : ∀ k, u.thread k = s.thread k := fun k => by rw [State.thread, State.thread, h.threads]
  rw [State.my, State.strand, State.strand, hth]

theorem State.translate_untouched (h : Untouched s u) {t va : Nat} {own : Bool} {w : Word} {level : Nat} {u' : State}
    (e : u.translate t va own = .ok (w, level, u')) : Untouched s u' := by
  unfold State.translate at e
  split at e
  · cases e; exact h
  · dsimp only at e
    split at e
    · cases e; exact h.trans (.tlbFill ..)
    · cases e

theorem State.place_untouched (h : Untouched s u) {t va n sw : Nat} {w : Window} {acc : Access} {g : Target} {u' : State}
    (e : u.place t va n sw w acc = .ok (g, u')) : Untouched s u' := by
  unfold State.place at e
  cases w with
  | lane | core | clus | cave =>
    obtain ⟨-, rfl⟩ := Prod.mk.inj (Except.ok.inj e)
    exact h
  | pod =>
    dsimp only at e
    split at e
    · cases e
    · cases e; exact h
  | own | global =>
    dsimp only at e
    split at e
    · cases e
    · rename_i ht
      split at e
      · cases e
      · cases e
        exact State.translate_untouched h ht

theorem State.resolve_comesTo (h : Untouched s u) {t : Nat} {va : Word} {n align sw : Nat} {acc : Access} {st : Bool} :
    comesTo s (fun p => Untouched s p.2) (u.resolve t va n align sw acc st) := by
  unfold State.resolve
  split
  · trivial
  · split
    · trivial
    · rename_i hp
      exact State.place_untouched h hp

theorem State.checkElems_comesTo {t n sw : Nat} {st : Bool} {l : List (Nat × Word × Option Nat)} (h : Untouched s u) :
    comesTo s (fun p => Untouched s p.2) (u.checkElems t n sw st l) := by
  induction l generalizing u with
  | nil => exact h
  | cons a r ih =>
    obtain ⟨i, va, lane⟩ := a
    unfold State.checkElems
    have hr := State.resolve_comesTo h (t := t) (va := va) (n := n) (align := n) (sw := sw)
      (acc := if st then .store else .read) (st := st)
    split
    · rename_i hx
      exact hr.error hx
    · rename_i hx
      have h1 := hr.ok hx
      extract_lets g
      refine comesTo_ite trivial (comesTo_ite trivial (comesTo_ite trivial ?_))
      split
      · rename_i hy
        exact (ih h1).error hy
      · rename_i l' u' hy
        exact (ih h1).ok (a := (l', u')) hy

theorem State.touchFull_untouched (h : Untouched s u) (t key : Nat) : (u.touchFull t key).untouched s := by
  unfold State.touchFull
  split
  · exact h.trans (.dropClean ..)
  · exact h

theorem State.touchWord_untouched (h : Untouched s u) (t key : Nat) : (u.touchWord t key).untouched s := by
  unfold State.touchWord
  split
  · exact h
  · dsimp only
    split
    · split
      · exact h
      · exact State.touchFull_untouched h ..
    · split
      · exact h
      · exact State.touchFull_untouched (h.trans (.setRegion ..)) ..
    · exact State.touchFull_untouched h ..

theorem State.touchRange_comesTo (h : Untouched s u) {t : Nat} {g : Target} : comesTo s (Untouched s) (u.touchRange t g) := by
  unfold State.touchRange
  split
  · unfold State.touch
    have hw := State.touchWord_untouched h t g.key
    split <;> rename_i he <;> rw [he] at hw
    · exact hw
    · exact hw.order
    · exact hw.order
  · exact h

theorem State.touchAll_comesTo {t : Nat} {l : List Elem} (h : Untouched s u) : comesTo s (Untouched s) (u.touchAll t l) := by
  induction l generalizing u with
  | nil => exact h
  | cons e r ih =>
    unfold State.touchAll
    split
    · rename_i hx
      exact (State.touchRange_comesTo h).error hx
    · rename_i hx
      exact ih ((State.touchRange_comesTo h).ok hx)

theorem State.admitReq_comesTo (h : Untouched s u) {die cls : Nat} : comesTo s (Untouched s) (u.admitReq die cls) := by
  unfold State.admitReq
  split
  · exact h
  · rename_i hn
    refine Eq.trans ?_ h.order
    rw [← h.kept.curT, ← h.kept.curX]
    exact State.updStrand_order u u.curT u.curX (fun st => { st with flight := some (newFlight u u.curT u.curX die cls none) })
      fun _ => rfl

theorem State.admitAll_comesTo {cls : Nat} {l : List Elem} (h : Untouched s u) : comesTo s (Untouched s) (u.admitAll cls l) := by
  induction l generalizing u with
  | nil => exact h
  | cons e r ih =>
    unfold State.admitAll
    split
    · rename_i hx
      exact (State.admitReq_comesTo h).error hx
    · rename_i hx
      exact ih ((State.admitReq_comesTo h).ok hx)

theorem State.needRoom_comesTo {o : Operand} {n : Nat} {long : Bool} : comesTo s (fun _ => True) (u.needRoom o n long) := by
  unfold State.needRoom
  split
  · split
    · trivial
    · trivial
  · trivial

theorem rangeCheck_comesTo {a : Word} {w : Nat} {l : List Nat} {st : Bool} : comesTo s (fun _ => True) (rangeCheck a w l st) := by
  unfold rangeCheck
  split
  · dsimp only
    split
    · trivial
    · trivial
  · trivial

theorem State.waitMask_untouched {wm : BitVec 8} {s1 : State} (e : s.waitMask wm = .ok s1) : Untouched s s1 := by
  unfold State.waitMask at e
  split at e
  · cases e; exact .refl s
  · split at e
    · cases e
    · split at e
      · cases e
      · cases e; exact .dropClean ..

end Before

/-! ### Reads that write no line back (R232, R234, R235) -/

/-- What memory holds, the releases recorded with its words, and the lines of the L1s. -/
def State.contents (s : State) := (s.mem, s.rel, s.l1)

/-- Lines of the issuing core's L1. -/
def State.ownLines (s : State) : Nat := (s.l1.filter fun q => q.core == coreOf s.curT).length

section Quiet

variable {s u : State}

theorem State.l1Room_iff {n : Nat} : s.l1Room n ↔ s.ownLines + n ≤ l1Lines := Iff.rfl

theorem State.invalidRind_contents (s : State) (sl line : Nat) : (s.invalidRind sl line).contents = s.contents := by
  unfold State.invalidRind
  split
  · rfl
  · rename_i r _
    cases r.pointer <;> rfl

theorem State.pageMode_contents (s : State) (die page : Nat) : (s.pageMode die page).contents = s.contents := by
  unfold State.pageMode
  split
  · rfl
  · extract_lets set
    split
    · rfl
    · split
      · exact fold_view State.contents (fun s (r : Rind) => s.invalidRind r.slice r.line)
          (fun _ _ => State.invalidRind_contents ..) _ s
      · rfl

theorem State.countPage_contents (s : State) (die page : Nat) (w : Bool) : (s.countPage die page w).contents = s.contents := by
  unfold State.countPage
  extract_lets sat bump
  split <;> rfl

theorem State.readLine64_contents (s : State) (t : Nat) (g : Target) (line : Nat) :
    (s.readLine64 t g line).2.contents = s.contents := by
  unfold State.readLine64
  extract_lets key c die nodup part fill
  have hfill (u : State) (sl : Nat) : (fill u sl).contents = u.contents := by
    show (if _ then _ else _ : State).contents = _
    split
    · rfl
    · split
      · rfl
      · extract_lets id away v
        split <;> rfl
  have hpage (d p : Nat) : ((s.countPage d p false).pageMode d p).contents = s.contents :=
    (State.pageMode_contents ..).trans (State.countPage_contents ..)
  split
  · rfl
  · split
    · exact hfill ..
    · split
      · exact hfill ..
      · split
        · exact hpage ..
        · dsimp only
          split
          · exact (hfill ..).trans (hpage ..)
          · exact (hfill ..).trans (hpage ..)

/-- Reading does not write memory or the record of releases, and adds at most a line to the issuing core's L1. -/
structure Quiet (s u : State) : Prop where
  curT : u.curT = s.curT
  mem  : u.mem = s.mem
  rel  : u.rel = s.rel
  ownLines : u.ownLines ≤ s.ownLines + 1

theorem Quiet.of_contents (hc : u.contents = s.contents) (ht : u.curT = s.curT) : Quiet s u := by
  have h1 : u.l1 = s.l1 := congrArg (·.2.2) hc
  exact ⟨ht, congrArg (·.1) hc, congrArg (·.2.1) hc, by rw [State.ownLines, State.ownLines, h1, ht]; omega⟩

/-- A word without a recorded release is read through an L1 with room for a line (R232, R235). -/
theorem State.readL1_quiet (g : Target) (n : Nat) (fresh : Bool) (hrel : s.relOf g.key = []) (hroom : s.ownLines < l1Lines) :
    Quiet s (s.readL1 s.curT g n fresh).2 := by
  unfold State.readL1
  extract_lets line ofs need old keep
  split
  · exact .of_contents rfl rfl
  · have hcore : old.core = coreOf s.curT := by
      show ((s.findL1 (coreOf s.curT) line).getD _).core = _
      cases hf : s.findL1 (coreOf s.curT) line with
      | none => rfl
      | some l =>
        have := List.find?_some hf
        simp only [Bool.and_eq_true, beq_iff_eq] at this
        exact this.1
    have hreleased : s.readReleased g.key = s := by rw [State.readReleased, hrel]; rfl
    rw [hreleased]
    have hc := State.readLine64_contents s s.curT g line
    have hl : (s.readLine64 s.curT g line).2.l1 = s.l1 := congrArg (·.2.2) hc
    have hT := (State.readLine64_kept s s.curT g line).curT
    dsimp only
    rw [State.putL1_room]
    · refine ⟨hT, congrArg (·.1) hc, congrArg (·.2.1) hc, ?_⟩
      unfold State.ownLines
      refine Nat.le_trans (State.setL1_count ..) ?_
      show (List.filter (fun q : L1Line => q.core == coreOf (s.readLine64 s.curT g line).2.curT) _).length + 1 ≤ _
      exact Nat.le_of_eq (by rw [hl, hT])
    · right
      dsimp only
      rw [hl, hcore]
      exact hroom

theorem State.readBytes_quiet (x : Side) (g : Target) (n : Nat) (fresh : Bool) (hrel : s.relOf g.key = [])
    (hroom : s.ownLines < l1Lines) : Quiet s (s.readBytes s.curT x g n fresh).2.2 := by
  unfold State.readBytes
  split
  · exact .of_contents rfl rfl
  · split
    · exact State.readL1_quiet g n fresh hrel hroom
    · split
      · exact .of_contents rfl rfl
      · exact .of_contents rfl rfl

/-- Elements without a recorded release are read with memory as it was, where the core's L1 has room for a line for each. -/
theorem State.readElems_mem (x : Side) (n : Nat) (acq : Bool) (l : List Elem) (s : State) (hrel : ∀ e ∈ l, s.relOf e.g.key = [])
    (hroom : s.l1Room l.length) : (s.readElems s.curT x n acq l).2.2.mem = s.mem := by
  induction l generalizing s with
  | nil => rfl
  | cons e r ih =>
    rw [State.l1Room_iff, List.length_cons] at hroom
    let s1 := if acq then s.acquireAll s.curT 6 (s.relOf e.g.key)
      else s.updStrand s.curT x fun st => st.observe e.g.home (s.relOf e.g.key)
    have h1 : s1.contents = s.contents ∧ s1.curT = s.curT := by
      show (if acq then s.acquireAll s.curT 6 (s.relOf e.g.key) else _ : State).contents = _ ∧
        (if acq then s.acquireAll s.curT 6 (s.relOf e.g.key) else _ : State).curT = _
      rw [hrel e List.mem_cons_self]
      split <;> exact ⟨rfl, rfl⟩
    have hq1 := Quiet.of_contents h1.1 h1.2
    have hown : s1.ownLines = s.ownLines := by
      have hl : s1.l1 = s.l1 := congrArg (·.2.2) h1.1
      rw [State.ownLines, State.ownLines, hl, h1.2]
    have hrel1 (k : Nat) : s1.relOf k = s.relOf k := by rw [State.relOf, State.relOf, hq1.rel]
    have hq2 := State.readBytes_quiet (s := s1) x e.g n acq (by rw [hrel1]; exact hrel e List.mem_cons_self)
      (by rw [hown]; omega)
    rw [h1.2] at hq2
    have h3 := ih (s1.readBytes s.curT x e.g n acq).2.2
      (fun f hf => by rw [State.relOf, hq2.rel]; exact (hrel1 _).trans (hrel f (List.mem_cons_of_mem _ hf)))
      (by have := hq2.ownLines; rw [State.l1Room_iff]; omega)
    rw [hq2.curT, h1.2] at h3
    exact h3.trans (hq2.mem.trans hq1.mem)

end Quiet

/-! ### The load rows -/

/-- What a load of elements leaves, and memory as it was where it reads no recorded release and the core's L1 has room. -/
def Loaded (els : List Elem) (s t : State) : Prop :=
  LoadKept s t ∧ (s.l1Room els.length → (∀ el ∈ els, s.relOf el.g.key = []) → t.mem = s.mem)

section LoadRows

variable {s u : State} {α : Type} {p : α → Prop} {r : Except Stop α}

theorem comesTo.self (h : comesTo s p r) : comesTo s (fun a => p a ∧ r = .ok a) r := by
  cases r with
  | ok a => exact ⟨h, rfl⟩
  | error x => exact h

theorem comesTo.mono {q : α → Prop} (h : comesTo s p r) (hpq : ∀ a, p a → q a) : comesTo s q r := by
  cases r with
  | ok a => exact hpq a h
  | error x => exact h

/-- Checked elements are touched, their requests admitted, and they are read and the load retires. -/
theorem loadElems_comesTo (h : Untouched s u) (els : List Elem) (k : State → State)
    (hk : ∀ v, ∃ n acq la ws bad, k v = (v.readElems v.curT v.curX n acq els).2.2.retireLoad la ws bad) :
    comesTo s (Loaded els s) (do
      let v ← u.touchAll u.curT els
      let v ← v.admitAll 0 els
      pure (k v)) := by
  refine (State.touchAll_comesTo h).bind fun v hv => (State.admitAll_comesTo hv).bind fun v hv => ?_
  obtain ⟨n, acq, la, ws, bad, hkv⟩ := hk v
  show Loaded els s (k v)
  rw [hkv]
  refine ⟨hv.kept.trans ((State.readElems_kept ..).trans (State.retireLoad_kept ..)), fun hroom hrel => ?_⟩
  rw [State.retireLoad_mem, State.readElems_mem _ _ _ _ _ (fun e he => (hv.relOf _).trans (hrel e he)) (hv.l1Room hroom), hv.mem]

/-- A row whose body loads the elements that its checks list leaves the frame of a load. -/
theorem loadFramed_of_issue {row : Enc → Instr} {D : Enc → Desc} {body : Enc → State → Except Stop State} {n : Enc → Nat}
    {at_ : Enc → State → List (Nat × Word × Option Nat)} (hx : ∀ e s, exec (row e) s = issue (D e) e s (body e))
    (hd : ∀ e acc, describe acc (row e) = some (e, D e))
    (hb : ∀ e s s1, Untouched s s1 → comesTo s (fun t => ∃ els s2,
      s1.checkElems s1.curT (n e) e.sw.toNat false (at_ e s1) = .ok (els, s2) ∧ Loaded els s t) (body e s1)) :
    LoadFramed row n at_ := by
  have ends (e : Enc) (s t : State) (h : exec (row e) s = .next t) (hc : completed s t) :
      ∃ s1, s.waitMask e.wm = .ok s1 ∧ (t = s1.next ∨ body e s1 = .ok t) := by
    rw [hx] at h
    exact (issue_completed h hc fun s1 x hw hbad => ((hb e s s1 (State.waitMask_untouched hw)).error hbad).carried).2
  refine ⟨fun e s t h hc => ?_, fun e s s1 s2 t els ha hcheck h hc hroom hrel a => ?_⟩
  · obtain ⟨s1, hw, rfl | hbody⟩ := ends e s t h hc
    · exact ((State.waitMask_untouched hw).kept.trans (.updMy s1 Strand.advance fun _ => rfl)).loadFrame
    · obtain ⟨_, _, -, hload⟩ := (hb e s s1 (State.waitMask_untouched hw)).ok hbody
      exact hload.1.loadFrame
  · obtain ⟨s1', hw, hend⟩ := ends e s t h hc
    obtain ⟨e', d, th, hdesc, -, -, hw', -⟩ := accept_cases ha
    rw [hd] at hdesc
    cases hdesc
    rw [hw'] at hw
    cases hw
    have hpre := State.waitMask_untouched hw'
    refine congrArg (fun m => memGet m a) ?_
    obtain rfl | hbody := hend
    · exact hpre.mem
    · obtain ⟨els', _, hcheck', hload⟩ := (hb e s s1 hpre).ok hbody
      rw [hcheck'] at hcheck
      cases hcheck
      exact hload.2 hroom hrel

theorem vectorLoad_comesTo (e : Enc) (h : Untouched s u) {range : Except Stop Unit} {l : List (Nat × Word × Option Nat)}
    (hr : comesTo s (fun _ => True) range) :
    comesTo s (fun t => ∃ els s2, u.checkElems u.curT (tyWidth true e.ty / 8) e.sw.toNat false l = .ok (els, s2) ∧
      Loaded els s t) (vectorLoad e u range l) := by
  unfold vectorLoad
  refine State.needRoom_comesTo.bind fun _ _ => hr.bind fun _ _ => (State.checkElems_comesTo h).self.bind fun a ha => ?_
  obtain ⟨els, s2⟩ := a
  refine (loadElems_comesTo ha.1 els _ fun v => ⟨_, _, _, _, _, rfl⟩).mono fun t ht => ⟨els, s2, ha.2, ht⟩

theorem ldFramed : LoadFramed .ld (fun e => tyWidth false e.ty / 8) (fun e s => [(0, effAddr s e, none)]) := by
  refine loadFramed_of_issue (fun _ _ => rfl) (fun _ _ => rfl) fun e s s1 h => ?_
  refine State.needRoom_comesTo.bind fun _ _ => (State.checkElems_comesTo h).self.bind fun a ha => ?_
  obtain ⟨els, s2⟩ := a
  refine (loadElems_comesTo ha.1 els _ fun v => ⟨_, _, _, _, _, rfl⟩).mono fun t ht => ⟨els, s2, ha.2, ht⟩

/-- A row that is the shared body of the vector loads leaves the frame of a load. -/
theorem vectorLoadFramed_of_exec {row : Enc → Instr} {D : Enc → Desc} {range : Enc → State → Except Stop Unit}
    {at_ : Enc → State → List (Nat × Word × Option Nat)}
    (hx : ∀ e s, exec (row e) s = issue (D e) e s fun s1 => vectorLoad e s1 (range e s1) (at_ e s1))
    (hd : ∀ e acc, describe acc (row e) = some (e, D e)) (hr : ∀ e s s1, comesTo s (fun _ => True) (range e s1)) :
    LoadFramed row (fun e => tyWidth true e.ty / 8) at_ :=
  loadFramed_of_issue hx hd fun e s s1 h => vectorLoad_comesTo e h (hr e s s1)

end LoadRows

/-! ### The store rows -/

section StoreRows

variable {s s1 s2 s3 : State}

/-- A store whose source is read had an entry to read (R45). -/
theorem State.needEntry_of_nonempty (o : Operand) (h : o.cls = .queue → s.me.getQ o.idx.toNat ≠ []) : s.needEntry o = .ok () := by
  unfold State.needEntry
  refine if_neg fun hq => ?_
  simp only [Bool.and_eq_true, beq_iff_eq, List.isEmpty_iff] at hq
  exact h hq.1 hq.2

theorem State.readScalar_nonempty {ty : Ty} {imm : BitVec 24} {o : Operand} {a : Word × List RegWrite × State}
    (h : s.readScalar ty imm o = .ok a) (hc : o.cls = .queue) : s.me.getQ o.idx.toNat ≠ [] := by
  intro hq
  rw [State.readScalar, hc] at h
  dsimp only at h
  rw [State.popWord, hq] at h
  cases h

theorem State.readVec_nonempty {o : Operand} {a : VReg × List RegWrite × State}
    (h : s.readVec o = .ok a) (hc : o.cls = .queue) : s.me.getQ o.idx.toNat ≠ [] := by
  intro hq
  rw [State.readVec, hc] at h
  dsimp only at h
  rw [State.popVector, hq] at h
  cases h

theorem State.readVec_writes {o : Operand} {v : VReg} {ws : List RegWrite} (h : s.readVec o = .ok (v, ws, s1))
    (hc : o.cls ≠ .queue) : ws = [] := by
  unfold State.readVec at h
  split at h
  · exact absurd ‹_› hc
  · cases h; rfl

/-- What precedes a store's reads leaves its queues. -/
theorem Untouched.getQ (h : Untouched s s1) (q : Nat) : s1.me.getQ q = s.me.getQ q := by
  rw [State.me, State.me, h.kept.curT]
  exact h.kept.queue q

theorem checkElems_untouched {n sw : Nat} {st : Bool} {l : List (Nat × Word × Option Nat)} {els : List Elem}
    (h : s1.checkElems s1.curT n sw st l = .ok (els, s2)) : Untouched s1 s2 :=
  (State.checkElems_comesTo (.refl s1)).ok h

/-- The elements of a row's store, stored over memory in canonical form, and its retirement leave the frame of a store. -/
theorem storeFrame_of_canon (e : Enc) {n : Nat} {val : Nat → Nat} {l : List Elem} {ws : List RegWrite} (hm : Canon s3.mem)
    (hws : e.da.cls ≠ .queue → ws = []) :
    let p := s3.storeRelease (e.gs == 2)
    StoreFrame l n p.2 ((p.2.storeElems p.2.curT p.2.curX n p.1 val l).retire e.la (e.da.cls == .queue) ws) :=
  State.storeElems_frame _ _ _ _ _ _ _ _ (State.storeRelease_canon hm) fun h => hws (by simpa using h)

/-- Memory stays in canonical form up to a store's source read. -/
theorem canon_of_checks {i : Instr} (hi : s.Inv) (ha : accept i s = some s1) {n sw : Nat} {st : Bool}
    {l : List (Nat × Word × Option Nat)} {els : List Elem} (hc : s1.checkElems s1.curT n sw st l = .ok (els, s2)) :
    Canon s2.mem := by
  obtain ⟨e, _, _, -, -, -, hw, -⟩ := accept_cases ha
  have hs : Canon s.mem := hi
  rw [(checkElems_untouched hc).mem, (State.waitMask_untouched hw).mem]
  exact hs

theorem stFramed (e : Enc) {l : List Elem} {v : Word} {ws : List RegWrite} (hi : s.Inv) (ha : accept (.st e) s = some s1)
    (hc : s1.checkElems s1.curT (tyWidth false e.ty / 8) e.sw.toNat true [(0, effAddr s1 e, none)] = .ok (l, s2))
    (hr : s2.readScalar e.ty e.imm e.da = .ok (v, ws, s3)) :
    ∃ t, exec (.st e) s = .next t ∧ StoreFrame l (tyWidth false e.ty / 8) (s3.storeRelease (e.gs == 2)).2 t := by
  have hentry : s1.needEntry e.da = .ok () := State.needEntry_of_nonempty _ fun hq => by
    rw [← (checkElems_untouched hc).getQ]
    exact State.readScalar_nonempty hr hq
  have hm : Canon s3.mem := (State.readScalar_carries (canon_of_checks hi ha hc)).ok hr
  exact ⟨_, scalarLoadStore.2 e s s1 s2 s3 l v ws ha hentry hc hr, storeFrame_of_canon e hm (State.readScalar_kept hr).2⟩

/-- A row that is the shared body of the vector stores leaves the frame of a store. -/
theorem vectorStoreFramed {row : Enc → Instr} {range : Enc → State → Except Stop Unit}
    {at_ : Enc → State → List (Nat × Word × Option Nat)} (hrow : VectorStoreResult row range at_) (e : Enc) {l : List Elem}
    {v : VReg} {ws : List RegWrite} (hi : s.Inv) (ha : accept (row e) s = some s1) (hrange : range e s1 = .ok ())
    (hc : s1.checkElems s1.curT (tyWidth true e.ty / 8) e.sw.toNat true (at_ e s1) = .ok (l, s2))
    (hr : s2.readVec e.da = .ok (v, ws, s3)) :
    ∃ t, exec (row e) s = .next t ∧ StoreFrame l (tyWidth true e.ty / 8) (s3.storeRelease (e.gs == 2)).2 t := by
  have hentry : s1.needEntry e.da = .ok () := State.needEntry_of_nonempty _ fun hq => by
    rw [← (checkElems_untouched hc).getQ]
    exact State.readVec_nonempty hr hq
  have hm : Canon s3.mem := (State.readVec_carries (canon_of_checks hi ha hc)).ok hr
  exact ⟨_, hrow e s s1 s2 s3 l v ws ha hentry hrange hc hr, storeFrame_of_canon e hm (State.readVec_writes hr)⟩

end StoreRows

/-- Settles O60: a load's body is what comes before its reads, which changes no register and no memory, and reads; a store's
result is its elements stored and its retirement. -/
theorem loadStoreFrame : Obligations.LoadStoreFrame := by
  unfold Obligations.LoadStoreFrame
  obtain ⟨-, -, -, hvst, hvsts, hvstx⟩ := vectorLoadStore
  have contiguousRange (e : Enc) (s s1 : State) : comesTo s (fun _ => True)
      (rangeCheck (effAddr s1 e) (tyWidth true e.ty) (enabledElems s1.my e (tyWidth true e.ty)) false) := rangeCheck_comesTo
  refine ⟨ldFramed, ?vld, ?vlds, ?vldx, fun e s s1 s2 s3 l v ws hi ha hc hr => stFramed e hi ha hc hr,
    fun e s s1 s2 s3 l v ws hi ha hrange hc hr => vectorStoreFramed hvst e hi ha hrange hc hr,
    fun e s s1 s2 s3 l v ws hi ha hc hr => vectorStoreFramed hvsts e hi ha rfl hc hr,
    fun e s s1 s2 s3 l v ws hi ha hc hr => vectorStoreFramed hvstx e hi ha rfl hc hr⟩
  case vld => exact vectorLoadFramed_of_exec (fun _ _ => rfl) (fun _ _ => rfl) contiguousRange
  case vlds | vldx =>
    exact vectorLoadFramed_of_exec (range := fun _ _ => .ok ()) (fun _ _ => rfl) (fun _ _ => rfl) fun _ _ _ => trivial

end Sys2Proof.Machine
end
